-- ==== Sys2Proof/Word.lean ====
section
/-! DEFINITION. The words of the machine: bytes, registers, addresses (R1, R15, R27). -/

namespace Sys2Proof

/-- One byte of storage. -/
abbrev Byte := BitVec 8

/-- One lane of a vector register (R15). -/
abbrev W32 := BitVec 32

/-- A scalar, mask or rejoin register, or an instruction word (R15, R27). -/
abbrev W64 := BitVec 64

/-- A 56-bit virtual address or program counter (R15, R172). -/
abbrev Addr := BitVec 56

end Sys2Proof
end

