-- ==== Sys2Proof/Machine/Sparse.lean ====
section
/-! DEFINITION. Sparse maps: storage by number in one canonical form, keys strictly rising and no
entry equal to what an unlisted key reads as, so that equal contents are equal data. -/

namespace Sys2Proof.Machine

/-- Entries by rising key; an unlisted key reads as a default that the reader names. -/
abbrev Sparse (α : Type) := List (Nat × α)

/-- The entry of a key, or the default `d`. -/
def look {α : Type} (d : α) : Sparse α → Nat → α
  | [], _ => d
  | (k, v) :: m, n => if k = n then v else look d m n

/-- Removes an entry. -/
def erase {α : Type} : Sparse α → Nat → Sparse α
  | [], _ => []
  | (k, v) :: m, n => if k = n then erase m n else (k, v) :: erase m n

/-- Writes one entry; writing the default removes it. -/
def put {α : Type} [DecidableEq α] (d : α) : Sparse α → Nat → α → Sparse α
  | [], n, x => if x = d then [] else [(n, x)]
  | (k, v) :: m, n, x =>
    if k = n then put d m n x
    else if n < k then (if x = d then (k, v) :: erase m n else (n, x) :: (k, v) :: erase m n)
    else (k, v) :: put d m n x

/-- Every key of the map lies above `b`, keys rise, and no entry holds the default. -/
def wfFrom {α : Type} [DecidableEq α] (d : α) : Nat → Sparse α → Bool
  | _, [] => true
  | b, (k, v) :: m => decide (b ≤ k) && decide (v ≠ d) && wfFrom d (k + 1) m

/-- The canonical form. -/
def sparseWf {α : Type} [DecidableEq α] (d : α) (m : Sparse α) : Bool := wfFrom d 0 m

/-- Drops the entries whose key satisfies `p`. -/
def dropKeys {α : Type} (p : Nat → Bool) (m : Sparse α) : Sparse α :=
  m.filter fun e => !p e.1

/-- The keys of the listed entries. -/
def keysOf {α : Type} (m : Sparse α) : List Nat := m.map Prod.fst

end Sys2Proof.Machine
end

