-- ==== Sys2Proof/Machine/Records.lean ====
section
/-! DEFINITION. The records of the machine's state: lanes, threads, accesses in flight, cores,
clusters, workgroups, contexts, atolls, dies and the package, each as plain data. A record whose
first field `live` is false is the absent one, which an unlisted key reads as. -/

namespace Sys2Proof.Machine

/-- The engines that execute instructions (R50). -/
inductive Engine | core | scc | harbour | access
  deriving DecidableEq, Repr

/-- The privilege levels, least first (R11). -/
inductive Level | kernel | steward | handler | harbour
  deriving DecidableEq, Repr

/-- The trap causes (R361). -/
inductive Cause
  | undef | priv | regRange | badTarget | align | badAddr | memType | poison | fpe | qUnder
  | pairLess | badRow | mapConf | frame | trap | xFault
  deriving DecidableEq, Repr

/-- The memory types of R175, and the Lagoon window of R172. -/
inductive Space | dev | host | peer | mmio | lagoon
  deriving DecidableEq, Repr

/-- What stopped a translation (R371, R373). `stage2` marks a second-stage fault, `home` a fault
that the home device of a home-served range serves. -/
structure Miss where
  access : Nat := 0
  reason : Nat := 0
  level  : Nat := 0
  va     : Nat := 0
  stage2 : Bool := false
  home   : Bool := false
  gpa    : Nat := 0
  region : Bool := false      -- met by the map unit filling a region for the access (R178)
  of_    : Option Nat := none -- the context in which it arose, where that is not the accessor's: the region's (R178)
  row    : Option Nat := none -- a store through a held row whose recorded W is 0: its handle (R251)
  deriving DecidableEq, Repr

/-- Why a lane is in the stopped state (R74): for the record of a trap, in a suspended sequence, for a
context save (R348). -/
inductive Stop
  | record (id : Nat)
  | sequence
  | save
  deriving DecidableEq, Repr

/-- The lane states of R74. -/
inductive LaneState
  | running
  | joining (j : Nat)
  | atBarrier (mem : Bool)
  | sleeping (wake : Nat)
  | parked (fault : Nat)
  | stopped (why : Stop)
  | exited
  deriving DecidableEq, Repr

/-- The kinds of fence (R210). -/
inductive FenceKind | full | rel | acq
  deriving DecidableEq, Repr

/-- What a held group does when its fence's conditions hold. -/
inductive After
  | move                      -- a fence: the group moves on
  | access                    -- a releasing access: the group issues it (R212)
  | done                      -- the acquire of an access or barrier that has been performed: the group moves on
  | arrive (op : Nat) (mem : Bool)   -- a barrier form with .mem: the lanes arrive (R100)
  deriving DecidableEq, Repr

/-- What holds a running group, so that it is not ready (R76, R80). -/
inductive Hold
  | none
  | passed                                          -- the fence of a releasing access is done
  | counters (l s c t : Nat)                        -- WAIT (R98)
  | fence (kind : FenceKind) (scope before : Nat) (next : After)
  | until (target : Nat)                            -- TWAIT (R214)
  | sync (sd addr gen : Nat)                        -- SYNCWAIT (R275)
  | launch (sd n : Nat)                             -- LWAIT (R356)
  | mailbox (sd box : Nat)                          -- MBRECV (R357)
  | event (sd mask : Nat)                           -- EVWAIT (R359)
  | copy (id : Nat)                                 -- a copy not yet accepted (R265)
  | tile (op : Nat)                                 -- tile bytes not yet arrived (R304)
  | written (before until_ : Nat)                   -- RFENCE (R307): and until which fc results are due
  | halt (mask : Nat)                               -- HALT (R388)
  | cut (sd id : Nat)                               -- a local FREEZE before its cut (R388)
  deriving DecidableEq, Repr

/-- What the word that a lane's PC names must still be judged as (R30). -/
inductive Need | none | fall | start
  deriving DecidableEq, Repr

/-- One lane (R74, R75), or the one lane of a scalar or access thread. -/
structure Lane where
  live      : Bool := false
  state     : LaneState := .running
  hold      : Hold := .none
  pc        : Addr := 0
  header    : Addr := 0       -- H(L) of R91
  word      : W64 := 0        -- the header word of the lane's block
  need      : Need := .none
  starve    : Nat := 0        -- W (R78)
  excluded  : Nat := 0        -- 1 + the fc left of a YIELD exclusion, 0 without one (R96)
  gen       : W32 := 0        -- G (R143)
  rewritten : Bool := false   -- R367
  arrived   : Bool := false   -- R100
  deriving DecidableEq, Repr

/-- The registers that a snapshot of a warp copies (R77, R256). -/
structure Regs where
  s      : Sparse W64 := []
  m      : Sparse W64 := []
  j      : Sparse W64 := []
  v      : Sparse W32 := []     -- key 64 × register + lane
  em     : W64 := 0
  fpctl  : W32 := 0
  fpstat : W32 := 0
  raen   : Bool := true
  lanes  : Sparse Lane := []
  deriving DecidableEq, Repr

/-- A `REP` sequence (R85, R86): the repeated instruction's address, the step mask and stride, the
number of executions, the next execution, and the lanes of its group. -/
structure Sequence where
  pc     : Addr := 0
  mask   : Nat := 0
  stride : Nat := 1
  count  : Nat := 0
  next   : Nat := 0
  lanes  : Nat := 0
  paused : Bool := false
  deriving DecidableEq, Repr

/-- A runahead episode (R255, R256): its trigger, the instructions issued, the shadow with the live
groups' registers, the live groups, the loads outstanding at entry whose registers are to be
written at the exit, and the marks of invalid registers. -/
structure Episode where
  trigger  : Nat := 0
  issued   : Nat := 0
  shadow   : Regs := {}
  groups   : Nat := 0
  lanesIn  : Nat := 0
  held     : List Nat := []
  badV     : List Nat := []   -- 64 × register + lane
  badS     : List Nat := []
  badM     : List Nat := []   -- 64 × mask register + lane
  lost     : Bool := false    -- an uncorrectable error in the checkpoint buffer (R379)
  deriving DecidableEq, Repr

/-- One open loop of an access thread (R281). -/
structure Loop where
  count : Nat := 0
  sd    : Nat := 0
  sa    : Nat := 0
  back  : Addr := 0
  header : Addr := 0
  word  : W64 := 0
  deriving DecidableEq, Repr

/-- One entry of a queue port (R278). -/
structure Entry where
  filled : Bool := false
  values : Sparse W32 := []
  poison : Nat := 0           -- lanes whose value is marked poisoned (R280)
  id     : Nat := 0
  deriving DecidableEq, Repr

/-- Registers in use by a Reef operation until the warp's `WAIT` with t = 0 (R301). -/
structure ReefUse where
  op    : Nat := 0
  acc   : List Nat := []
  src   : List Nat := []
  deriving DecidableEq, Repr

/-- A result that is written but not yet available, or lanes that may not issue yet: the register (2048 + n for
scalar n, 4096 + n for mask n, 8192 for an issue), the lanes, and the first front-end cycle of the thread's
engine from which it is there (R90, R108, R118, R154). -/
structure Due where
  reg   : Nat := 0
  lanes : Nat := 0
  at_   : Nat := 0
  deriving DecidableEq, Repr

/-- A warp, a scalar thread of an SCC or a Harbour core, or an access thread. -/
structure Thread where
  live    : Bool := false
  engine  : Engine := .core
  level   : Level := .kernel
  ctx     : Nat := 64
  core    : Nat := 0            -- the core number; the cluster's number for SCC, die × 8 + core for Harbour
  slot    : Nat := 0
  width   : Nat := 1
  budget  : Nat := 0
  launch  : Nat := 0
  wg      : Nat := 0            -- key of the workgroup
  warp    : Nat := 0            -- warp index within the workgroup
  record  : Nat := 0            -- of a handler: its trap record + 1
  regs    : Regs := {}
  cntL    : Nat := 0
  cntS    : Nat := 0
  cntC    : Nat := 0
  cntT    : Nat := 0
  repcnt  : Nat := 0
  seq     : Option Sequence := none
  rstat   : W32 := 0
  lgw     : Nat := 0
  episodes   : Nat := 0
  prefetches : Nat := 0
  useful     : Nat := 0
  rainsts    : Nat := 0
  episode : Option Episode := none
  reefst  : W32 := 0
  reefUse : List ReefUse := []
  queues  : List (List Entry) := [[], [], [], []]
  loops   : List Loop := []
  skip    : Nat := 0            -- depth of AELOOP bodies being skipped (R281)
  ended   : Bool := false       -- an access thread that has ended
  age     : Nat := 0            -- fc for which the warp has been ready without issuing (R76)
  links   : Nat := 0            -- host links that carried a store since the last system fence (R228)
  lost    : List Nat := []      -- registers with an uncorrectable error (R379): 64 × vector register + lane, 65536 + scalar register
  vpend   : List Nat := []      -- vector registers whose write the Reef array may not see yet (R300)
  due     : List Due := []      -- results and lanes that are not ready yet (R76)
  deriving DecidableEq, Repr

/-- Where an element of a load or an atomic's old value goes. -/
inductive Dst
  | v (reg lane : Nat)
  | s (reg : Nat)
  | q (port id lane : Nat)
  deriving DecidableEq, Repr

/-- One element of an access: the destination, the bit address of its low bit, its width in bits. -/
structure Elem where
  dst   : Dst := .s 0
  bit   : Nat := 0
  width : Nat := 32
  sext  : Bool := false
  deriving DecidableEq, Repr

/-- The classes of R84; `q` is a push of an access thread, which moves no counter. -/
inductive Cls | l | s | c | t | q | none
  deriving DecidableEq, Repr

/-- The Reef operations (R302). -/
inductive ReefKind | loadB | code | mac | macPair
  deriving DecidableEq, Repr

/-- One B slot of a Reef array (R286, R287). -/
structure Slot where
  tag    : Nat := 0
  store  : Sparse Nat := []       -- code of element (k, n) at 64 × k + n
  scales : Sparse Nat := []       -- E8F2 pattern of scale (b, n) at 2 × n + b, less 0x1FC modulo 2^10
  code   : Sparse Nat := []       -- BF16 pattern of entry i
  bad    : List Nat := []         -- elements struck by an uncorrectable error (R379)
  deriving DecidableEq, Repr

/-- A tensor operation: what it does, the A registers or popped entries and the scale registers that it
read, and for a multiplication the slots as its serial phase found them. -/
structure ReefOp where
  kind   : ReefKind := .mac
  fmt    : Nat := 0            -- minor: RLOADB 0 to 6; RMAC format 0 i8, 1 e4m3, 2 e5m2, 3 bf16
  acc    : Nat := 0
  slot   : Nat := 0
  bs     : Nat := 0
  core   : Nat := 0            -- the array whose slot it uses (the leader's for a pair)
  avals  : List (Sparse W32) := []   -- values by lane
  scales : List (Sparse W32) := []
  tiles  : List Slot := []
  x      : Nat := 0
  pitch  : Nat := 0
  clash  : Bool := false       -- its accumulators or slot scales take undefined values (R300, R301, R306)
  spoilt : List Nat := []      -- accumulator registers that take undefined values (R301)
  accepted : Bool := false
  begun  : Bool := false       -- the serial phase has begun
  deriving DecidableEq, Repr

/-- What a row instruction asks of the base die, or that it is one (R248 to R251). `release` awaits the
close of the row at a physical address. -/
inductive RowAct
  | open_ (w : Bool) (level : Nat)
  | renew (handle : Nat)
  | release (pa : Nat)
  | access
  deriving DecidableEq, Repr

/-- An instruction's accesses that are issued and not complete (R84). -/
structure Op where
  live  : Bool := false
  thr   : Nat := 0
  cls   : Cls := .none
  lanes : Nat := 0
  pc    : Addr := 0
  ctx   : Nat := 64
  core  : Nat := 768
  elems : List Elem := []
  dsts  : List Dst := []
  bytes : Sparse Byte := []        -- bytes that have arrived, by virtual address
  outs  : List (Dst × W64) := []   -- results given by a slice
  gwct  : Nat := 0
  sync  : Option Nat := none       -- SYNCRD: its selector
  dram  : Bool := false            -- a request of it missed in L2 and went to DRAM (R255)
  rowAct : Option RowAct := none   -- an instruction of group 0x9
  poison : Nat := 0                -- lanes whose element was poisoned (QLD)
  struck : List (Nat × Nat) := []  -- lanes whose data was found poisoned where it was performed, with their address (R183)
  triggered : Bool := false        -- it has begun a runahead episode (R255)
  reef  : Option ReefOp := none
  acq : Nat := 0                   -- the scope of an acquiring compare whose lanes await the slice (R200)
  drain : Bool := false            -- an `RDRAIN` (R309)
  deriving DecidableEq, Repr

/-- One lane's part of an atomic (R196 to R200). -/
structure Atom where
  lane   : Nat := 0
  aop    : Nat := 0        -- R45; 16 for ACAS, 17 for ACASW
  off    : Nat := 0
  x      : Nat := 0
  cmp    : Nat := 0
  canW   : Bool := true
  dst    : List Dst := []
  deriving DecidableEq, Repr

/-- The kinds of request sent to a point of coherence. -/
inductive ReqKind | load | store | atomic | discard | syncInit | row
  deriving DecidableEq, Repr

/-- A request for one single-copy atomic unit (R175, R181). -/
structure Req where
  live  : Bool := false
  op    : Nat := 0
  thr   : Nat := 0
  ctx   : Nat := 64
  launch : Nat := 0
  core  : Nat := 768
  kind  : ReqKind := .load
  space : Space := .dev
  key   : Nat := 0            -- memory key of the unit's first byte
  va    : Nat := 0            -- virtual address of that byte
  size  : Nat := 32
  mask  : Nat := 0            -- bits written
  data  : Nat := 0
  atoms : List Atom := []
  half  : Bool := false       -- the low half of an add.bf16x2 is performed (R198)
  acq   : Bool := false       -- never served from L1 (R212)
  done  : Bool := false       -- performed
  acked : Bool := true        -- a PEER access: the acknowledgement has arrived
  gwct  : Nat := 0
  copy  : Option Nat := none  -- the copy that writes (to a peer)
  unit  : Option Nat := none  -- the map unit's write-back of a region of this workgroup (R202)
  inbound : Bool := false     -- the high half of a peer's atomic on this device's memory (R198, R398)
  deriving DecidableEq, Repr

/-- What a copy is run for. -/
inductive CopyFor
  | thread                    -- COPY or COPY2D
  | payload (ctx box : Nat)   -- R395
  | init (wg : Nat)           -- R344
  deriving DecidableEq, Repr

/-- Bytes that a copy has written, by number, with their GWCT, or the request to a peer whose
acknowledgement is still awaited. -/
structure Moved where
  nums : List Nat := []
  gwct : Nat := 0
  req  : Option Nat := none
  deriving DecidableEq, Repr

/-- A copy (R265 to R273). Bytes are numbered row by row. -/
structure Copy where
  live    : Bool := false
  owner   : CopyFor := .thread
  thr     : Nat := 0
  lanes   : Nat := 0
  slot    : Nat := 0
  pc      : Addr := 0
  ctx     : Nat := 64
  launch  : Nat := 0
  cluster : Nat := 0
  dst     : Nat := 0
  src     : Nat := 0
  rows    : Nat := 1
  len     : Nat := 0
  dpitch  : Int := 0
  spitch  : Int := 0
  sync    : Nat := 0
  accepted : Bool := false
  stalled : Option Nat := none          -- the fault it waits on
  abandoned : Bool := false
  buf     : Sparse Byte := []           -- source bytes read, by number
  got     : List Nat := []              -- byte numbers read
  spoiled : List Nat := []              -- byte numbers read from poisoned units
  moved   : List Moved := []
  counted : Nat := 0
  pieces  : List Nat := []              -- 256-byte blocks counted
  deriving DecidableEq, Repr

/-- A pair binding, as one core sees it (R297). -/
inductive Bind | none | leader | follower
  deriving DecidableEq, Repr

/-- A core and its Reef array (R9, R286). -/
structure Core where
  tick    : Nat := 0                    -- fc of the core so far, those of a freeze apart
  seen    : Nat := 0                    -- the cluster's fc that the core has had
  sfuFree : Nat := 0                    -- the fc from which the special-function unit is free (R154)
  divFree : Nat := 0                    -- the fc from which the scalar divider is free (R108)
  ckpt    : Option Nat := none          -- the warp that owns the checkpoint buffer
  owner   : Option (Nat × Nat) := none  -- context and launch that own the array
  slots   : Sparse Slot := []
  bind    : Bind := .none
  queue   : List Nat := []              -- accepted operations, oldest first
  freezes : List Nat := []              -- launches whose freeze holds the core (R368): 2^32 × context + number
  prefetching : List (Nat × Nat) := []  -- lines that episodes are prefetching, with the episode's trigger (R257)
  deriving DecidableEq, Repr

/-- A cluster's clock, power and engine state (R8, R413). -/
structure Cluster where
  step    : Nat := 0
  was     : Nat := 0                     -- the step in force before the last change
  ratio   : Nat := 1
  double  : Bool := false                -- tokens are granted for a lane ratio of 2 (R327, R330)
  relock  : Bool := false
  stretch : Bool := false
  throt   : Nat := 0
  throtAt : Nat := 0                     -- DT of the last throttle step
  gated   : Bool := true
  ballast : Nat := 0
  stretchCnt : Nat := 0
  ballastCnt : Nat := 0
  idleFrom : Option Nat := none          -- a time since which the cluster has been idle (R416)
  wake    : Nat := 0                     -- when ungating may end; 0 where none is under way (R416)
  seq     : Nat := 0                     -- sequence number of trap records
  queue   : List Nat := []               -- copies of the copy engine, in order of acceptance
  fc      : Nat := 0                     -- fc of the current window of 16 (R412)
  tick    : Nat := 0                     -- fc of the cluster so far
  seen    : Nat := 0                     -- the last of them that the SCC has had
  deriving DecidableEq, Repr

/-- A Lagoon region mapped by `LMAP` (R176, R194). -/
structure Region where
  live   : Bool := false
  lagoon : Nat := 0
  global : Nat := 0
  count  : Nat := 0
  filled : List Nat := []        -- granules
  dirty  : List Nat := []        -- 64-byte blocks
  closing : Bool := false        -- unmapped or released: write-back under way
  deriving DecidableEq, Repr

/-- A workgroup in residence (R343). -/
structure Wg where
  live    : Bool := false
  ctx     : Nat := 64
  launch  : Nat := 0
  index   : Nat := 0
  core    : Nat := 0
  slots   : List Nat := []
  warps   : List Nat := []        -- keys of its warps, by warp index
  started : Bool := false
  lagoon  : Nat := 0              -- offset of its Lagoon range in the cluster's slice
  bytes   : Nat := 0              -- its length, a multiple of 64 KiB
  ratio   : Nat := 1
  init    : Option Nat := none    -- the copy that fills it (R344)
  regions : List Region := []
  lastThr : Nat := 0
  lgw     : Nat := 0              -- largest LGW among its released warps
  deriving DecidableEq, Repr

/-- One entry of a launch table (R350, R355, R356). -/
structure Launch where
  live    : Bool := false
  number  : Nat := 0
  open_   : Bool := false         -- incomplete
  ops     : List W64 := []        -- sa to sa+6
  init    : Bool := false
  notify  : Bool := false
  next    : Nat := 0              -- index N of the next workgroup to place
  total   : Nat := 0
  completed : Nat := 0
  killed  : Bool := false
  hexit   : Bool := false
  done    : Bool := false
  lgw     : Nat := 0
  lastCore : Option Nat := none
  frozen  : Bool := false
  by_     : Nat := 0              -- the thread that issued it
  before  : Nat := 0              -- the flight key at its issue (R224)
  deriving DecidableEq, Repr

/-- The states of a row-table entry (R237). -/
inductive RowState | free | held | stale
  deriving DecidableEq, Repr

/-- One row-table entry (R237). -/
structure Row where
  state  : RowState := .free
  va     : Nat := 0
  pa     : Nat := 0
  w      : Bool := false
  level  : Nat := 0
  expiry : Nat := 0
  opened : Nat := 0          -- when the hold began (R241)
  reopen : Bool := false     -- held at a save under the save policy (R246)
  deriving DecidableEq, Repr

/-- A counter of a context (R385). -/
structure Counter where
  count : Nat := 0
  ovf   : Bool := false
  conf  : W64 := 0
  deriving DecidableEq, Repr

/-- One event record (R359). -/
structure EvRec where
  kind   : Nat := 0
  lost   : Bool := false
  source : Nat := 0
  seq    : Nat := 0
  word1  : W64 := 0
  deriving DecidableEq, Repr

/-- One mailbox ring (R337, R392). -/
structure Ring where
  pi   : Nat := 0
  ci   : Nat := 0
  slots : Sparse W64 := []            -- word w of slot j at 8 × j + w
  kept  : Sparse W64 := []            -- the slots of completed messages, as they stood at completion (R393)
  fetch : Option (Nat) := none        -- the payload copy of the oldest message
  ready : Nat := 0                    -- completed messages made deliverable: their index bound
  failed : List Nat := []             -- indices whose payload failed (PFAIL)
  deriving DecidableEq, Repr

/-- A period end whose controller step is under way: the time, the count and its merge, and the loop state
as it stood at that time (R318, R319). -/
structure Step where
  at_     : Nat := 0
  own     : Nat := 0
  job     : Nat := 0
  merged  : Option Nat := none   -- the count that the step uses, once it is known
  target  : Int := 0
  kp      : Nat := 0
  ki      : Nat := 0
  umax    : Nat := 8
  enable  : Bool := false
  imax    : Int := 0
  dmax    : Nat := 45
  pos     : Nat := 0
  int     : Int := 0
  held    : Bool := false      -- SHORT, THROTTLED or STOPPED in the period just ended
  throttled : Bool := false
  first   : Bool := false      -- the first step after a restore (R326)
  keepPos : Bool := false      -- a TSET of TPOS came in between
  keepInt : Bool := false
  deriving DecidableEq, Repr

/-- The tide-loop state of a context (R313). -/
structure Tide where
  target  : Int := 0
  kp      : Nat := 0
  ki      : Nat := 0
  umax    : Nat := 8
  enable  : Bool := false
  imaxlog : Nat := 24
  cls     : Nat := 3
  kc      : Nat := 9
  job     : Nat := 0
  pos     : Nat := 45
  int     : Int := 0
  own     : Nat := 0           -- TBEAT.OWN
  merged  : Nat := 0           -- TBEAT.MERGED
  flags   : Nat := 0
  grant   : List Nat := [4, 9, 1, 8, 0]     -- SLOTS, CORES, WAYS, SHARE, STEP
  demand  : List Nat := [32, 9, 8, 64, 15]
  allocated : Bool := false    -- an allocation has been made since creation or restore
  tokens  : Nat := 0           -- granted tokens
  pool    : Nat := 0           -- TTOKEN: the atoll's tokens for the period, as of the last update
  slew    : Nat := 0           -- TTOKEN: its slew budget, as of the last update
  count   : Nat := 0           -- own count of the current period
  short   : Bool := false      -- unflagged copies (R317)
  throttled : Bool := false
  stopped : Bool := false
  first   : Bool := false      -- the next step is the first after a restore
  step    : Option Step := none
  period  : Nat := 0           -- DT of the last period end served
  deriving DecidableEq, Repr

/-- Where a context stands with respect to being saved (R348, R404). -/
inductive Save | none | chosen | asked (since : Nat) | writing (since : Nat) | saved | restoring
  deriving DecidableEq, Repr

/-- A context (R10, R404). -/
structure Ctx where
  live    : Bool := false
  fn      : Nat := 0
  fslot   : Nat := 0
  atoll   : Nat := 0
  home    : Nat := 0
  lease   : Nat := 512
  rowqTotal : Nat := 0
  rowqPch : Nat := 0
  rowSave : Bool := false
  reopenFail : Bool := false
  deadline : Nat := 100
  slice   : Nat := 0
  sliceClamp : Bool := false
  active  : Bool := true
  activeFrom : Nat := 0
  waitFrom : Nat := 0
  trapvec : Nat := 0
  fring   : Nat := 0            -- BASE
  fsize   : Nat := 4
  xroot   : Nat := 0
  root2   : Nat := 0            -- second-stage root; 0 for a context of the PF
  peers   : Nat := 0            -- peer aperture table
  tide    : Tide := {}
  counters : Sparse Counter := []
  events  : List EvRec := []
  evSeq   : Sparse Nat := []    -- next sequence number of a source
  evLost  : List Nat := []      -- sources whose last record was dropped
  launches : Sparse Launch := []
  nextLaunch : Nat := 1
  lastLaunch : Nat := 0
  rows    : Sparse Row := []
  inb     : Sparse Ring := []
  outb    : Sparse Ring := []
  notices : List (List W64) := []   -- notices that wait for a place
  frpi    : Nat := 0
  frci    : Nat := 0
  frwait  : List Nat := []      -- faults whose ring entry waits for a place
  istat   : Nat := 0
  imask   : Nat := 0
  steward : Option Nat := none  -- key of its thread
  image   : Nat := 0            -- CTX_IMAGE address, 0 for none
  save    : Save := .none
  saveTo  : Nat := 0            -- the address of the image under way
  saveCmd : Option Nat := none  -- tag of the CTX_PREEMPT that asked
  saveDl  : Nat := 100          -- deadline in force for the request, in µs
  ts      : Nat := 0            -- last measured save and restore times, ns; 0 for none
  tr      : Nat := 0
  gone    : Bool := false       -- saved by CTX_PREEMPT: only a CTX_RESTORE brings it back (R404)
  idle    : Bool := false       -- its steward was waiting or had ended when it was saved (R347)
  cntTo   : Nat := 0            -- the counter block of host-assisted counter virtualisation (R405)
  deriving DecidableEq, Repr

/-- An atoll (R10, R400, R404). -/
structure Atoll where
  live     : Bool := false
  clusters : Nat := 0
  slices   : Nat := 0
  groups   : Nat := 0
  ports    : Nat := 0
  apch     : Nat := 0          -- pseudo-channels as CAP8 reports them (R17, R422)
  period   : Nat := 64
  slew     : Nat := 1
  slewFrom : Nat := 0          -- until when the slew budget has been drawn on, as a DT
  atokens  : Nat := 0
  rotation : Option Nat := none   -- start of the current slice
  turn     : Nat := 0             -- context served last by the dispatcher
  deriving DecidableEq, Repr

/-- The firmware of a die (R428 to R433). -/
structure Firmware where
  arctr   : Nat := 0
  svn     : Nat := 0
  minor   : Nat := 0
  major   : Nat := 0
  version : Nat := 0
  digest  : Nat := 0
  pend    : Bool := false
  bank    : Nat := 0
  state   : Nat := 0
  newSvn  : Nat := 0
  newMinor : Nat := 0
  newMajor : Nat := 0
  newVersion : Nat := 0
  newDigest : Nat := 0
  switched : Bool := false     -- it runs the image of the last activation
  since   : Nat := 0           -- when the handover began, or when the die came to run the new image
  deriving DecidableEq, Repr

/-- A die's Harbour complex (R423 to R428). -/
structure Die where
  hpend    : Sparse Nat := []
  htimer   : Sparse Nat := []
  ticks    : Sparse Nat := []  -- fc of a Harbour core so far
  rung     : List Nat := []    -- cores whose timer has made class 2 pending since HTIMER was written
  tcrit    : Nat := 110
  thot     : Nat := 95
  tlow     : Nat := 90
  saveto   : Nat := 2000
  kickto   : Nat := 10000
  kickAt   : Nat := 0
  kicked   : Bool := false     -- class 7 is pending from a first expiry
  slice    : Sparse Nat := []  -- ADL.SLICE of atoll a, less 1,000 modulo 2^16
  deadline : Sparse Nat := []  -- ADL.DEADLINE of atoll a, less 100 modulo 2^16
  fw       : Firmware := {}
  restart  : Bool := false
  mismatchAt : Option Nat := none
  faultSeq : Nat := 0
  teleSeq  : Nat := 0
  owed     : List Nat := []    -- reports that wait for the end of a handover: a sensor, or 2^16 + 8 × context + counter
  corrected : Nat := 0
  deriving DecidableEq, Repr

/-- A trap record (R362) and its delivery. -/
structure Trap where
  live    : Bool := false
  cause   : Cause := .undef
  thr     : Nat := 0
  ctx     : Nat := 64
  cluster : Nat := 0
  agent   : Nat := 0
  inrep   : Bool := false
  core    : Nat := 0
  slot    : Nat := 0
  seq     : Nat := 0
  lanes   : Nat := 0
  pc      : Addr := 0
  detail  : W64 := 0
  after   : Option Nat := none      -- the record of the same instruction that is delivered first
  handler : Option Nat := none      -- the handler thread that holds it
  deriving DecidableEq, Repr

/-- Who is parked on a fault (R371, R373). -/
inductive Parked
  | lanes (thr mask : Nat)
  | copy (id : Nat)
  | region (wg granule : Nat)
  | release (wg : Nat)
  | request (id : Nat)      -- the agent of a request that its peer has refused (R398)
  | peer (source : Nat)     -- a peer's access to a home-served range of this device (R371)
  deriving DecidableEq, Repr

/-- A translation fault being served (R371 to R374). -/
structure FaultRec where
  live   : Bool := false
  who    : Parked := .copy 0
  ctx    : Nat := 64
  die    : Nat := 0
  miss   : Miss := {}
  agent  : Nat := 0
  core   : Nat := 0x3FF
  slot   : Nat := 0
  pc     : Addr := 0
  seq    : Nat := 0
  index  : Option Nat := none       -- index of its ring entry
  tag    : Option Nat := none       -- the device request that asks the host for service (R405)
  deriving DecidableEq, Repr

/-- The second-stage leaf through which a page is reached: its physical address, its bits 7:0, its level, and the
guest-physical address of the page (R371). -/
structure Under where
  leafAt : Nat := 0
  flags  : Nat := 0
  level  : Nat := 0
  gpa    : Nat := 0
  deriving DecidableEq, Repr

/-- A TLB entry of a cluster, with the lease of its fill (R221). -/
structure Tlb where
  live    : Bool := false
  cluster : Nat := 0
  ctx     : Nat := 0
  vpn     : Nat := 0           -- VA[55:16]
  space   : Space := .dev
  base    : Nat := 0           -- memory key of the 64 KiB page
  flags   : Nat := 0           -- the leaf's bits 7:0
  level   : Nat := 4
  leafAt  : Nat := 0           -- physical address of the leaf
  under   : Option Under := none   -- the second-stage leaf of the page
  expiry  : Nat := 0
  deriving DecidableEq, Repr

/-- An upper-level entry in the walk cache of an L2 slice, with the lease of its fill (R370). -/
structure Upper where
  pa     : Nat := 0
  value  : Nat := 0
  expiry : Nat := 0
  deriving DecidableEq, Repr

/-- A sector of a core's L1 (R180, R205). -/
structure Sector where
  live   : Bool := false
  key    : Nat := 0            -- physical address of its first byte
  expiry : Nat := 0
  deriving DecidableEq, Repr

/-- A page migration under way (R376, R377). -/
structure Migration where
  live   : Bool := false
  ctx    : Nat := 64
  va     : Nat := 0
  old    : Nat := 0
  new    : Nat := 0
  size   : Nat := 65536
  leafAt : Nat := 0
  dirty  : List Nat := []      -- 256-byte lines written since the round began
  rounds : Nat := 0
  held   : Bool := false
  written : Bool := false      -- the new leaf stands
  cmd     : Option Nat := none -- tag of the MIGRATE that asked for it (R404)
  until_ : Nat := 0            -- the leaf's GWCT
  optimistic : Bool := false
  version : Nat := 0
  deriving DecidableEq, Repr

/-- The states of a pseudo-channel (R422). -/
inductive Channel | serving | draining | moving | retired
  deriving DecidableEq, Repr

/-- A request posted on the PF reply ring that awaits its answer (R405). -/
structure Ask where
  tag    : Nat := 0
  code   : Nat := 0
  what   : Nat := 0            -- the fault, context or atoll it concerns
  deriving DecidableEq, Repr

/-- The state of a PLDM firmware update (R429). -/
inductive Pldm | idle | learn | ready | download | verify | apply | activate
  deriving DecidableEq, Repr

/-- An inter-die mailbox message: its sender's protocol major and minor, and the minor that it is written in (R432). -/
structure DieMail where
  src     : Nat := 0
  dst     : Nat := 0
  major   : Nat := 0
  minor   : Nat := 0
  written : Nat := 0
  body    : W64 := 0
  deriving DecidableEq, Repr

/-- The state of the SPDM connection (R434). -/
structure Spdm where
  version : Bool := false
  caps    : Bool := false
  algs    : Bool := false
  session : Nat := 0           -- 0 none, 1 handshake, 2 open
  deriving DecidableEq, Repr

/-- An image being transferred (R430). -/
structure Image where
  version : Nat := 0
  svn     : Nat := 0
  major   : Nat := 0
  minor   : Nat := 0
  digest  : Nat := 0
  signed  : Bool := false      -- signature and digest check
  key     : Nat := 0           -- the key that the signature checks with
  deriving DecidableEq, Repr

end Sys2Proof.Machine
end

