-- ==== Sys2Proof/Syntax.lean ====
section
/-! DEFINITION. The instructions: the nine formats of R34 with their fields, and one constructor for
every row of the opcode table. The rows that no word encodes are steps of the device; their
operands are what the device or the outside chooses. -/

namespace Sys2Proof

open Sys2Proof.Machine

/-- Format FB (R34, R46). -/
structure FB where
  g   : BitVec 3
  s   : BitVec 6
  m   : BitVec 3
  j   : BitVec 2
  cc  : BitVec 4
  n   : BitVec 4
  off : BitVec 32
  deriving DecidableEq, Repr, Inhabited

/-- Format FS (R34, R47); its two reserved bits are always zero. -/
structure FS where
  w   : BitVec 1
  sd  : BitVec 6
  sa  : BitVec 6
  sb  : BitVec 6
  i   : BitVec 1
  imm : BitVec 32
  deriving DecidableEq, Repr

/-- Format FSL: an FS word and one 64-bit immediate word (R28). -/
structure FSL where
  first : FS
  ext   : BitVec 64
  deriving DecidableEq, Repr

/-- Format FV2 (R34, R40 to R43). -/
structure FV2 where
  g  : BitVec 3
  d  : BitVec 10
  a  : BitVec 10
  b  : BitVec 10
  t  : BitVec 4
  na : BitVec 1
  xa : BitVec 1
  nb : BitVec 1
  xb : BitVec 1
  cl : BitVec 2
  sc : BitVec 3
  deriving DecidableEq, Repr

/-- Format FV3 (R34). -/
structure FV3 where
  g  : BitVec 3
  d  : BitVec 10
  a  : BitVec 10
  b  : BitVec 10
  c  : BitVec 10
  na : BitVec 1
  xa : BitVec 1
  nb : BitVec 1
  xb : BitVec 1
  nc : BitVec 1
  xc : BitVec 1
  cl : BitVec 2
  sc : BitVec 3
  deriving DecidableEq, Repr

/-- Format FVI (R34). -/
structure FVI where
  g   : BitVec 3
  d   : BitVec 10
  a   : BitVec 10
  imm : BitVec 16
  t   : BitVec 4
  na  : BitVec 1
  xa  : BitVec 1
  cl  : BitVec 2
  sc  : BitVec 3
  deriving DecidableEq, Repr

/-- Format FM (R34, R44). -/
structure FM where
  g   : BitVec 3
  d   : BitVec 10
  sb  : BitVec 6
  vx  : BitVec 10
  ix  : BitVec 1
  off : BitVec 12
  sz  : BitVec 2
  n   : BitVec 3
  h   : BitVec 2
  o   : BitVec 3
  k   : BitVec 2
  deriving DecidableEq, Repr

/-- Format FT (R34, R302). -/
structure FT where
  g    : BitVec 3
  acc  : BitVec 10
  a    : BitVec 10
  sa   : BitVec 10
  slot : BitVec 2
  bs   : BitVec 2
  sx   : BitVec 6
  sp   : BitVec 6
  f    : BitVec 1
  m    : BitVec 4
  deriving DecidableEq, Repr

/-- Format FY (R34, R48); its three reserved bits are always zero. -/
structure FY where
  sd  : BitVec 6
  sa  : BitVec 6
  id  : BitVec 12
  imm : BitVec 27
  deriving DecidableEq, Repr

/-- What a point of coherence is asked for next: a request, or the unit of a copy's destination that
holds its byte `i`. -/
inductive Piece
  | req (n : Nat)
  | copy (c i : Nat)
  deriving DecidableEq, Repr

/-- The outcome of a fault's service (R371, R374, R375): the second-stage entries that the Harbour
writes, as physical address and value, with a retry; the fault reported unresolvable; no frame. -/
inductive Service
  | retry (entries : List (Nat × W64))
  | fail
  | noFrame
  deriving DecidableEq, Repr

/-- A request that a peer device sends to memory of this device (R398). -/
structure PeerRequest where
  source : Nat
  write  : Bool
  atom   : Option Atom  -- an atomic on the bytes at `pa`
  gen    : Nat          -- the map generation it carries (R378)
  pa     : Nat
  mask   : Nat          -- bits written in the 16-byte unit that holds `pa`
  data   : Nat
  home   : Option Nat := none   -- of a home-served range: the context in which PA[39:0] is translated here (R397)
  deriving DecidableEq, Repr

/-- For whom a walk is made: a context, and the launch for which it is counted (R221, R385). -/
structure WalkFor where
  ctx    : Nat
  launch : Nat
  deriving DecidableEq, Repr

/-- A host's access through a BAR: its size in bytes, and the value that a write brings (R391). -/
structure BarAct where
  size  : Nat
  write : Option W64
  deriving DecidableEq, Repr

/-- What a temperature sensor of a die reads, in °C (R411). -/
structure Reading where
  die         : Nat
  temperature : Nat
  deriving DecidableEq, Repr

/-- Where a soft error struck (R379). -/
inductive ErrorAt
  | l1 (core ctx va : Nat)
  | unit (key : Nat)               -- L2, DRAM or Lagoon
  | register (thr reg : Nat)
  | checkpoint (core : Nat)
  | reef (core slot element : Nat)
  | mailbox (ctx : Nat)
  deriving DecidableEq, Repr

/-- The PF's and the Harbour's registers that store what is written to them (R402, R403, R427). -/
inductive PfReg
  | hrbase (i : Nat) | hrlim (i : Nat) | fncfg (f : Nat) | atollmode (a : Nat)
  | adl (die a : Nat) | svcpi
  deriving DecidableEq, Repr

/-- The signed configuration record read from flash (R436). -/
structure ConfigRecord where
  signed   : Bool := true
  svn      : Nat := 0
  budget   : Nat := 336
  impl     : Nat := 1
  stepping : Nat := 0
  coreMap  : List (List Nat) := []   -- each die's 192 logical cores on its 200 physical cores (R7)
  imageKey : Nat := 0                -- the image-signing key
  deriving DecidableEq, Repr

/-- Every row of the opcode table. -/
inductive Instr
  | nop (f : FB)
  | bra (f : FB)
  | brc (f : FB)
  | bru (f : FB)
  | brx (f : FB)
  | call (f : FB)
  | ret (f : FB)
  | enrol (f : FB)
  | await (f : FB)
  | exit (f : FB)
  | yield (f : FB)
  | rep (f : FB)
  | wait (f : FB)
  | sleep (f : FB)
  | bar (f : FB)
  | bara (f : FB)
  | barw (f : FB)
  | sadd (f : FS)
  | ssub (f : FS)
  | smul (f : FS)
  | smulh (f : FS)
  | smulhn (f : FS)
  | sdiv (f : FS)
  | sdivn (f : FS)
  | srem (f : FS)
  | sremn (f : FS)
  | sand (f : FS)
  | sor (f : FS)
  | sxor (f : FS)
  | sshl (f : FS)
  | sshr (f : FS)
  | ssra (f : FS)
  | smin (f : FS)
  | sminn (f : FS)
  | smax (f : FS)
  | smaxn (f : FS)
  | sseq (f : FS)
  | ssne (f : FS)
  | sslt (f : FS)
  | ssle (f : FS)
  | ssltn (f : FS)
  | sslen (f : FS)
  | spopc (f : FS)
  | sclz (f : FS)
  | ssel (f : FS)
  | sli (f : FSL)
  | sld (f : FS)
  | sst (f : FS)
  | sget (f : FS)
  | vget (f : FS)
  | slane (f : FS)
  | vsplat (f : FS)
  | mand (f : FS)
  | mor (f : FS)
  | mxor (f : FS)
  | mandn (f : FS)
  | mpopc (f : FS)
  | mfind (f : FS)
  | mfroms (f : FS)
  | mtos (f : FS)
  | vadd (f : FV2)
  | vsub (f : FV2)
  | vmul (f : FV2)
  | vmulh (f : FV2)
  | vmin (f : FV2)
  | vmax (f : FV2)
  | vand (f : FV2)
  | vor (f : FV2)
  | vxor (f : FV2)
  | vandn (f : FV2)
  | vshl (f : FV2)
  | vshr (f : FV2)
  | vsra (f : FV2)
  | vpopc (f : FV2)
  | vclz (f : FV2)
  | vbrev (f : FV2)
  | vabsd (f : FV2)
  | vcmp (f : FV2)
  | vmov (f : FV2)
  | vmad (f : FV3)
  | vsel (f : FV3)
  | vbfx (f : FV3)
  | vbfi (f : FV3)
  | vmovi (f : FVI)
  | vaddi (f : FVI)
  | vandi (f : FVI)
  | vori (f : FVI)
  | vxori (f : FVI)
  | vshli (f : FVI)
  | vshri (f : FVI)
  | vsrai (f : FVI)
  | vcmpi (f : FVI)
  | vperm (f : FV2)
  | vshfl (f : FV2)
  | vbcast (f : FV2)
  | vred (f : FV2)
  | vfred (f : FV2)
  | vscan (f : FV2)
  | vmatch (f : FV2)
  | vmovx (f : FV2)
  | vmovxw (f : FV2)
  | vcomp (f : FV2)
  | vexpd (f : FV2)
  | vfadd (f : FV2)
  | vfsub (f : FV2)
  | vfmul (f : FV2)
  | vfmin (f : FV2)
  | vfmax (f : FV2)
  | vfminm (f : FV2)
  | vfmaxm (f : FV2)
  | vfcmp (f : FV2)
  | vfclass (f : FV2)
  | vfrnd (f : FV2)
  | vfldx (f : FV2)
  | vfmaF32 (f : FV3)
  | vfmaBf16x2 (f : FV3)
  | vfdot2 (f : FV3)
  | vrcp (f : FV2)
  | vrsq (f : FV2)
  | vsqrt (f : FV2)
  | vexp2 (f : FV2)
  | vlog2 (f : FV2)
  | vsin (f : FV2)
  | vcos (f : FV2)
  | vtanh (f : FV2)
  | vcvt (f : FV2)
  | vqnt (f : FV2)
  | vdqnt (f : FV2)
  | vscl (f : FV2)
  | vrand (f : FV2)
  | vpack (f : FV2)
  | vunpk (f : FV2)
  | ld (f : FM)
  | st (f : FM)
  | ldpk (f : FM)
  | stpk (f : FM)
  | pref (f : FM)
  | disc (f : FM)
  | flush (f : FM)
  | lmap (f : FM)
  | lunmap (f : FM)
  | atom (f : FM)
  | atomr (f : FM)
  | acas (f : FM)
  | acasw (f : FM)
  | fence (f : FB)
  | gwct (f : FB)
  | twait (f : FB)
  | ropen (f : FY)
  | rrenew (f : FY)
  | rrel (f : FY)
  | ldrow (f : FM)
  | strow (f : FM)
  | rstat (f : FY)
  | ractl (f : FY)
  | rastat (f : FY)
  | copy (f : FS)
  | copy2d (f : FS)
  | syncinit (f : FS)
  | syncwait (f : FS)
  | syncrd (f : FS)
  | qld (f : FM)
  | qldrow (f : FM)
  | aeloop (f : FS)
  | aeend (f : FS)
  | qdrop (f : FS)
  | rloadbQ4 (f : FT)
  | rloadbE4m3 (f : FT)
  | rloadbE5m2 (f : FT)
  | rloadbE3m2 (f : FT)
  | rloadbE2m3 (f : FT)
  | rloadbI8 (f : FT)
  | rloadbBf16 (f : FT)
  | rcode (f : FT)
  | rmacI8 (f : FT)
  | rmacE4m3 (f : FT)
  | rmacE5m2 (f : FT)
  | rmacBf16 (f : FT)
  | rmacpI8 (f : FT)
  | rmacpE4m3 (f : FT)
  | rmacpE5m2 (f : FT)
  | rmacpBf16 (f : FT)
  | rfence (f : FT)
  | rdrain (f : FT)
  | rpair (f : FT)
  | rstatReef (f : FT)
  | beat (f : FY)
  | tset (f : FY)
  | tread (f : FY)
  | pclass (f : FY)
  | launch (f : FY)
  | lwait (f : FY)
  | mbrecv (f : FY)
  | mbsend (f : FY)
  | evwait (f : FY)
  | trap (f : FY)
  | eret (f : FY)
  | csrr (f : FY)
  | csrw (f : FY)
  | dbgrd (f : FY)
  | dbgwr (f : FY)
  | tlbi (f : FY)
  | cntrd (f : FY)
  | cntcfg (f : FY)
  | freeze (f : FY)
  | halt (f : FY)
  | starvationForce (core : Nat) (avail : List (Nat × Nat))
  | yieldExclusionEnd (thr lane : Nat)
  | joinRelease (thr j : Nat)
  | barrierPhaseComplete (wg : Nat)
  | sleepWake (thr lane : Nat)
  | waitRelease (thr lane : Nat)
  | fenceRelease (thr lane : Nat)
  | twaitRelease (thr lane : Nat)
  | loadComplete (op : Nat)
  | storeComplete (op : Nat)
  | sliceLineRequest (piece : Piece) (dram : Bool)
  | sliceStore (piece : Piece)
  | sliceAtomic (req : Nat)
  | atomicHighHalf (req : Nat)
  | sliceDiscard (req : Nat)
  | tlbWalk (cluster : Nat) (who : WalkFor) (va : Nat)
  | secondStageService (fault : Nat) (action : Service)
  | peerHomeFault (fault : Nat) (action : Service)
  | trapDelivery (record : Nat)
  | regionFill (wg region granule : Nat)
  | peerAck (req gwct : Nat)
  | peerRequest (request : PeerRequest)
  | hostBarAccess (fn bar offset : Nat) (act : BarAct)
  | runaheadEntry (thr op : Nat)
  | runaheadExit (thr : Nat)
  | rowHoldLapse (ctx handle : Nat)
  | rowClose (pa : Nat)
  | subarrayRefresh (subarray pa : Nat)
  | patrolScrub (pa : Nat) (lost : Bool)
  | copyAccept (copy : Nat)
  | copyPieceCount (copy block : Nat)
  | copyPageFault (copy byte : Nat)
  | copyComplete (copy : Nat)
  | syncwaitRelease (thr lane : Nat)
  | queueEntryFill (op : Nat)
  | reefSerialPhase (core : Nat)
  | reefAccumulatorWrite (op : Nat)
  | reefSlotWrite (op : Nat)
  | reefCodebookWrite (op : Nat)
  | workgroupPlacement (atoll : Nat)
  | warpStart (wg : Nat)
  | warpSlotRelease (thr : Nat)
  | lwaitRelease (thr : Nat)
  | evwaitRelease (thr : Nat)
  | mbrecvDelivery (thr : Nat)
  | inboundMessage (ctx box value : Nat)
  | payloadCopy (ctx box : Nat)
  | outciWrite (ctx box value : Nat)
  | istatClear (ctx value : Nat)
  | imaskWrite (ctx value : Nat)
  | registerWrite (reg : PfReg) (value : W64)
  | periodEnd (atoll : Nat)
  | jobMinimum (atoll job minimum : Nat)
  | mergeDeadline (atoll job : Nat)
  | tideUpdate (atoll : Nat)
  | slewApply (atoll : Nat)
  | clockRelockEnd (cluster : Nat)
  | sliceEnd (atoll : Nat)
  | preemptionRequest (ctx : Nat)
  | contextSave (ctx : Nat)
  | preemptionDeadline (ctx : Nat)
  | saveWatchdog (ctx : Nat)
  | freezeCut (cut : Nat)
  | supplySagTrip (cluster : Nat)
  | supplySagClear (cluster : Nat)
  | throttleStep (cluster temperature : Nat) (others : List Nat)
  | tcritTrip (reading : Reading)
  | clusterGate (cluster : Nat)
  | clusterUngate (cluster : Nat)
  | tokenIntervalEnd (accepted : Nat)
  | tokenGrant (budget : Nat)
  | tokenFallback
  | pageMigration (page : Nat)
  | oldFrameFree (page : Nat)
  | optimisticMigration (page : Nat)
  | retirementRequest (channel : Nat)
  | channelMove (channel : Nat)
  | channelRetired (channel : Nat)
  | fabricPortFailure (port : Nat)
  | softErrorCorrected (place : ErrorAt)
  | uncorrectableError (place : ErrorAt)
  | pairMismatch (die : Nat)
  | livenessTimeout (die : Nat)
  | watchdogKick (die : Nat)
  | tthreshWrite (die value : Nat)
  | htimerExpiry (die core : Nat)
  | harbourInterrupt (die core cls : Nat)
  | atollCreate
  | atollDestroy
  | ctxCreate
  | ctxDestroy
  | ctxPreempt
  | ctxRestore
  | ctxReset
  | stewardStart
  | ctxImage
  | warpKill
  | resetAtoll
  | resetDie
  | resetPackageWarm
  | resetPackageCold
  | powerOn (record : ConfigRecord)
  | coreReset (core : Nat)
  | clusterReset (cluster : Nat)
  | reply
  | migrate
  | tokens
  | grants
  | queryDeviceIdentifiers
  | getFirmwareParameters
  | requestUpdate
  | passComponentTable
  | updateComponent
  | requestFirmwareData (offset length : Nat)
  | transferComplete
  | verifyComplete (image : Image)
  | applyComplete
  | activateFirmware
  | getStatus
  | cancelUpdateComponent
  | cancelUpdate
  | dieHandover (die : Nat)
  | handoverFailure (die : Nat)
  | updateCommit
  | getVersion
  | getCapabilities
  | negotiateAlgorithms
  | getDigests
  | getCertificate (slot offset length : Nat)
  | challenge (slot : Nat)
  | getMeasurements
  | keyExchange
  | finish
  | endSession
  | sensorThresholdEvent (sensor : Nat)
  | unassignedOpcode (word : W64)
  | l1Eviction (core ctx va : Nat)
  | tlbEviction (cluster ctx va : Nat)
  | frciWrite (ctx value : Nat)
  | svrciWrite (value : Nat)
  | unknownOp
  | pairRestartEnd (die : Nat)
  | selfRefreshEntry (stack : Nat)
  | tokenOffer (accepted : Nat)
  deriving DecidableEq, Repr, Inhabited

end Sys2Proof
end

