-- ==== Sys2Proof/Machine/State.lean ====
section
/-! DEFINITION. The state of the machine: everything the spec gives it, as plain data, with the few
fields of the model's own that say which agent acts next (log entries 1 and 2). -/

namespace Sys2Proof.Machine

/-- Why the machine stops with a fault. The spec gives every condition an outcome, so no step of the
model raises it: safe. -/
inductive Fault
  | noSuchAddress (key : Nat)   -- an access outside every space the spec lays out; raised by none: safe
  deriving DecidableEq, Repr

/-- Why the machine refuses. -/
inductive Refusal
  | notModelled (mnemonic : String)   -- raised by an arm of `exec` without a meaning: safe
  deriving DecidableEq, Repr

/-- The issue in hand: a PC group of a thread at its instruction (R75, R77). `second` says that it is
the second instruction of its fc, which reads its sources as they stood before the fc. `start` is the
flight key at the start of the fc: what is below it was issued in an earlier fc (R211). `lat` is the latency of
the instruction's results in fc, as its fetch finds it (R108, R118, R154). -/
structure Issue where
  thr    : Nat := 0
  lanes  : Nat := 0
  pc     : Addr := 0
  second : Bool := false
  start  : Nat := 0
  lat    : Nat := 1
  deriving DecidableEq, Repr

/-- What the device has sent to the outside and the outside has not yet taken. -/
inductive Sent
  | vector (fn number : Nat)               -- an MSI-X vector (R394, R403)
  | pldm (code status : Nat) (data : List Nat)   -- a PLDM response (R429)
  | spdm (code status : Nat) (data : List Nat)   -- an SPDM response (R434, R435)
  | telemetry (die seq sensor reading : Nat)   -- a telemetry event (R438)
  | overflow (die seq ctx counter : Nat)   -- a counter overflow notice (R408)
  | report (job end_ count : Nat)          -- a job report (R324, R399)
  | tokens (unused : Nat)                  -- unused tokens offered (R417)
  | peerReply (ok : Bool) (data gwct : Nat)   -- the answer to a peer request, with its GWCT (R207, R398)
  | homeService (source action : Nat)  -- the answer of this device's Harbour to a peer's fault here (R371)
  | freeze (job launch cut : Nat) (thaw : Bool)  -- a job freeze carried by the fabric (R368)
  | barData (value : W64)                  -- the answer to a host read through a BAR (R391)
  deriving DecidableEq, Repr

/-- What happens next when no issue of the current fc is left (log entry 1). -/
inductive Happening
  | occur (i : Instr)                                  -- an event of the opcode table
  | clusterFc (cluster : Nat)                          -- an fc of a cluster: of its 16 cores and its SCC
  | coreFc (core : Nat)                                -- a core's part of it, with its access engine's
  | sccFc (cluster : Nat)                              -- an SCC's part of it
  | harbourFc (die core : Nat)                         -- an fc of a Harbour core
  | pass (ns : Nat)                                    -- device time advances (R201)
  | skew (die ns : Nat)                                -- a die's offset from it, at most 2 ns (R201)
  | outside (key : Nat) (byte : Byte)                  -- host or peer memory written by its holder
  | owner (source first last : Nat)                    -- the Harbour lists an owner of a range (R398)
  | homePage (page : Nat) (bad : Bool)                 -- a home device maps or unmaps a page (R371)
  | refused (piece : Piece)                            -- a peer refuses a request, or a copy's (R398)
  | l2Eviction (line : Nat)                            -- a prefetched line leaves L2 (R262)
  | prefetched (core line : Nat)                       -- a prefetch arrives, its miss-status entry free (R257)
  | walkEviction (pa : Nat)                            -- an entry leaves a walk cache (R370)
  | dieMessage (src dst : Nat) (body : W64)            -- a die writes to another (R432)
  | dieMessageTaken (die : Nat)                        -- a die takes the oldest message to it (R432)
  | recordUpdate (r : ConfigRecord)                    -- a configuration record is written by a PLDM update (R437)
  | firmware (die core : Nat) (pc : Addr)              -- a firmware thread starts on a Harbour core
  | carried (job launch cut : Nat) (thaw : Bool)       -- the fabric carries a job freeze (R368)
  | collect                                            -- the outside takes the oldest message sent
  deriving DecidableEq, Repr, Inhabited

/-- Accesses, copies, faults and trap records that are not complete. Keys are drawn from one count,
so that a lower key is earlier in program order. -/
structure Flight where
  next   : Nat := 1
  ops    : Sparse Op := []
  reqs   : Sparse Req := []
  copies : Sparse Copy := []
  faults : Sparse FaultRec := []
  traps  : Sparse Trap := []
  deriving DecidableEq, Repr

/-- Cached copies, leases and tags (R180, R205, R221, R262, R377). -/
structure Caches where
  l1       : Sparse Sector := []    -- key 2^50 × (64 × core + context) + VA / 64
  l1data   : Sparse Byte := []      -- key 2^56 × (64 × core + context) + VA
  tlb      : List Tlb := []
  walks    : List Upper := []       -- walk caches (R370)
  leases   : Sparse Nat := []       -- latest expiry recorded, by 256-byte line of DEV memory
  tags     : Sparse Nat := []       -- prefetch tag: warp key + 1, by line
  versions : Sparse Nat := []       -- write-version counter, by 64 KiB of DEV memory
  writer   : Sparse Nat := []       -- last writing context + 1 of a Lagoon byte, by memory key
  deriving DecidableEq, Repr

/-- A freeze or thaw that waits for its cut (R368). -/
structure Cut where
  at_    : Nat := 0
  ctx    : Nat := 0
  launch : Nat := 0
  thaw   : Bool := false
  id     : Nat := 0
  deriving DecidableEq, Repr

/-- The package's own registers and services. -/
structure Sys where
  dt        : Nat := 0
  skew      : Sparse Nat := []
  hrbase    : Sparse W64 := []
  hrlim     : Sparse W64 := []
  fncfg     : Sparse W64 := []
  atollmode : Sparse W64 := []
  cmds      : Sparse W64 := []      -- word w of command entry j at 8 × j + w
  svcpi     : Nat := 0
  svcci     : Nat := 0
  deferred  : List (List W64) := [] -- commands taken that wait behind another (R406)
  replies   : Sparse W64 := []
  svrpi     : Nat := 0
  svrci     : Nat := 0
  waiting   : List (List W64) := [] -- replies and requests that wait for a place
  asks      : List Ask := []
  nextTag   : Nat := 0
  budget    : Nat := 336            -- token budget of the interval (R417)
  nextBudget : Nat := 336           -- the budget granted
  loan      : Int := 0              -- tokens received less tokens lent, for the next interval
  granted   : Bool := false         -- a grant has arrived in this interval
  dry       : Nat := 0              -- intervals without a grant
  intervalEnd : Nat := 64000
  mapGen    : Nat := 0
  channels  : Sparse Channel := []
  selfRef   : List Nat := []        -- stacks in or entering self-refresh
  refresh   : Sparse Nat := []      -- refresh deadline of a subarray, by its number; 0 for the first
  closing   : List (Nat × Nat) := []   -- rows being closed: physical address, first later access
  migrations : Sparse Migration := []  -- by VA page of a context: 2^40 × context + VA / 64 KiB
  ports     : List Nat := []        -- fabric ports that have failed
  owners    : List (Nat × Nat × Nat) := []   -- address-range ownership table (R398)
  homeBad   : List Nat := []        -- home-served pages that do not translate at their home (R371)
  cuts      : List Cut := []
  pldm      : Pldm := .idle
  staged    : Image := {}
  running   : Nat := 0              -- since when all four dies have run the new image
  spdm      : Spdm := {}
  recCtr    : Nat := 0              -- record counter (R437)
  baseCtr   : Nat := 0              -- base-die firmware counter (R437)
  record    : ConfigRecord := {}    -- the configuration record in flash (R436)
  coreMap   : List (List Nat) := [] -- each die's logical cores on its physical cores, as the record maps them
  imageKey  : Nat := 0              -- the image-signing key of the record
  dieMail   : List DieMail := []    -- inter-die messages not yet taken (R432)
  recovery  : Bool := false
  impl      : Nat := 1
  stepping  : Nat := 0
  defBudget : Nat := 336
  out       : List Sent := []
  deriving DecidableEq, Repr

/-- The machine. -/
structure State where
  mem      : Sparse Byte := []
  poison   : List Nat := []          -- memory keys of the first bytes of poisoned granules
  threads  : Sparse Thread := []
  ctxs     : Sparse Ctx := []
  cores    : Sparse Core := []
  clusters : Sparse Cluster := []
  dies     : Sparse Die := []
  atolls   : Sparse Atoll := []
  wgs      : Sparse Wg := []
  fl       : Flight := {}
  ca       : Caches := {}
  sys      : Sys := {}
  cur      : Option Issue := none
  pre      : Option (Nat × Regs) := none
  fcq      : List Issue := []
  agenda   : List Happening := []
  fresh    : Nat := 0
  deriving DecidableEq, Repr

/-- The machine right after package cold reset (R404, R439): no atoll, no context, no code that
runs, every register at its reset value (INVENTORY.md, State). -/
def State.reset : State := {}

namespace State

/-- The byte that an unlisted address reads as (log entry 4). -/
def unwritten : Byte := 0

/-- A byte of memory by its key. -/
def byte (s : State) (key : Nat) : Byte := look unwritten s.mem key
/-- A thread by its key. -/
def thread (s : State) (k : Nat) : Thread := look {} s.threads k
/-- The record of one ctx. -/
def ctx (s : State) (n : Nat) : Ctx := look {} s.ctxs n
/-- The record of one core. -/
def core (s : State) (n : Nat) : Core := look {} s.cores n
/-- The record of one cluster. -/
def cluster (s : State) (n : Nat) : Cluster := look {} s.clusters n
/-- The record of one die. -/
def die (s : State) (n : Nat) : Die := look {} s.dies n
/-- The record of one atoll. -/
def atoll (s : State) (n : Nat) : Atoll := look {} s.atolls n
/-- The record of one wg. -/
def wg (s : State) (n : Nat) : Wg := look {} s.wgs n
/-- The record of one op. -/
def op (s : State) (n : Nat) : Op := look {} s.fl.ops n
/-- The record of one req. -/
def req (s : State) (n : Nat) : Req := look {} s.fl.reqs n
/-- The record of one copy. -/
def copy (s : State) (n : Nat) : Copy := look {} s.fl.copies n
/-- The record of one fault. -/
def fault (s : State) (n : Nat) : FaultRec := look {} s.fl.faults n
/-- The record of one trap. -/
def trap (s : State) (n : Nat) : Trap := look {} s.fl.traps n

/-- Device time as die `d` keeps it (R201). -/
def dtAt (s : State) (d : Nat) : Nat := s.sys.dt + look 0 s.sys.skew d

end State

/-- The canonical form of memory: keys rise, and no entry holds what an unlisted address reads as. -/
def Memory.wf (m : Sparse Byte) : Bool := sparseWf State.unwritten m

/-- Memory and every table of the state are in their canonical form, so that equal contents are equal data. -/
def State.wf (s : State) : Bool :=
  Memory.wf s.mem && sparseWf {} s.threads && sparseWf {} s.ctxs && sparseWf {} s.cores && sparseWf {} s.clusters
    && sparseWf {} s.dies && sparseWf {} s.atolls && sparseWf {} s.wgs && sparseWf {} s.fl.ops && sparseWf {} s.fl.reqs
    && sparseWf {} s.fl.copies && sparseWf {} s.fl.faults && sparseWf {} s.fl.traps

end Sys2Proof.Machine
end

