-- ==== Sys2Proof/Config.lean ====
section
/-! DEFINITION. What the implementation fixes and what the spec leaves open: the figures of R16, and
the free values, which have no body. -/

namespace Sys2Proof.Config

open Sys2Proof.Machine

/-- The value of an undefined result, read at the counter `State.fresh` (R4; log entry 2). -/
opaque freeValue : Nat → W64

/-- What happens next when neither an issue nor the agenda says so (log entry 1). -/
opaque freeHappening : Nat → Happening

/-- The die that homes a physical address of device memory (log entry 8). -/
opaque homeDie : Nat → Nat

/-- The pseudo-channel of a row line, by its number (R236; log entry 8). -/
opaque channelOf : Nat → Nat

/-- The subarray of a row line, by its number; 2k and 2k + 1 share a stripe (R240; log entry 8). -/
opaque subarrayOf : Nat → Nat

/-- The refresh interval of a subarray, in ns modulo 32 ms less one (R241; log entry 8). -/
opaque refreshInterval : Nat → Nat

/-- The device's number on the fabric (R350, R408). -/
opaque deviceNumber : Nat

/-- Lagoon bytes of a cluster (R8). -/
def lagoonBytes : Nat := 0xC00000

/-- The lease of a TLB entry, in ns (R23). -/
def tlbLease : Nat := 4000

/-- The hold of a row, in ns (R22). -/
def rowHold : Nat := 1000

/-- The capability words CAP1 to CAP7 (R19 to R25). -/
def cap : Nat → W64
  | 1 => 0x0812400800072040
  | 2 => 0x0880400C0804400C
  | 3 => 0x0068403456073438
  | 4 => 0x0203E84010000200
  | 5 => 0x0FA0073228A7F840
  | 6 => 0x00130190183F1002
  | 7 => 0x0042004010440404
  | _ => 0

end Sys2Proof.Config
end

