-- ==== Sys2Proof/Machine/Ops.lean ====
section
/-! DEFINITION. The shared operations: small updates of the state and how they are run, registers,
lane masks, device time, events, notices and interrupts. -/

namespace Sys2Proof.Machine

/-! ### Updates -/

/-- One update of one part of the state. Every step of the machine is a list of phases of these. -/
inductive Micro
  | thread (k : Nat) (f : Thread → Thread)
  | ctx (n : Nat) (f : Ctx → Ctx)
  | core (n : Nat) (f : Core → Core)
  | cluster (n : Nat) (f : Cluster → Cluster)
  | die (n : Nat) (f : Die → Die)
  | atoll (n : Nat) (f : Atoll → Atoll)
  | wg (n : Nat) (f : Wg → Wg)
  | op (n : Nat) (f : Op → Op)
  | req (n : Nat) (f : Req → Req)
  | copy (n : Nat) (f : Copy → Copy)
  | fault (n : Nat) (f : FaultRec → FaultRec)
  | trap (n : Nat) (f : Trap → Trap)
  | bump (n : Nat)                       -- n keys of `Flight` are taken
  | bytes (l : List (Nat × Byte))        -- bytes of memory written
  | poison (f : List Nat → List Nat)
  | clear (p : Nat → Bool)               -- memory whose key satisfies p returns to its reset contents
  | caches (f : Caches → Caches)
  | sys (f : Sys → Sys)
  | agenda (f : List Happening → List Happening)
  | fc (pre : Option (Nat × Regs)) (q : List Issue)
  | fresh (n : Nat)                      -- n free values are used up
  | forget                               -- package reset: nothing but memory, caches and `sys` remains

/-- Writes bytes one after another. -/
def putBytes : Sparse Byte → List (Nat × Byte) → Sparse Byte
  | m, [] => m
  | m, (k, b) :: l => putBytes (put State.unwritten m k b) l

/-- The effect of one update. -/
def Micro.apply (u : Micro) (s : State) : State :=
  match u with
  | .thread k f => { s with threads := put {} s.threads k (f (s.thread k)) }
  | .ctx n f => { s with ctxs := put {} s.ctxs n (f (s.ctx n)) }
  | .core n f => { s with cores := put {} s.cores n (f (s.core n)) }
  | .cluster n f => { s with clusters := put {} s.clusters n (f (s.cluster n)) }
  | .die n f => { s with dies := put {} s.dies n (f (s.die n)) }
  | .atoll n f => { s with atolls := put {} s.atolls n (f (s.atoll n)) }
  | .wg n f => { s with wgs := put {} s.wgs n (f (s.wg n)) }
  | .op n f => { s with fl := { s.fl with ops := put {} s.fl.ops n (f (s.op n)) } }
  | .req n f => { s with fl := { s.fl with reqs := put {} s.fl.reqs n (f (s.req n)) } }
  | .copy n f => { s with fl := { s.fl with copies := put {} s.fl.copies n (f (s.copy n)) } }
  | .fault n f => { s with fl := { s.fl with faults := put {} s.fl.faults n (f (s.fault n)) } }
  | .trap n f => { s with fl := { s.fl with traps := put {} s.fl.traps n (f (s.trap n)) } }
  | .bump n => { s with fl := { s.fl with next := s.fl.next + n } }
  | .bytes l => { s with mem := putBytes s.mem l }
  | .poison f => { s with poison := f s.poison }
  | .clear p => { s with mem := dropKeys p s.mem }
  | .caches f => { s with ca := f s.ca }
  | .sys f => { s with sys := f s.sys }
  | .agenda f => { s with agenda := f s.agenda }
  | .fc p q => { s with pre := p, fcq := q }
  | .fresh n => { s with fresh := s.fresh + n }
  | .forget => { mem := s.mem, poison := s.poison, ca := s.ca, sys := s.sys, agenda := s.agenda, fresh := s.fresh }

/-- Updates decided together from one state. -/
abbrev Phase := State → List Micro

/-- Phases followed by one more. -/
def andThen (ps : List Phase) (p : Phase) : List Phase := ps ++ [p]

/-- Applies updates one after another. -/
def applyAll : List Micro → State → State
  | [], s => s
  | u :: us, s => applyAll us (u.apply s)

/-- Runs phases one after another, each decided from the state that the one before left. -/
def run : List Phase → State → State
  | [], s => s
  | p :: ps, s => run ps (applyAll (p s) s)

/-- Phases that are decided together from one state. -/
def perform (ps : State → List Phase) (s : State) : Host.Outcome State Fault Refusal :=
  .next (run (ps s) s)

/-! ### Sets of lanes -/

/-- Bit `i` of a set. -/
def has (m i : Nat) : Bool := m.testBit i

/-- The set of the listed numbers. -/
def setOf (l : List Nat) : Nat := l.foldl (fun m i => m ||| 2 ^ i) 0

/-- The members of a set below `n`, ascending. -/
def members (n m : Nat) : List Nat := (List.range n).filter fun i => m.testBit i

/-- The lanes of a set, ascending. -/
def lanesOf (m : Nat) : List Nat := members 64 m

/-- The members of `a` that are not in `b`. -/
def without (a b : Nat) : Nat := a ^^^ (a &&& b)

/-- How many of the 64 low bits are set. -/
def popcount (m : Nat) : Nat := (lanesOf m).length

/-- Bits `hi` to `lo` of a word. -/
def field (w : W64) (hi lo : Nat) : Nat := (w.toNat >>> lo) % 2 ^ (hi + 1 - lo)

/-- The lanes 0 to n − 1. -/
def firstLanes (n : Nat) : Nat := 2 ^ n - 1

/-! ### Keys and places -/

/-- Key of the warp in a slot of a core. -/
def warpKey (core slot : Nat) : Nat := core * 32 + slot

/-- Key of the access thread beside a warp. -/
def accessKey (core slot : Nat) : Nat := 32768 + core * 32 + slot

/-- Key of an SCC thread. -/
def sccKey (cluster slot : Nat) : Nat := 65536 + cluster * 8 + slot

/-- Key of a Harbour core's thread. -/
def harbourKey (die core : Nat) : Nat := 98304 + die * 8 + core

/-- The cluster of a core (R7). -/
def clusterOf (core : Nat) : Nat := 8 * (core / 32 / 4) + core % 32 / 4

/-- The die of a cluster (R7). -/
def dieOfCluster (c : Nat) : Nat := c % 8 / 4 + 2 * (c / 8 / 3)

/-- The die of a core (R7). -/
def dieOf (core : Nat) : Nat := dieOfCluster (clusterOf core)

/-- The core at mesh coordinates (R7). -/
def coreAt (x y : Nat) : Nat := 32 * y + x

namespace Thread

/-- The cluster that a thread runs in; a Harbour core belongs to none. -/
def cluster (t : Thread) : Nat :=
  match t.engine with
  | .core | .access => clusterOf t.core
  | .scc => t.core
  | .harbour => 48

/-- The die that a thread runs on. -/
def die (t : Thread) : Nat :=
  match t.engine with
  | .core | .access => dieOf t.core
  | .scc => dieOfCluster t.core
  | .harbour => t.core / 8

/-- A lane of a thread. -/
def lane (t : Thread) (l : Nat) : Lane := look {} t.regs.lanes l

/-- Changes one lane. -/
def updLane (t : Thread) (l : Nat) (f : Lane → Lane) : Thread :=
  { t with regs := { t.regs with lanes := put {} t.regs.lanes l (f (t.lane l)) } }

/-- Changes the lanes of a set. -/
def updLanes (t : Thread) (mask : Nat) (f : Lane → Lane) : Thread :=
  (members t.width mask).foldl (fun t l => t.updLane l f) t

/-- The lanes that exist and satisfy a test. -/
def laneSet (t : Thread) (p : Lane → Bool) : Nat :=
  setOf ((List.range t.width).filter fun l => (t.lane l).live && p (t.lane l))

end Thread

/-! ### Registers -/

namespace Regs

/-- A scalar register; s0 reads zero (R39). -/
def getS (r : Regs) (n : Nat) : W64 := if n = 0 then 0 else look 0 r.s n

/-- Writes a scalar register; a write to s0 is discarded (R39). -/
def setS (r : Regs) (n : Nat) (v : W64) : Regs := if n = 0 then r else { r with s := put 0 r.s n v }

/-- A mask register. -/
def getM (r : Regs) (n : Nat) : W64 := look 0 r.m n

/-- Writes a mask register. -/
def setM (r : Regs) (n : Nat) (v : W64) : Regs := { r with m := put 0 r.m n v }

/-- A rejoin register. -/
def getJ (r : Regs) (n : Nat) : W64 := look 0 r.j n

/-- Writes a rejoin register. -/
def setJ (r : Regs) (n : Nat) (v : W64) : Regs := { r with j := put 0 r.j n v }

/-- A vector register in one lane. -/
def getV (r : Regs) (n l : Nat) : W32 := look 0 r.v (64 * n + l)

/-- Writes a vector register in one lane. -/
def setV (r : Regs) (n l : Nat) (v : W32) : Regs := { r with v := put 0 r.v (64 * n + l) v }

/-- The scalar address operand: a register modulo 2^56 (R44). -/
def addr (r : Regs) (n : Nat) : Nat := (r.getS n).toNat % 2 ^ 56

end Regs

/-- Changes a thread's registers. -/
def Thread.updRegs (t : Thread) (f : Regs → Regs) : Thread := { t with regs := f t.regs }

/-- The registers that an issue reads: for the second instruction of an fc, those before it (R77). -/
def sourceRegs (s : State) (iss : Issue) : Regs :=
  match s.pre with
  | some (k, r) => if iss.second && k == iss.thr then r else (s.thread iss.thr).regs
  | none => (s.thread iss.thr).regs

/-- A vector register of a lane, or a scalar register, is lost to an uncorrectable error (R379). -/
def Thread.lostAt (t : Thread) (r l : Nat) : Bool := t.lost.contains (64 * r + l)
def Thread.lostScalar (t : Thread) (r : Nat) : Bool := t.lost.contains (65536 + r)

/-- Some lane of a vector register is lost. -/
def Thread.lostReg (t : Thread) (r : Nat) : Bool := t.lost.any fun x => x / 64 == r

/-- A write ends the error. -/
def Thread.heal (t : Thread) (keys : List Nat) : Thread := { t with lost := t.lost.filter fun x => !keys.contains x }

/-- Writes a scalar register of a thread. -/
def writeS (k n : Nat) (v : W64) : Micro := .thread k fun t => (t.updRegs fun r => r.setS n v).heal [65536 + n]

/-- Writes a vector register in the listed lanes. -/
def Regs.setLanes (r : Regs) (n : Nat) : List (Nat × W32) → Regs
  | [] => r
  | (l, v) :: rest => (r.setV n l v).setLanes n rest

/-! ### Moving lanes -/

/-- A lane moves on by `bytes`; past the last word of its block it meets the word there (R30). -/
def Lane.advance (bytes : Nat) (l : Lane) : Lane :=
  let pc := l.pc + BitVec.ofNat 56 bytes
  let len := field l.word 57 48
  let past := decide (8 * len < (pc - l.header).toNat)
  { l with pc, need := if past then .fall else .none, hold := .none, rewritten := false }

/-- A lane takes a transfer to a header (R30, R91). -/
def Lane.transfer (target : Addr) (l : Lane) : Lane :=
  { l with pc := target, need := .start, hold := .none, rewritten := false }

/-- Moves the lanes of a set on by one word. -/
def advance (k mask : Nat) (bytes : Nat := 8) : Micro :=
  .thread k fun t => t.updLanes mask (Lane.advance bytes)

/-! ### Front-end cycles (R76, R90) -/

/-- The front-end cycle that a thread's engine is in. -/
def tickOf (s : State) (t : Thread) : Nat :=
  match t.engine with
  | .core | .access => (s.core t.core).tick
  | .scc => (s.cluster t.core).tick
  | .harbour => look 0 (s.die (t.core / 8)).ticks (t.core % 8)

/-- Scalar register `n`, mask register `n` and the issue itself among what a thread awaits. -/
def dueS (n : Nat) : Nat := 2048 + n
def dueM (n : Nat) : Nat := 4096 + n
def dueIssue : Nat := 8192

/-- Registers are written in lanes, to be there from front-end cycle `at_` on. -/
def Thread.owe (regs : List Nat) (lanes now at_ : Nat) (t : Thread) : Thread :=
  let left := (t.due.map fun d => if regs.contains d.reg then { d with lanes := without d.lanes lanes } else d).filter
    fun d => d.lanes != 0 && decide (now < d.at_)
  { t with due := if at_ ≤ now + 1 then left else left ++ regs.map fun r => Due.mk r lanes at_ }

/-- One of the registers is not there yet in one of the lanes. -/
def Thread.owed (t : Thread) (regs : List Nat) (lanes now : Nat) : Bool :=
  t.due.any fun d => decide (now < d.at_) && (d.lanes &&& lanes) != 0 && regs.contains d.reg

/-- The last fc in which a result of a vector register of the thread is still due. -/
def Thread.lastDue (t : Thread) : Nat := (t.due.filter fun d => decide (d.reg < 2048)).foldl (fun m d => max m d.at_) 0

/-- Lanes may not issue before `n` fc have passed since the present one (R90). -/
def Thread.rest (s : State) (lanes n : Nat) (t : Thread) : Thread :=
  t.owe [dueIssue] lanes (tickOf s t) (tickOf s t + n)

/-! ### Device time -/

/-- Device time as a thread sees it. -/
def dtOf (s : State) (t : Thread) : Nat := s.dtAt t.die

/-! ### Events, notices and interrupts -/

/-- Posts an event record to a context's queue (R359). -/
def Ctx.post (c : Ctx) (kind source : Nat) (word1 : W64) : Ctx :=
  let seq := look 0 c.evSeq source
  let c := { c with evSeq := put 0 c.evSeq source ((seq + 1) % 2 ^ 32) }
  if c.events.length < 32 then
    let lost := c.evLost.contains source
    { c with events := c.events ++ [EvRec.mk kind lost source seq word1]
             evLost := c.evLost.filter (· != source) }
  else { c with evLost := source :: c.evLost.filter (· != source) }

/-- Sends a message to the outside. -/
def send (m : Sent) : Micro := .sys fun y => { y with out := y.out ++ [m] }

/-- The MSI-X vector of an ISTAT bit in context slot k (R394). -/
def vectorOf (slot bit : Nat) : Nat := 4 * slot + (if bit = 4 then 3 else bit)

/-- Sets a bit of ISTAT; the vector is sent when it goes from 0 to 1 while enabled (R394). -/
def signal (s : State) (n bit : Nat) : List Micro :=
  let c := s.ctx n
  let new := !has c.istat bit
  .ctx n (fun c => { c with istat := c.istat ||| 2 ^ bit })
    :: (if new && has c.imask bit then [send (.vector c.fn (vectorOf c.fslot bit))] else [])

/-- A counter of a context counts an event, for a launch (R385, R386). -/
def Counter.wants (k launch : Nat) (c : Counter) : Bool :=
  has c.conf.toNat 8 && field c.conf 7 0 == k && (field c.conf 47 32 == 0 || field c.conf 47 32 == launch)

/-- Adds to a counter that counts an event (R387). -/
def Counter.add (k n launch : Nat) (c : Counter) : Counter :=
  if c.wants k launch then
    { c with count := (c.count + n) % 2 ^ 48, ovf := c.ovf || decide (2 ^ 48 ≤ c.count + n) }
  else c

/-- An addition that a counter counts takes it past 2^48 − 1, and OVFINT is set (R387, R407). -/
def Counter.overflows (k n launch : Nat) (c : Counter) : Bool :=
  c.wants k launch && decide (2 ^ 48 ≤ c.count + n) && has c.conf.toNat 9

/-- A die's Harbour is in steps 1 to 4 of a handover (R431). -/
def Die.handover (d : Die) : Bool := d.fw.state == 3 || d.fw.state == 4

/-- The Harbour of a context's home die sends an overflow notice of a counter, which takes the next number of its
telemetry (R408; log entry 100); in a handover it pauses (R431). -/
def noteOverflow (s : State) (ctx : Nat) (i nth : Nat) : List Micro :=
  let die := dieOfCluster (s.ctx ctx).home
  if (s.die die).handover then [.die die fun d => { d with owed := d.owed ++ [2 ^ 16 + 8 * ctx + i] }]
  else
    [send (.overflow die (((s.die die).teleSeq + nth) % 2 ^ 32) ctx i),
     .die die fun d => { d with teleSeq := (d.teleSeq + 1) % 2 ^ 32 }]

/-- Counts `n` occurrences of event `k` for a context, raising CNTOVF on an overflow with OVFINT set;
event 0x0C counts only for an owner of the fabric (R386, R387, R407). -/
def count (s : State) (ctx k n : Nat) (launch : Nat := 0) : List Micro :=
  let c := s.ctx ctx
  let owns := k != 0x0C || has (look 0 s.sys.fncfg c.fn).toNat 1
  if c.live && n != 0 && owns && !c.counters.isEmpty then
    let past := (List.range 8).filter fun i => (look {} c.counters i).overflows k n launch
    let bumped := fun (m : Sparse Counter) =>
      (List.range 8).foldl (fun m i => put {} m i ((look {} m i).add k n launch)) m
    .ctx ctx (fun c => { c with counters := bumped c.counters })
      :: (if past.isEmpty then [] else signal s ctx 2 ++ past.zipIdx.flatMap fun e => noteOverflow s ctx e.1 e.2)
  else []

/-- An outbound ring has a free place (R393). -/
def Ring.hasSpace (r : Ring) : Bool := decide ((r.pi + 2 ^ 32 - r.ci) % 2 ^ 32 < 64)

/-- Writes one message into an outbound ring and advances its producer index (R358, R393). -/
def Ring.push (r : Ring) (msg : List W64) : Ring :=
  { r with
    slots := (List.range 8).foldl (fun m i => put 0 m (8 * (r.pi % 64) + i) (msg.getD i 0)) r.slots
    pi := (r.pi + 1) % 2 ^ 32 }

/-- An outbound ring of a context. -/
def Ctx.outRing (c : Ctx) (box : Nat) : Ring := look {} c.outb box

/-- An inbound ring of a context. -/
def Ctx.inRing (c : Ctx) (box : Nat) : Ring := look {} c.inb box

/-- Changes an outbound ring. -/
def Ctx.updOut (c : Ctx) (box : Nat) (f : Ring → Ring) : Ctx :=
  { c with outb := put {} c.outb box (f (c.outRing box)) }

/-- Changes an inbound ring. -/
def Ctx.updIn (c : Ctx) (box : Nat) (f : Ring → Ring) : Ctx :=
  { c with inb := put {} c.inb box (f (c.inRing box)) }

/-- The notice of R337: kind, and for HANDLERFAULT the handler's record. -/
def noticeOf (kind ctx dt : Nat) (record : List W64) : List W64 :=
  [BitVec.ofNat 64 (kind * 2 ^ 56 + ctx % 64), record.getD 0 0, record.getD 1 0, record.getD 2 0,
   record.getD 3 0, BitVec.ofNat 64 dt, 0, 0]

/-- Writes a notice to outbound mailbox 3, or has the Harbour hold it until a place frees (R337). -/
def notify (s : State) (n kind : Nat) (record : List W64) : List Micro :=
  let c := s.ctx n
  let msg := noticeOf kind n s.sys.dt record
  if (c.outRing 3).hasSpace && c.notices.isEmpty then
    .ctx n (fun c => c.updOut 3 fun r => r.push msg) :: signal s n 0
  else [.ctx n fun c => { c with notices := c.notices ++ [msg] }]

/-- Sets interrupt class `cls` pending at a Harbour core (R426). -/
def pend (die core cls : Nat) : Micro :=
  .die die fun d => { d with hpend := put 0 d.hpend core (look 0 d.hpend core ||| 2 ^ cls) }

/-! ### The PF reply ring (R403, R405, R406) -/

/-- The reply ring has a free place. -/
def Sys.replySpace (y : Sys) : Bool := decide ((y.svrpi + 2 ^ 32 - y.svrci) % 2 ^ 32 < 64)

/-- Writes one entry into the reply ring. -/
def Sys.pushReply (y : Sys) (e : List W64) : Sys :=
  { y with
    replies := (List.range 8).foldl (fun m i => put 0 m (8 * (y.svrpi % 64) + i) (e.getD i 0)) y.replies
    svrpi := (y.svrpi + 1) % 2 ^ 32
    out := y.out ++ [.vector 0 64] }

/-- Posts an entry, or has it wait in the Harbour for a place. -/
def Sys.postReply (y : Sys) (e : List W64) : Sys :=
  if y.replySpace && y.waiting.isEmpty then y.pushReply e else { y with waiting := y.waiting ++ [e] }

/-- Posts the entries that wait, while places are free. -/
def Sys.drainReplies (y : Sys) : List (List W64) → Sys
  | [] => { y with waiting := [] }
  | e :: es => if y.replySpace then (y.pushReply e).drainReplies es else { y with waiting := e :: es }

/-- Word 0 of a reply entry: OP, REQ, TAG and STATUS (R403). -/
def replyWord (op : Nat) (isReq : Bool) (tag : Nat) (status : Int) : W64 :=
  BitVec.ofNat 64 op ||| (if isReq then 0x100 else 0) ||| BitVec.ofNat 64 (tag % 65536 * 65536)
    ||| (BitVec.ofInt 64 status <<< 32)

/-- Posts the reply of a command (R403). -/
def reply (op tag : Nat) (status : Int) (results : List W64 := []) : Micro :=
  .sys fun y => y.postReply (replyWord op false tag status :: results)

/-- Posts a device request with a tag of the device's own and records that it awaits an answer
(R405). -/
def ask (code what : Nat) (operands : List W64) : Micro :=
  .sys fun y =>
    let tag := y.nextTag
    { (y.postReply (replyWord code true tag 0 :: operands)) with
      asks := y.asks ++ [{ tag, code, what }], nextTag := (tag + 1) % 65536 }

/-- The host serves function `bit` of R401 for an atoll. -/
def hostAssisted (s : State) (atoll bit : Nat) : Bool := has (look 0 s.sys.atollmode atoll).toNat bit

end Sys2Proof.Machine
end

