-- ==== Sys2Proof/Machine/Mem.lean ====
section
/-! DEFINITION. Memory: the spaces and their keys, translation (R172 to R175, R370, R371, R397),
bytes and units, poison, leases, and what a store brings about besides its bytes. -/

namespace Sys2Proof.Machine

/-! ### Spaces -/

/-- Key of a Lagoon byte. -/
def lagoonKey (cluster off : Nat) : Nat := 2 ^ 60 + cluster * 2 ^ 24 + off

/-- Key of a byte of host memory, by its bus address. -/
def hostKey (a : Nat) : Nat := 2 ^ 61 + a

/-- Key of a byte of a peer's memory, by device and physical address. -/
def peerKey (device pa : Nat) : Nat := 2 ^ 80 + device * 2 ^ 52 + pa

/-- Key of a byte of home-served memory: device, context there, virtual address (R397). -/
def homeKey (device ctx va : Nat) : Nat := 2 ^ 100 + device * 2 ^ 52 + ctx * 2 ^ 40 + va

/-- A virtual address lies in the Lagoon window (R172). -/
def inLagoon (va : Nat) : Bool := va % 2 ^ 56 / 2 ^ 30 == 2 ^ 26 - 1

/-- The cluster that a Lagoon address selects. -/
def lagoonCluster (va : Nat) : Nat := va / 2 ^ 24 % 64

/-- One byte of the window passes R172 for a context. -/
def lagoonOk (s : State) (ctx va : Nat) : Bool :=
  decide (lagoonCluster va < 48) && decide (va % 2 ^ 24 < Config.lagoonBytes)
    && has (s.atoll (s.ctx ctx).atoll).clusters (lagoonCluster va)

/-- The single-copy atomic unit of a space in bytes (R175, R181). -/
def unitOf : Space → Nat
  | .dev => 32
  | .lagoon => 64
  | .peer => 16
  | .host | .mmio => 8

/-- The ECC granule of a space (R183). -/
def granuleOf : Space → Nat
  | .lagoon => 64
  | _ => 32

/-- The lowest physical address of the Harbour blocks (R425). -/
def harbourBase : Nat := 0x000FF00000000000

/-! ### Bytes -/

/-- `n` bytes from a key upwards, the first the least significant (R27). -/
def readNat (s : State) (key : Nat) : Nat → Nat
  | 0 => 0
  | n + 1 => (s.byte key).toNat + 256 * readNat s (key + 1) n

/-- The bytes of a number, least significant first, at rising keys. -/
def bytesAt (key : Nat) : Nat → Nat → List (Nat × Byte)
  | 0, _ => []
  | n + 1, x => (key, BitVec.ofNat 8 x) :: bytesAt (key + 1) n (x / 256)

/-- The bytes of `size` from a key that a bit mask touches, with the masked bits replaced. -/
def maskedBytes (s : State) (key : Nat) : Nat → Nat → Nat → List (Nat × Byte)
  | 0, _, _ => []
  | n + 1, mask, data =>
    let m := BitVec.ofNat 8 mask
    let rest := maskedBytes s (key + 1) n (mask / 256) (data / 256)
    if m = 0 then rest else (key, (s.byte key &&& ~~~m) ||| (BitVec.ofNat 8 data &&& m)) :: rest

/-- A 64-bit word of memory. -/
def dword (s : State) (key : Nat) : W64 := BitVec.ofNat 64 (readNat s key 8)

/-- Some granule among `n` bytes is poisoned (R183). -/
def poisoned (s : State) (sp : Space) (key n : Nat) : Bool :=
  let g := granuleOf sp
  decide (0 < n) && s.poison.any fun p =>
    decide (key / g * g ≤ p) && decide (p ≤ (key + n - 1) / g * g)

/-! ### Translation -/

/-- Who makes an access: a context seen from a cluster, or Harbour code, whose addresses are
physical (log entry 12). The launch is the one that the access is counted for. -/
structure Who where
  ctx     : Nat
  cluster : Nat
  die     : Nat
  phys    : Bool := false
  launch  : Nat := 0
  deriving DecidableEq, Repr

/-- What a walk has met: the 256-byte table lines that it read at their slices, the upper-level entries among them,
the expiries of the entries that a walk cache gave it, and the second-stage leaves through which it read its tables. -/
structure Trail where
  lines  : List Nat := []
  uppers : List (Nat × Nat) := []   -- physical address and value
  held   : List Nat := []
  under  : List Nat := []           -- physical addresses
  deriving DecidableEq, Repr

/-- The translation of one 64 KiB page. -/
structure Page where
  space  : Space
  base   : Nat            -- memory key of its first byte
  flags  : Nat            -- the leaf's bits 7:0
  level  : Nat
  leafAt : Nat            -- physical address of the leaf
  under  : Option Under := none   -- the second-stage leaf of the page
  trail  : Trail := {}
  deriving DecidableEq, Repr

/-- The four levels and the low bit of each index (R173). -/
def levels : List (Nat × Nat) := [(1, 46), (2, 36), (3, 26), (4, 16)]

/-- The die that homes a memory key. -/
def dieOfKey (sp : Space) (key : Nat) : Nat :=
  match sp with
  | .lagoon => dieOfCluster ((key - 2 ^ 60) / 2 ^ 24)
  | .mmio => (key - harbourBase) / 2 ^ 24 % 4
  | _ => Config.homeDie key % 4

/-- A leaf found by a walk. -/
structure Leaf where
  frame  : Nat            -- physical address of the 64 KiB page
  flags  : Nat
  level  : Nat
  leafAt : Nat
  trail  : Trail
  deriving DecidableEq, Repr

/-- A table entry as a walk finds it: in the walk cache of its slice, under its lease, or in memory (R370). -/
def tableEntry (s : State) (pa : Nat) (t : Trail) : Nat × Trail :=
  match s.ca.walks.find? fun u => u.pa == pa && decide (s.dtAt (dieOfKey .dev pa) < u.expiry) with
  | some u => (u.value, { t with held := u.expiry :: t.held })
  | none => (readNat s pa 8, { t with lines := pa / 256 :: t.lines })

/-- An entry that points to a table has been read. -/
def Trail.pass (pa e : Nat) (t : Trail) : Trail := { t with uppers := (pa, e) :: t.uppers }

/-- Walks tables from `base` (R173, R174). `phys` gives the physical address of a table entry. -/
def walkTables (s : State) (phys : Nat → Trail → Except Miss (Nat × Trail)) (m : Miss) (va : Nat) :
    List (Nat × Nat) → Nat → Trail → Except Miss Leaf
  | [], _, _ => .error m
  | (level, shift) :: rest, base, trail =>
    match phys (base + 8 * (va / 2 ^ shift % 1024)) trail with
    | .error e => .error e
    | .ok (pa, trail) =>
      let (e, trail) := tableEntry s pa trail
      let miss := fun r => Except.error { m with reason := r, level }
      if e % 2 = 0 then miss 0
      else if has e 1 then
        let below := if level = 2 then 36 else if level = 3 then 26 else 16
        if e / 2 ^ 52 ≠ 0 ∨ e / 2 ^ 8 % 256 ≠ 0 then miss 1
        else if level = 1 then miss 2
        else if e / 2 ^ 16 % 2 ^ (below - 16) ≠ 0 then miss 3
        else .ok { frame := e / 2 ^ 16 % 2 ^ 36 * 2 ^ 16 + va % 2 ^ below / 2 ^ 16 * 2 ^ 16
                   flags := e % 256, level, leafAt := pa, trail }
      else if e / 2 ^ 52 ≠ 0 ∨ e % 2 ^ 13 ≠ 1 then miss 1
      else if level = 4 then miss 2
      else walkTables s phys m va rest (e / 2 ^ 13 * 2 ^ 13) (trail.pass pa e)

/-- The tables of a walk are reached without translation. -/
def direct (pa : Nat) (t : Trail) : Except Miss (Nat × Trail) := .ok (pa, t)

/-- A pseudo-channel is retired: no address maps to it (R422). -/
def retired (s : State) (channel : Nat) : Bool := look .serving s.sys.channels channel == .retired

/-- The candidates for a row line's pseudo-channel: after the first they lie in its channel group, so that a frame
stays its atoll's (R400; log entry 8). -/
def channelTry (line k : Nat) : Nat :=
  let first := Config.channelOf line % 1536
  if k = 0 then first else first / 32 * 32 + Config.channelOf (line + 2 ^ 42 * k) % 32

/-- The pseudo-channel of a row line: the first candidate that is not retired. -/
def channelFrom (s : State) (line : Nat) : Nat → Nat → Nat
  | 0, k => channelTry line k
  | fuel + 1, k => if retired s (channelTry line k) then channelFrom s line fuel (k + 1) else channelTry line k

/-- The pseudo-channel of a physical address (R236, R422). -/
def channelAt (s : State) (pa : Nat) : Nat := channelFrom s (pa / 1024) 1536 0

/-- The second stage of a context's function: the leaf that maps a guest-physical address, with the physical address
(R371, R400). -/
def secondLeaf (s : State) (ctx : Nat) (m : Miss) (write : Bool) (gpa : Nat) (trail : Trail) : Except Miss (Nat × Leaf) :=
  let c := s.ctx ctx
  let m := { m with stage2 := true, gpa }
  match walkTables s direct m gpa levels c.root2 trail with
  | .error e => .error e
  | .ok l =>
    let pa := l.frame + gpa % 2 ^ 16
    if write && !has l.flags 2 then .error { m with reason := 4, level := l.level }
    else if !has (s.atoll c.atoll).groups (channelAt s pa / 32) then
      .error { m with reason := 3, level := l.level }
    else .ok (pa, l)

/-- The physical address of an entry of a context's own tables. A context of the PF has no second stage (R404). -/
def secondStage (s : State) (ctx : Nat) (m : Miss) (gpa : Nat) (trail : Trail) : Except Miss (Nat × Trail) :=
  if (s.ctx ctx).fn = 0 then direct gpa trail
  else (secondLeaf s ctx m false gpa trail).map fun x => (x.1, { x.2.trail with under := x.2.leafAt :: x.2.trail.under })

/-- The last step of a walk, by the leaf's memory type (R175, R397). -/
def placePage (s : State) (ctx : Nat) (m : Miss) (write : Bool) (l : Leaf) : Except Miss Page :=
  let page : Page := { space := .dev, base := l.frame, flags := l.flags, level := l.level
                       leafAt := l.leafAt, trail := l.trail }
  match l.flags / 16 % 4 with
  | 0 =>
    if (s.ctx ctx).fn = 0 then .ok page
    else match secondLeaf s ctx m write l.frame l.trail with
      | .error e => .error e
      | .ok (pa, u) =>
        .ok { page with base := pa, trail := u.trail
                        under := some { leafAt := u.leafAt, flags := u.flags, level := u.level, gpa := l.frame } }
  | 1 => .ok { page with space := .host, base := hostKey l.frame }
  | 2 =>
    let e := readNat s ((s.ctx ctx).peers + 8 * (l.frame / 2 ^ 40)) 8
    let device := e / 2 ^ 8 % 2 ^ 19
    let off := l.frame % 2 ^ 40
    if e % 2 = 0 then .error { m with reason := 0, level := 4 }
    else if e / 2 ^ 50 ≠ 0 ∨ e / 2 ^ 27 % 32 ≠ 0 ∨ e / 8 % 32 ≠ 0 then .error { m with reason := 1, level := 4 }
    else
      let flags := if has e 1 then l.flags else without l.flags 4
      let level := if has e 1 then l.level else 4
      if has e 2 then .ok { page with space := .peer, base := homeKey device (e / 2 ^ 44 % 64) off, flags, level }
      else .ok { page with space := .peer, base := peerKey device (e / 2 ^ 32 % 2 ^ 12 * 2 ^ 40 + off), flags, level }
  | _ => .ok { page with space := .mmio }

/-- A TLB entry of a cluster that is still under its lease (R221). -/
def tlbFind (s : State) (who : Who) (va : Nat) : Option Tlb :=
  s.ca.tlb.find? fun e => e.live && e.cluster == who.cluster && e.ctx == who.ctx
    && e.vpn == va / 2 ^ 16 && decide (s.dtAt who.die < e.expiry)

/-- The page of an address: from the TLB, or by a walk of both stages. A write needs the W of both leaves. -/
def pageOf (s : State) (who : Who) (m : Miss) (va : Nat) (write : Bool) : Except Miss Page :=
  match tlbFind s who va with
  | some e =>
    let page : Page := { space := e.space, base := e.base, flags := e.flags, level := e.level
                         leafAt := e.leafAt, under := e.under }
    match e.under with
    | some u =>
      if write && !has u.flags 2 then .error { m with stage2 := true, gpa := u.gpa + va % 2 ^ 16, reason := 4, level := u.level }
      else .ok page
    | none => .ok page
  | none =>
    match walkTables s (secondStage s who.ctx m) m va levels (s.ctx who.ctx).xroot {} with
    | .error e => .error e
    | .ok l => placePage s who.ctx m write l

/-- An access: the kind of R373, and whether W is required. -/
structure Access where
  kind  : Nat := 0
  needW : Bool := false
  deriving DecidableEq, Repr

def Access.read : Access := {}
def Access.write : Access := { kind := 1, needW := true }
def Access.atomic : Access := { kind := 2, needW := true }
def Access.compare : Access := { kind := 2 }
def Access.fetch : Access := { kind := 3 }

/-- Where an address lies. -/
structure Place where
  space : Space
  key   : Nat
  canW  : Bool := true
  level : Nat := 0
  deriving DecidableEq, Repr

/-- Where a physical address of Harbour code lies (log entry 12). -/
def physPlace (va : Nat) : Place :=
  let pa := va % 2 ^ 52
  if harbourBase ≤ pa ∧ pa < harbourBase + 2 ^ 26 then { space := .mmio, key := pa }
  else { space := .dev, key := pa }

/-- The atoll of a context owns a fabric port that has not failed (R396). -/
def linked (s : State) (ctx : Nat) : Bool :=
  (members 24 (s.atoll (s.ctx ctx).atoll).ports).any fun p => !s.sys.ports.contains p

/-- Translates one address for an access (R172 to R175). A Lagoon address is untranslated; its
checks are R172's. -/
def translate (s : State) (who : Who) (a : Access) (va : Nat) : Except Miss Place :=
  let va := va % 2 ^ 56
  let m : Miss := { access := a.kind, va }
  if who.phys then .ok (physPlace va)
  else if inLagoon va then .ok { space := .lagoon, key := lagoonKey (lagoonCluster va) (va % 2 ^ 24) }
  else
    match pageOf s who m va a.needW with
    | .error e => .error e
    | .ok p =>
      let key := p.base + va % 2 ^ 16
      if a.needW && !has p.flags 2 then .error { m with reason := 4, level := p.level }
      else if a.kind == 3 && !has p.flags 3 then .error { m with reason := 5, level := p.level }
      else if p.space == .peer && !linked s who.ctx then
        .error { m with reason := 0, level := 4, stage2 := true, gpa := key }
      else if p.space == .peer && s.sys.homeBad.contains (key / 2 ^ 16) then
        .error { m with reason := 0, level := p.level, home := true, gpa := key }
      else .ok { space := p.space, key, canW := has p.flags 2, level := p.level }

/-! ### Leases -/

/-- Records a lease against a 256-byte line (R205). -/
def Caches.lease (c : Caches) (line expiry : Nat) : Caches :=
  { c with leases := put 0 c.leases line (max expiry (look 0 c.leases line)) }

/-- When a lease of a table line that is granted now ends: at the line's slice (R221). -/
def lineExpiry (s : State) (line : Nat) : Nat := s.dtAt (dieOfKey .dev (256 * line)) + Config.tlbLease

/-- A walk leaves its leases at the lines that it read, and its upper-level entries in the walk caches (R221, R370). -/
def Caches.walked (s : State) (t : Trail) (c : Caches) : Caches :=
  let c := t.lines.foldl (fun c l => c.lease l (lineExpiry s l)) c
  let fresh := t.uppers.filter fun u => t.lines.contains (u.1 / 256)
  { c with walks := (fresh.map fun u => Upper.mk u.1 u.2 (lineExpiry s (u.1 / 256)))
      ++ c.walks.filter fun w => !fresh.any fun u => u.1 == w.pa }

/-- When an entry filled from a walk ends: with the first of the leases that it rests on (R221; log entry 95). -/
def Trail.until_ (s : State) (t : Trail) : Nat :=
  (t.lines.map (lineExpiry s) ++ t.held).foldl min (s.sys.dt + Config.tlbLease)

/-- The TLB entry of a page in a cluster is this one from now on. -/
def Caches.setTlb (who : Who) (va : Nat) (e : Tlb) (c : Caches) : Caches :=
  { c with tlb := e :: c.tlb.filter fun e => !(e.cluster == who.cluster && e.ctx == who.ctx && e.vpn == va / 2 ^ 16) }

/-- The TLB entry of a page, to end at `expiry`. -/
def Page.entry (p : Page) (who : Who) (va expiry : Nat) : Tlb :=
  { live := true, cluster := who.cluster, ctx := who.ctx, vpn := va / 2 ^ 16, space := p.space, base := p.base
    flags := p.flags, level := p.level, leafAt := p.leafAt, under := p.under, expiry }

/-- Fills a TLB entry after a walk (R221). -/
def tlbFill (s : State) (who : Who) (va : Nat) (p : Page) : Micro :=
  .caches fun c => (c.walked s p.trail).setTlb who va (p.entry who va (p.trail.until_ s))

/-- A page with bits of its leaves set. -/
def Page.marked (want : Nat) (p : Page) : Page :=
  { p with flags := p.flags ||| want, under := p.under.map fun (u : Under) => { u with flags := u.flags ||| want } }

/-- The leaves in which an access sets A, and D for a write, that the entry at hand does not show: the page's own, its
second-stage leaf, and after a walk those through which the tables were read, which are only read (R174). -/
def leafBits (want : Nat) (p : Page) : List (Nat × Nat) :=
  (if p.flags ||| want = p.flags then [] else [(p.leafAt, want)])
    ++ (match p.under with
        | some u => if u.flags ||| want = u.flags then [] else [(u.leafAt, want)]
        | none => [])
    ++ (p.trail.under.map fun a => (a, 0x40))

/-- The bits of a listed byte, all its entries together. -/
def orMask (l : List (Nat × Nat)) (a : Nat) : Byte :=
  BitVec.ofNat 8 ((l.filter fun e => e.1 == a).foldl (fun m e => m ||| e.2) 0)

/-- Sets bits of leaves by atomic ORs at their slices (R174). -/
def orLeaves (s : State) (l : List (Nat × Nat)) : List Micro :=
  if l.isEmpty then [] else [.bytes (l.map fun e => (e.1, s.byte e.1 ||| orMask l e.1))]

/-- The bits that an access sets in the leaves that translate it: A, and D for a write (R174). -/
def accessBits (write : Bool) : Nat := 0x40 ||| (if write then 0x80 else 0)

/-- What translating an address for an access brings about: a walk fills the TLB with its leases and is counted, also
one that faults; and the A and D bits are set before the access (R174, R221, R386). Setting them in an entry at hand
leaves its lease as it is. -/
def touch (s : State) (who : Who) (va : Nat) (write : Bool) : List Micro :=
  let va := va % 2 ^ 56
  if who.phys || inLagoon va then []
  else
    let found := tlbFind s who va
    let counted := if found.isNone then count s who.ctx 0x0E 1 who.launch else []
    match pageOf s who { va } va write with
    | .error _ => counted
    | .ok p =>
      let q := p.marked (accessBits write)
      orLeaves s (leafBits (accessBits write) p)
        ++ (match found with
            | none => [tlbFill s who va q]
            | some e => if q = p then [] else [.caches fun c => c.setTlb who va (q.entry who va e.expiry)])
        ++ counted

/-- The first addresses of the 64 KiB pages that `n` bytes from an address touch. -/
def pagesOf (va n : Nat) : List Nat :=
  if n = 0 then [] else
    (List.range ((va + n - 1) / 2 ^ 16 - va / 2 ^ 16 + 1)).map fun i =>
      if i = 0 then va else (va / 2 ^ 16 + i) * 2 ^ 16

/-- Keeps the first of equal numbers. -/
def distinct : List Nat → List Nat
  | [] => []
  | x :: xs => x :: (distinct xs).filter (· != x)

/-- `touch` for each of several addresses, one after another from their own states. -/
def touchAll (who : Who) (write : Bool) (vas : List Nat) : List Phase :=
  vas.map fun va s => touch s who va write

/-! ### Rows and frames in motion -/

/-- A migration of the page that holds a physical address, if one is under way. -/
def migrationOf (s : State) (pa : Nat) : Option (Nat × Migration) :=
  s.sys.migrations.find? fun e => e.2.live && e.2.old / e.2.size == pa / e.2.size

/-- Where an access to a physical address is performed: the new frame once the leaf is written
(R376 step 4). -/
def forward (s : State) (sp : Space) (key : Nat) : Nat :=
  match sp, migrationOf s key with
  | .dev, some (_, m) => if m.written then m.new + key % m.size else key
  | _, _ => key

/-- The held row, if any, that contains a physical address: context and handle (R238). -/
def heldRow (s : State) (pa : Nat) : Option (Nat × Nat) :=
  s.ctxs.findSome? fun c => c.2.rows.findSome? fun r =>
    if r.2.state == .held && r.2.pa / 1024 == pa / 1024 then some (c.1, r.1) else none

/-- Accesses to a physical address are performed at a row buffer: its row is held or closing (R238,
R239). -/
def atRowBuffer (s : State) (pa : Nat) : Bool :=
  (heldRow s pa).isSome || s.sys.closing.any fun e => e.1 / 1024 == pa / 1024

/-! ### What a store brings about -/

/-- The workgroup and region whose Lagoon range holds a Lagoon byte (R176). -/
def regionAt (s : State) (key : Nat) : Option (Nat × Nat × Region) :=
  s.wgs.findSome? fun w =>
    (w.2.regions.zipIdx.findSome? fun r =>
      let first := lagoonKey (lagoonCluster r.1.lagoon) (r.1.lagoon % 2 ^ 24)
      if r.1.live && !r.1.closing && decide (first ≤ key) && decide (key < first + r.1.count * 65536)
      then some (w.1, r.2, r.1) else none)

/-- Changes one region of a workgroup. -/
def Wg.updRegion (w : Wg) (i : Nat) (f : Region → Region) : Wg :=
  { w with regions := w.regions.zipIdx.map fun e => if e.2 = i then f e.1 else e.1 }

/-- Adds a number to a list that has no repeats. -/
def insertOnce (x : Nat) (l : List Nat) : List Nat := if l.contains x then l else x :: l

/-- All bits of `n` bytes. -/
def allBits (n : Nat) : Nat := 2 ^ (8 * n) - 1

/-- Stores masked bits at a key: the bytes; poison cleared in the granules written whole (R183); the
page's write version (R377) and the lines a migration must copy again (R376); for the Lagoon the
writing context (R344) and the dirty blocks of a region's filled granules (R177). -/
def storeAt (s : State) (sp : Space) (ctx key size mask data : Nat) : List Micro :=
  let bs := maskedBytes s key size mask data
  let g := granuleOf sp
  let whole := decide (size % g = 0 ∧ key % g = 0) && mask % 2 ^ (8 * size) == allBits size
  let blocks := distinct (bs.map fun b => b.1 / 64)
  [.bytes bs]
    ++ (if whole && !s.poison.isEmpty then [.poison fun l => l.filter fun p => !(decide (key ≤ p) && decide (p < key + size))]
        else [])
    ++ (match sp with
        | .dev =>
          [.caches fun c => { c with versions := put 0 c.versions (key / 65536) (look 0 c.versions (key / 65536) + 1) }]
            ++ (match migrationOf s key with
                | some (i, _) =>
                  [.sys fun y =>
                    let m := look {} y.migrations i
                    { y with migrations := put {} y.migrations i { m with dirty := insertOnce (key / 256) m.dirty } }]
                | none => [])
        | .lagoon =>
          [.caches fun c => { c with writer := bs.foldl (fun w b => put 0 w b.1 (ctx + 1)) c.writer }]
            ++ (match regionAt s key with
                | some (w, i, r) =>
                  let first := lagoonKey (lagoonCluster r.lagoon) (r.lagoon % 2 ^ 24)
                  let mine := blocks.filter fun b => r.filled.contains ((64 * b - first) / 65536)
                  [.wg w fun g => g.updRegion i fun r => { r with dirty := mine.foldl (fun l b => insertOnce b l) r.dirty }]
                | none => [])
        | _ => [])

/-- Marks the granule of a key poisoned (R379). -/
def spoil (sp : Space) (key : Nat) : Micro :=
  .poison fun l => insertOnce (key / granuleOf sp * granuleOf sp) l

/-! ### L1 -/

/-- Key of a core's L1 sector, tagged by context and virtual address (R205). -/
def l1Key (core ctx va : Nat) : Nat := (64 * core + ctx) * 2 ^ 50 + va / 64

/-- Key of a byte of a core's L1. -/
def l1Byte (core ctx va : Nat) : Nat := (64 * core + ctx) * 2 ^ 56 + va

/-- Drops the L1 sectors of a 256-byte virtual line (R193). -/
def dropLine (core ctx va : Nat) : Micro :=
  .caches fun c =>
    { c with l1 := dropKeys (fun k => k / 4 == l1Key core ctx va / 4) c.l1
             l1data := dropKeys (fun k => k / 256 == l1Byte core ctx va / 256) c.l1data }

end Sys2Proof.Machine
end

