-- ==== Sys2Proof/Machine/Kill.lean ====
section
/-! DEFINITION. Ending threads, workgroups and launches: the warp kill, the forced context reset, and
the completion of workgroups and launches (R95, R224, R299, R311, R345, R348, R439). -/

namespace Sys2Proof.Machine

/-! ### Operations of a thread that ends -/

/-- A key that no live thread has, for the accesses of a thread that has ended. -/
def orphanKey (id : Nat) : Nat := 2 ^ 20 + id

/-- The operations of a thread. -/
def opsOf (s : State) (k : Nat) : List (Nat × Op) := s.fl.ops.filter fun o => o.2.thr == k

/-- The requests of an operation. -/
def reqsOf (s : State) (op : Nat) : List (Nat × Req) := s.fl.reqs.filter fun r => r.2.op == op

/-- Removes an operation and its requests. -/
def dropOp (s : State) (id : Nat) : List Micro :=
  .op id (fun _ => {}) :: (reqsOf s id).map fun r => .req r.1 fun _ => {}

/-- The Reef part of an operation. -/
def reefOf (s : State) (id : Nat) : ReefOp := (s.op id).reef.getD {}

/-- It multiplies. -/
def ReefOp.isMac (r : ReefOp) : Bool := r.kind == .mac || r.kind == .macPair

/-- The accepted operations of an array that stand before one. -/
def before (s : State) (core id : Nat) : List Nat := (s.core core).queue.takeWhile (· != id)

/-- An accepted slot load writes its slot: earlier readers of it have ended their serial phases, earlier writes of it
are done (R288). -/
def slotTurn (s : State) (id : Nat) : Bool :=
  let r := reefOf s id
  (s.op id).live && r.accepted && (s.core r.core).queue.contains id
    && (before s r.core id).all fun e =>
        let q := reefOf s e
        q.slot != r.slot || (q.isMac && q.begun)

/-- Abandons an accepted Reef operation: it leaves its queues, and a slot being written takes tag 0
with the contents of R287 (R311). -/
def abandonReef (s : State) (id : Nat) (o : Op) : List Micro :=
  match o.reef with
  | none => []
  | some r =>
    let out := fun (c : Core) => { c with queue := c.queue.filter (· != id) }
    let slot := match r.kind with
      | .loadB | .code => if slotTurn s id then [Micro.core r.core fun c => { c with slots := put {} c.slots r.slot {} }] else []
      | _ => []
    [.core r.core out] ++ (if r.kind == .macPair then [.core (r.core + 1) out] else []) ++ slot
      ++ (if r.accepted && (r.kind == .mac || r.kind == .macPair) then [.fresh 1] else [])

/-- What becomes of the operations of a thread that ends: stores and atomics already sent are still
performed, for no one; everything else is dropped. -/
def endOps (s : State) (k : Nat) : List Micro :=
  (opsOf s k).flatMap fun (id, o) =>
    if o.cls == .s && o.reef.isNone then
      [.op id fun o => { o with thr := orphanKey id, dsts := [], elems := [] }]
        ++ (reqsOf s id).map fun r => .req r.1 fun r => { r with thr := orphanKey k }
    else abandonReef s id o ++ dropOp s id

/-- Forgets the faults and the undelivered trap records of a thread. -/
def endRecords (s : State) (k : Nat) : List Micro :=
  (s.fl.faults.filterMap fun f =>
    match f.2.who with
    | .lanes t _ => if t == k then some (Micro.fault f.1 fun _ => {}) else none
    | _ => none)
  ++ (s.fl.traps.filterMap fun t => if t.2.thr == k then some (Micro.trap t.1 fun _ => {}) else none)

/-- Removes a thread with everything that hangs on it. -/
def dropThread (s : State) (k : Nat) : List Micro :=
  let t := s.thread k
  let posted := s.fl.reqs.filterMap fun r =>
    if r.2.thr == k && r.2.op == 0 then some (Micro.req r.1 fun r => { r with thr := orphanKey k }) else none
  let copies := s.fl.copies.filterMap fun c =>
    if c.2.thr == k && c.2.owner == .thread then
      some (Micro.copy c.1 fun x => if x.accepted then { x with thr := orphanKey c.1 } else {})
    else none
  endOps s k ++ posted ++ copies ++ endRecords s k ++ [.thread k fun _ => {}]
    ++ (if (s.core t.core).ckpt == some k then [.core t.core fun c => { c with ckpt := none }] else [])

/-! ### Reef ownership -/

/-- Dissolves the binding that a leader holds (R299). -/
def unbind (s : State) (leader : Nat) : List Micro :=
  if (s.core leader).bind == .leader then
    [.core leader fun c => { c with bind := .none }, .core (leader + 1) fun c => { c with bind := .none }]
  else []

/-- A launch has a workgroup on a core. -/
def residentOn (s : State) (core ctx launch : Nat) : Bool :=
  s.wgs.any fun w => w.2.core == core && w.2.ctx == ctx && w.2.launch == launch

/-- Ends the ownership of a core's array when its launch has left; the state is discarded (R286). -/
def endOwnership (s : State) (core : Nat) : List Micro :=
  match (s.core core).owner with
  | none => []
  | some (ctx, launch) =>
    if residentOn s core ctx launch || (s.core core).bind == .follower || !(s.core core).queue.isEmpty then []
    else
      .core core (fun c => { c with owner := none, slots := [], queue := [] }) :: unbind s core

/-- Ends what no longer is owned on a core and on its follower. -/
def settleReef (core : Nat) : List Phase :=
  [fun s => endOwnership s core, fun s => endOwnership s (core + 1)]

/-- Ends what no longer is owned after bindings have dissolved: a leader's ownership, then its follower's (R286). -/
def settleAllReefs : List Phase :=
  [fun s => (keysOf s.cores).flatMap (endOwnership s), fun s => (keysOf s.cores).flatMap (endOwnership s)]

/-! ### Launch completion -/

/-- Changes the launch-table entry that holds a launch number (R355). -/
def Ctx.updLaunch (c : Ctx) (n : Nat) (f : Launch → Launch) : Ctx :=
  let e := look {} c.launches (n % 16)
  if e.live && e.number == n then { c with launches := put {} c.launches (n % 16) (f e) } else c

/-- The entry of a launch number. -/
def Ctx.launch (c : Ctx) (n : Nat) : Launch :=
  let e := look {} c.launches (n % 16)
  if e.live && e.number == n then e else {}

/-- The key under which a launch's freeze holds a core. -/
def freezeKey (ctx launch : Nat) : Nat := ctx * 2 ^ 32 + launch

/-- A core is frozen while an incomplete launch whose freeze reached it is frozen (R368). -/
def coreFrozen (s : State) (core : Nat) : Bool :=
  (s.core core).freezes.any fun k =>
    let e := (s.ctx (k / 2 ^ 32)).launch (k % 2 ^ 32)
    e.open_ && e.frozen

/-- The core of a thread is frozen. -/
def gated (s : State) (k : Nat) : Bool :=
  let t := s.thread k
  (t.engine == .core || t.engine == .access) && coreFrozen s t.core

/-- A launch's accesses that a system-scope fence would await are still on their way (R224). -/
def launchBusy (s : State) (ctx launch : Nat) : Bool :=
  s.fl.reqs.any fun r => r.2.ctx == ctx && r.2.launch == launch && !r.2.done

/-- Completes the launches of a context whose workgroups have all completed and whose latest GWCT has
passed (R224, R345), posting LAUNCHDONE for a `.notify` launch (R355). -/
def completeLaunches (n : Nat) : Phase := fun s =>
  let c := s.ctx n
  (keysOf c.launches).flatMap fun i =>
    let e := look {} c.launches i
    if e.open_ && e.completed == e.total && e.next == e.total && decide (e.lgw ≤ s.sys.dt)
        && !launchBusy s n e.number then
      [.ctx n fun c =>
        let c := { c with launches := put {} c.launches i { e with open_ := false, done := true } }
        if e.notify then c.post 1 0x0100 (BitVec.ofNat 64 e.number) else c]
    else []

/-- The key under which a workgroup's region write-backs at its release are made (R177, R235). -/
def backKey (wg : Nat) : Nat := 2 ^ 60 + wg

/-- A returned time replaces LGW when it exceeds it (R208). -/
def foldTime (k gwct : Nat) : Micro :=
  if backKey 0 ≤ k then .wg (k - backKey 0) fun w => if w.live then { w with lgw := max w.lgw gwct } else w
  else .thread k fun t => if t.live then { t with lgw := max t.lgw gwct } else t

/-- A workgroup is complete: its resources are freed and its launch counts it (R345). -/
def completeWg (wgKey : Nat) : List Phase :=
  [fun s =>
    let w := s.wg wgKey
    if w.live && w.started && w.warps.isEmpty && w.regions.isEmpty && (opsOf s (backKey wgKey)).isEmpty then
      [.wg wgKey fun _ => {},
       .ctx w.ctx fun c => c.updLaunch w.launch fun e =>
         { e with completed := e.completed + 1, lgw := max e.lgw w.lgw }]
    else []]

/-- A warp's slot is released (R95): it leaves its workgroup, whose last leaver it may be; its LGW
counts towards the launch's completion (R224). -/
def releaseWarp (k : Nat) : Phase := fun s =>
  let t := s.thread k
  [.wg t.wg fun w =>
    if w.live then { w with warps := w.warps.filter (· != k), lastThr := k, lgw := max w.lgw t.lgw } else w]

/-- What a workgroup's completion brings: its resources freed, its arrays given up, its launch perhaps
complete (R286, R345). -/
def finishWg (g : Nat) (w : Wg) : List Phase := completeWg g ++ settleReef w.core ++ [completeLaunches w.ctx]

/-- Records a flag in the status of a launch (R356). -/
def markLaunch (ctx launch : Nat) (killed hexit : Bool) : Micro :=
  .ctx ctx fun c => c.updLaunch launch fun e => { e with killed := e.killed || killed, hexit := e.hexit || hexit }

/-- The warp kill of R439: lanes, access thread, accepted Reef operations and queues; the launch
records KILLED. The regions of a workgroup that is left without a warp are discarded. -/
def killWarp (k : Nat) : List Phase :=
  [fun s =>
    let t := s.thread k
    if t.live && t.engine == .core then
      releaseWarp k s ++ markLaunch t.ctx t.launch true false
        :: ((keysOf s.cores).flatMap fun c =>
              if (s.core c).owner == some (t.ctx, t.launch) then unbind s c else [])
        ++ dropThread s k ++ dropThread s (accessKey t.core t.slot)
        ++ [.wg t.wg fun w => if w.live && (w.warps.filter (· != k)).isEmpty then { w with regions := [] } else w]
    else []]
  ++ [fun s => (keysOf s.wgs).flatMap fun g =>
        let w := s.wg g
        if w.live && w.started && w.warps.isEmpty && w.regions.isEmpty && w.lastThr == k then
          (completeWg g).flatMap fun p => p s
        else []]
  ++ settleAllReefs

/-! ### The forced context reset (R348) -/

/-- Lanes parked on a fault that is forgotten run again, a sequence's together (R86). -/
def Thread.unpark (id : Nat) (t : Thread) : Thread :=
  let mask := t.laneSet fun l => l.state == .parked id
  match t.seq with
  | some q =>
    if q.paused && (q.lanes &&& mask) != 0 then
      let t := t.updLanes mask fun l => { l with state := .stopped .sequence }
      let waits := t.laneSet fun l => match l.state with
        | .parked _ | .stopped (.record _) => true
        | _ => false
      if (q.lanes &&& waits) != 0 then t
      else
        { (t.updLanes q.lanes fun l => if l.state == .stopped .sequence then { l with state := .running } else l) with
          seq := some { q with paused := false, next := q.count - t.repcnt } }
    else t.updLanes mask fun l => { l with state := .running }
  | none => t.updLanes mask fun l => { l with state := .running }

/-- Forgets a fault of a context that is reset; lanes of another context that its regions parked go on (R178). -/
def forgetFault (s : State) (n : Nat) (id : Nat) (f : FaultRec) : List Micro :=
  .fault id (fun _ => {}) :: match f.who with
    | .lanes k _ => if (s.thread k).live && (s.thread k).ctx != n then [.thread k (Thread.unpark id)] else []
    | .peer source => [send (.homeService source 1)]
    | _ => []

/-- The warps, access threads, handlers and the steward of a context. -/
def threadsOf (s : State) (n : Nat) : List Nat :=
  keysOf (s.threads.filter fun t => t.2.ctx == n && t.2.engine != .harbour)

/-- The clusters in which a context has a workgroup. -/
def residentClusters (s : State) (n : Nat) : List Nat :=
  distinct ((s.wgs.filter fun w => w.2.ctx == n).map fun w => clusterOf w.2.core)

/-- The ballast level of a cluster whose warps of one context are all killed: 16 less the sixteenths
of issue that the remaining warps fill, a free value where warps remain (R414). -/
def ballastAfter (s : State) (n cl : Nat) : List Micro :=
  if s.wgs.any fun w => w.2.ctx != n && clusterOf w.2.core == cl then
    let fill := (Config.freeValue s.fresh).toNat % 17
    [.cluster cl (fun c => { c with ballast := 16 - fill }), .fresh 1]
  else [.cluster cl fun c => { c with ballast := 16 }]

/-- Device time at the base die that holds a physical address. -/
def baseTime (s : State) (pa : Nat) : Nat := s.dtAt (dieOfKey .dev pa)

/-- A row-table entry as an access that issues now finds it: a hold whose expiry has come is stale
(R239). -/
def Row.seen (s : State) (r : Row) : Row :=
  if r.state == .held && decide (r.expiry ≤ baseTime s r.pa) then { r with state := .stale } else r

/-- Releases the held rows of a context: closed as at a lapse, their quota places returned. A hold that has lapsed is
not reopened (R237, R246). -/
def closeRows (s : State) (n : Nat) (dest : RowState) : List Micro :=
  let held := (s.ctx n).rows.filter fun r => r.2.state == .held
  (if held.isEmpty then [] else
    [.sys fun y => { y with closing := y.closing ++ held.map fun r => (r.2.pa, s.fl.next) }])
  ++ [.ctx n fun c =>
        let next (r : Row) : Row :=
          if dest == .free then {} else { r with state := .stale, reopen := c.rowSave && (r.seen s).state == .held }
        { c with rows := held.foldl (fun m r => put {} m r.1 (next r.2)) c.rows }]

/-- Every incomplete launch is ended with KILLED set and DONE clear; no workgroup of it is placed
again. -/
def Ctx.endLaunches (c : Ctx) : Ctx :=
  let close := fun (m : Sparse Launch) i =>
    let e := look {} m i
    if e.open_ then put {} m i { e with open_ := false, killed := true, done := false, next := e.total } else m
  { c with launches := (keysOf c.launches).foldl close c.launches }

/-- The forced context reset of R348; the context stays created with no steward. `notice` is the kind
of notice, with a handler's record, or none for a reset that system software requests (R404). A CTX_PREEMPT
that it overtakes is answered DEADLINE (R403). -/
def forceReset (n : Nat) (notice : Option (Nat × List W64)) : List Phase :=
  [fun s => match (s.ctx n).saveCmd with
    | some tag => [if (s.ctx n).save == .restoring then reply 0x13 tag (-5) else reply 0x12 tag (-6)]
    | none => [],
   fun s => (residentClusters s n).flatMap fun cl => ballastAfter s n cl,
   fun s => (threadsOf s n).flatMap fun k => dropThread s k,
   fun s => s.fl.copies.filterMap fun c =>
     if c.2.ctx == n && c.2.live then some (.copy c.1 fun c => { c with abandoned := true, stalled := none }) else none,
   fun s => s.fl.faults.flatMap fun f => if f.2.ctx == n then forgetFault s n f.1 f.2 else [],
   fun s => s.fl.traps.filterMap fun t => if t.2.ctx == n then some (.trap t.1 fun _ => {}) else none,
   fun s => closeRows s n .free,
   fun s => (s.wgs.filter fun w => w.2.ctx == n).map fun w => .wg w.1 fun _ => {},
   fun s => (keysOf s.cores).flatMap fun c =>
     match (s.core c).owner with
     | some (x, _) => if x == n then
         [.core c fun c => { c with owner := none, slots := [], queue := [], bind := .none }] else []
     | none => [],
   fun s => [.ctx n fun c =>
     { c.endLaunches with
       steward := none, save := .none, saveCmd := none, frwait := []
       tide := { c.tide with step := none } }]
     ++ (match notice with
         | some (kind, record) => notify s n kind record
         | none => [])]

/-- The four words of a trap record (R362). -/
def Trap.words (t : Trap) : List W64 :=
  let code : Nat := match t.cause with
    | .undef => 1 | .priv => 2 | .regRange => 3 | .badTarget => 4 | .align => 5 | .badAddr => 6
    | .memType => 7 | .poison => 8 | .fpe => 9 | .qUnder => 10 | .pairLess => 11 | .badRow => 12
    | .mapConf => 13 | .frame => 14 | .trap => 15 | .xFault => 16
  [BitVec.ofNat 64 (code + t.agent * 2 ^ 8 + (if t.inrep then 2 ^ 11 else 0) + t.core * 2 ^ 16
     + t.slot * 2 ^ 26 + t.seq * 2 ^ 32),
   BitVec.ofNat 64 t.lanes, t.pc.setWidth 64, t.detail]

/-- The rank of a cause (R361). -/
def Cause.rank : Cause → Nat
  | .undef => 1 | .priv => 2 | .regRange => 3 | .badTarget => 4 | .align => 5 | .badAddr => 6
  | .frame | .xFault => 7 | .memType => 8 | .poison => 9 | _ => 10

end Sys2Proof.Machine
end

