-- ==== Sys2Proof/Machine/Trap.lean ====
section
/-! DEFINITION. Traps and faults: fetching words, stopping and parking lanes, the fault ring, taking a
trap and returning from it, and what a lane meets at the end of a block (R27 to R30, R74, R83, R86,
R361 to R374, R381). -/

namespace Sys2Proof.Machine

/-- Why a lane cannot perform an instruction. -/
inductive Bad
  | trap (cause : Cause) (detail : W64)
  | miss (m : Miss)
  deriving DecidableEq, Repr

/-- Who makes a thread's accesses. -/
def whoOf (t : Thread) : Who :=
  { ctx := t.ctx, cluster := t.cluster, die := t.die, phys := t.engine == .harbour, launch := t.launch }

/-- A word is header-shaped (R29). -/
def headerShaped (w : W64) : Bool := field w 63 58 == 63

/-- The word at an address, fetched as a read that needs X (R370). A fetch from the Lagoon window that
fails R172 traps BADADDR (log entry 13). -/
def fetch (s : State) (t : Thread) (pc : Addr) : Except Bad W64 :=
  if inLagoon pc.toNat && !lagoonOk s t.ctx pc.toNat then .error (.trap .badAddr (pc.setWidth 64))
  else
    match translate s (whoOf t) .fetch pc.toNat with
    | .error m => .error (.miss m)
    | .ok p => if p.space == .mmio then .error (.trap .memType (pc.setWidth 64)) else .ok (dword s p.key)

/-! ### Stopping and parking -/

/-- Lanes of one instruction struck by one trap, or by faults in one page. -/
structure Blow where
  pc   : Addr
  mask : Nat
  bad  : Bad
  deriving DecidableEq, Repr

/-- The causes in rank order (R361). -/
def causesByRank : List Cause :=
  [.undef, .priv, .regRange, .badTarget, .align, .badAddr, .frame, .xFault, .memType, .poison, .fpe,
   .qUnder, .pairLess, .badRow, .mapConf, .trap]

/-- Lanes of one instruction that trap with the same cause, with the detail of the lowest (R363). -/
def trapBlow (pc : Addr) (vs : List (Nat × Bad)) (c : Cause) : List Blow :=
  let mine := vs.filter fun v => match v.2 with | .trap x _ => x == c | .miss _ => false
  match mine with
  | [] => []
  | v :: _ => [{ pc, mask := setOf (mine.map Prod.fst), bad := v.2 }]

/-- The pages in which lanes fault. -/
def missPages : List (Nat × Bad) → List (Nat × Bool × Bool)
  | [] => []
  | (_, .miss m) :: vs => (m.va / 65536, m.stage2, m.region) :: (missPages vs).filter (· != (m.va / 65536, m.stage2, m.region))
  | _ :: vs => missPages vs

/-- Lanes of one instruction that fault in one page; the entry's VA is the lowest lane's. -/
def missBlow (pc : Addr) (vs : List (Nat × Bad)) (page : Nat × Bool × Bool) : List Blow :=
  let mine := vs.filter fun v => match v.2 with
    | .trap _ _ => false
    | .miss m => (m.va / 65536, m.stage2, m.region) == page
  match mine with
  | [] => []
  | v :: _ => [{ pc, mask := setOf (mine.map Prod.fst), bad := v.2 }]

/-- The blows that the lanes of one instruction take, traps in rank order. The verdicts are in
ascending lane order. -/
def blowsOf (pc : Addr) (vs : List (Nat × Bad)) : List Blow :=
  causesByRank.flatMap (trapBlow pc vs) ++ (missPages vs).flatMap (missBlow pc vs)

/-- The AGENT, CORE and SLOT fields of a record or ring entry (R362, R373). -/
def agentOf (t : Thread) : Nat × Nat × Nat :=
  match t.engine with
  | .core => (0, t.core, t.slot)
  | .access => (1, t.core, t.slot)
  | .scc | .harbour => (2, 0x3FF, t.slot)

/-- The thread runs a `REP` sequence whose next execution stands at this address. -/
def inSequence (t : Thread) (pc : Addr) : Bool :=
  match t.seq with
  | some q => q.pc == pc && !q.paused
  | none => false

/-- A second-stage fault goes to the host, once the pair of its die is neither restarting nor in a handover, or to the pair
(R371, R401, R405, R424, R431). -/
def askService (s : State) (id ctx die : Nat) (m : Miss) : List Micro :=
  let c := s.ctx ctx
  if !hostAssisted s c.atoll 0 then [pend die 0 1]
  else if (s.die die).restart || (s.die die).handover then []
  else [ask 0x80 id [BitVec.ofNat 64 (c.fn + ctx * 256), BitVec.ofNat 64 m.gpa, BitVec.ofNat 64 m.access]]

/-- What a die's pair had to leave is asked of the host now, or is the pair's (R424, R431). -/
def askDeferred (die : Nat) (s : State) : List Micro :=
  s.fl.faults.flatMap fun f =>
    if f.2.live && f.2.die == die && f.2.miss.stage2 && !f.2.miss.home
        && !(s.sys.asks.any fun a => a.code == 0x80 && a.what == f.1) then askService s f.1 f.2.ctx die f.2.miss
    else []

/-- Takes one blow as the flight entry `id`; `prev` is the record of the same instruction that is
delivered before, `nth` counts the trap records before it and `nf` the ring entries of its die (R408). -/
def takeBlow (s : State) (k : Nat) (id nth nf : Nat) (prev : Option Nat) (b : Blow) : List Micro :=
  let t := s.thread k
  let (agent, core, slot) := agentOf t
  match b.bad with
  | .trap cause detail =>
    [.trap id fun _ =>
      { live := true, cause, thr := k, ctx := t.ctx, cluster := t.cluster, agent
        inrep := inSequence t b.pc, core, slot, seq := ((s.cluster t.cluster).seq + nth) % 2 ^ 32
        lanes := b.mask, pc := b.pc, detail, after := prev },
     .cluster t.cluster fun c => { c with seq := (c.seq + 1) % 2 ^ 32 },
     .thread k fun t => t.updLanes b.mask fun l => { l with state := .stopped (.record id), hold := .none }]
  | .miss m =>
    let n := m.of_.getD t.ctx
    let mine : FaultRec :=
      { live := true, who := .lanes k b.mask, ctx := n, die := t.die, miss := m
        agent := if m.region then 4 else agent, core := if m.region then 0x3FF else core, slot
        pc := if m.region then 0 else b.pc, seq := ((s.die t.die).faultSeq + nf) % 2 ^ 32 }
    let route :=
      if m.home then []
      else if m.stage2 then
        askService s id n t.die m
      else
        [.ctx n fun c => { c with frwait := c.frwait ++ [id] },
         .die t.die fun d => { d with faultSeq := (d.faultSeq + 1) % 2 ^ 32 }]
    let walk := if (tlbFind s (whoOf t) m.va).isNone && !t.engine == .harbour then count s t.ctx 0x0E 1 t.launch else []
    [.fault id fun _ => mine,
     .thread k fun t => t.updLanes b.mask fun l => { l with state := .parked id, hold := .none }] ++ route ++ walk

/-- Takes blows one after another. `prev` is the last record before with its PC: a record of another instruction does
not await it (R363). -/
def takeBlows (s : State) (k : Nat) : Nat → Nat → Nat → Option (Nat × Addr) → List Blow → List Micro
  | _, _, _, _, [] => []
  | id, nth, nf, prev, b :: bs =>
    let before := prev.bind fun p => if p.2 = b.pc then some p.1 else none
    takeBlow s k id nth nf before b
      ++ match b.bad with
        | .trap _ _ => takeBlows s k (id + 1) (nth + 1) nf (some (id, b.pc)) bs
        | .miss m => takeBlows s k (id + 1) nth (if m.home || m.stage2 then nf else nf + 1) prev bs

/-- Strikes lanes of an issuing group with the verdicts they met. In a `REP` sequence every other
lane of the group stops with them, and REPCNT takes the executions that remain (R86). -/
def strike (s : State) (k : Nat) (pc : Addr) (group : Nat) (vs : List (Nat × Bad)) : List Micro :=
  if vs.isEmpty then []
  else
    let t := s.thread k
    let bs := blowsOf pc vs
    let struck := setOf (vs.map Prod.fst)
    let rest := if inSequence t pc then
        [Micro.thread k fun t =>
          let t := t.updLanes (without group struck) fun l => { l with state := .stopped .sequence, hold := .none }
          match t.seq with
          | some q => { t with seq := some { q with paused := true }, repcnt := q.count - q.next }
          | none => t]
      else []
    .bump bs.length :: takeBlows s k s.fl.next 0 0 none bs ++ rest

/-- Strikes every lane of a group with one cause. -/
def trapGroup (s : State) (iss : Issue) (c : Cause) (detail : W64 := 0) : List Micro :=
  strike s iss.thr iss.pc iss.lanes ((lanesOf iss.lanes).map fun l => (l, .trap c detail))

/-! ### The fault ring (R372, R373) -/

/-- The four words of a fault-ring entry (R373). -/
def FaultRec.words (f : FaultRec) : List Nat :=
  let lanes := match f.who with
    | .lanes _ m => if f.agent = 4 then 0 else if f.agent = 0 then m else 1
    | _ => 0
  [f.miss.access % 16 + f.miss.reason % 16 * 2 ^ 4 + f.agent * 2 ^ 8 + f.miss.level % 8 * 2 ^ 11
     + f.ctx % 64 * 2 ^ 16 + f.core * 2 ^ 22 + f.seq * 2 ^ 32,
   f.miss.va, f.pc.toNat + f.slot % 32 * 2 ^ 56, lanes]

/-- A number from 64-bit words, the first the least significant. -/
def packWords : List Nat → Nat
  | [] => 0
  | w :: ws => w % 2 ^ 64 + 2 ^ 64 * packWords ws

/-- Writes the ring entries of the faults that wait, while places are free, and signals each (R359,
R372). A ring that does not translate keeps them waiting. -/
def ringEntries (s : State) (n : Nat) : Nat → List Nat → List Micro
  | _, [] => []
  | j, id :: ids =>
    let c := s.ctx n
    let index := (c.frpi + j) % 2 ^ 32
    if (index + 2 ^ 32 - c.frci) % 2 ^ 32 < 2 ^ c.fsize then
      let who : Who := { ctx := n, cluster := c.home, die := dieOfCluster c.home }
      let va := c.fring + 32 * (index % 2 ^ c.fsize)
      match translate s who .write va with
      | .error _ => []
      | .ok p =>
        let f := s.fault id
        storeAt s p.space n p.key 32 (allBits 32) (packWords f.words)
          ++ [.fault id fun f => { f with index := some index },
              .ctx n fun c =>
                let c := { c with frpi := (c.frpi + 1) % 2 ^ 32, frwait := c.frwait.filter (· != id) }
                c.post 2 f.die (BitVec.ofNat 64 index)]
          ++ (if j = 0 then signal s n 1 else [])
          ++ ringEntries s n (j + 1) ids
    else []

/-- Serves the fault ring of a context. -/
def serveRing (n : Nat) : Phase := fun s => ringEntries s n 0 (s.ctx n).frwait

/-! ### Block framing -/

/-- The lanes that stand before a word that must still be judged, by address. -/
def pendingHeads (t : Thread) : List Nat :=
  distinct ((members t.width (t.laneSet fun l => l.need != .none && l.state == .running)).map
    fun l => (t.lane l).pc.toNat)

/-- What the lanes at one such address meet (R30, R341): a header opens its block, a fetch fault parks
them, anything else traps UNDEF, or BADTARGET at a start. -/
def meetHead (s : State) (k : Nat) (pc : Addr) : List Micro ⊕ List (Nat × Bad) :=
  let t := s.thread k
  let mask := t.laneSet fun l => l.need != .none && l.state == .running && l.pc == pc
  let all := fun (b : Bad) => (members t.width mask).map fun l => (l, b)
  match fetch s t pc with
  | .error b => .inr (all b)
  | .ok w =>
    if headerShaped w && field w 57 48 != 0 && pc.toNat % 8 == 0 then
      .inl (touch s (whoOf t) pc.toNat false ++ [.thread k fun t => t.updLanes mask fun l =>
        { l with header := pc, word := w, pc := pc + 8, need := .none }])
    else if headerShaped w && pc.toNat % 8 == 0 then .inr (all (.trap .undef 0))
    else .inr ((members t.width mask).map fun l =>
      (l, if (t.lane l).need == .start then .trap .badTarget (pc.setWidth 64) else .trap .undef 0))

/-- Opens the blocks that lanes of a thread have reached (R30 rule 5). -/
def openBlocks (k : Nat) : Phase := fun s =>
  (pendingHeads (s.thread k)).flatMap fun a =>
    match meetHead s k (BitVec.ofNat 56 a) with
    | .inl us => us
    | .inr _ => []

/-- Strikes the lanes that met no header. -/
def strikeHeads (k : Nat) : Phase := fun s =>
  let t := s.thread k
  let blows := (pendingHeads t).flatMap fun a =>
    match meetHead s k (BitVec.ofNat 56 a) with
    | .inl _ => []
    | .inr vs => blowsOf (BitVec.ofNat 56 a) vs
  if blows.isEmpty then [] else .bump blows.length :: takeBlows s k s.fl.next 0 0 none blows

/-- A trap in handler code is not delivered: the context is reset, with the handler's record in a
HANDLERFAULT notice (R365). -/
def handlerFault (s : State) (k : Nat) : List Phase :=
  let t := s.thread k
  match t.level, (t.lane 0).state with
  | .handler, .stopped (.record id) => forceReset t.ctx (some (3, (s.trap id).words))
  | _, _ => []

/-- Every lane enrolled in a rejoin register waits at an `AWAIT` that names it (R82). Lanes take part
in no release while their warp is in an episode (R256). -/
def joinDue (s : State) (k j : Nat) : Bool :=
  let t := s.thread k
  let set := (t.regs.getJ j).toNat
  t.live && t.episode.isNone && set != 0
    && (lanesOf set).all fun l => (t.lane l).live && (t.lane l).state == .joining j

/-- The lanes of a workgroup that have not exited, as warp and lane. -/
def wgLanes (s : State) (w : Nat) : List (Nat × Lane) :=
  (s.wg w).warps.flatMap fun k =>
    (s.thread k).regs.lanes.filterMap fun l => if l.2.live && l.2.state != .exited then some (k, l.2) else none

/-- A workgroup's barrier phase is complete: every lane that has not exited has arrived (R100). -/
def barrierDue (s : State) (w : Nat) : Bool :=
  let ls := wgLanes s w
  !ls.isEmpty && (ls.all fun l => l.2.arrived) && (s.wg w).warps.all fun k => (s.thread k).episode.isNone

/-- Puts the releases that have fallen due at the head of what happens next (R82, R100). -/
def dueReleases (k : Nat) : Phase := fun s =>
  let w := (s.thread k).wg
  let js := ((List.range 4).filter (joinDue s k)).map fun j => Happening.occur (.joinRelease k j)
  let bs := if (s.thread k).engine == .core && barrierDue s w then [Happening.occur (.barrierPhaseComplete w)] else []
  if (js ++ bs).isEmpty then []
  else [.agenda fun a => a ++ (js ++ bs).filter fun h => !a.contains h]

/-- What follows every move of a thread's lanes: blocks open, faults reach the ring, a handler's trap
resets its context, joins and barrier phases fall due. -/
def settle (k : Nat) (s : State) : State :=
  let s := run [openBlocks k, strikeHeads k, fun s => serveRing (s.thread k).ctx s] s
  run [dueReleases k] (run (handlerFault s k) s)

/-- Runs phases of a thread and what follows them. -/
def runThread (k : Nat) (ps : List Phase) (s : State) : State := settle k (run ps s)

/-! ### Ending lanes and sequences -/

/-- A sequence whose lanes are all exited has ended (R86). -/
def Thread.trimSequence (t : Thread) : Thread :=
  match t.seq with
  | some q => if q.lanes = 0 then { t with seq := none, repcnt := 0 } else t
  | none => t

/-- Lanes move to the exited state: EM and rejoin bits cleared (R95). -/
def Thread.exitLanes (mask : Nat) (t : Thread) : Thread :=
  let off := fun (w : W64) => w &&& ~~~(BitVec.ofNat 64 mask)
  let t := t.updLanes mask fun l => { l with state := .exited, hold := .none, need := .none, arrived := false }
  let t := t.updRegs fun r =>
    { r with em := off r.em
             j := (List.range 4).foldl (fun m i => put 0 m i (off (look 0 m i))) r.j }
  let cut (q : Sequence) : Sequence := { q with lanes := without q.lanes mask }
  let t := { t with seq := t.seq.map cut }
  t.trimSequence

/-- The mask, stride and count that the `REP` word gives a sequence (R46, R97). -/
def Sequence.takeWord (w : W64) (q : Sequence) : Sequence :=
  { q with mask := field w 9 6, stride := field w 11 10 + 1, count := field w 5 0 + 1 }

/-- A sequence as the issue stage finds it at its restart: it reads the `REP` word at PC − 8 (R86). Where that word
is no `REP` any more, or is not fetched, the sequence goes on as it was (log entry 88). -/
def rereadSequence (s : State) (k : Nat) (q : Sequence) : Sequence :=
  match fetch s (s.thread k) (q.pc - 8) with
  | .ok w => if field w 63 54 == 0x00B then q.takeWord w else q
  | .error _ => q

/-- When no lane of a suspended sequence is still parked or held for a handler, its lanes start again
together at the execution that REPCNT names (R86). -/
def resumeSequence (s : State) (k : Nat) (t : Thread) : Thread :=
  match t.seq with
  | some q =>
    let waits := t.laneSet fun l => match l.state with
      | .parked _ => l.pc == q.pc
      | .stopped (.record _) => l.pc == q.pc
      | _ => false
    if q.paused && (q.lanes &&& waits) == 0 then
      let t := t.updLanes q.lanes fun l =>
        if l.state == .stopped .sequence then { l with state := .running } else l
      if t.repcnt = 0 then { t with seq := none }
      else
        let q := rereadSequence s k q
        { t with seq := some { q with paused := false, next := q.count - t.repcnt } }
    else t
  | none => t

/-- Lanes released from a stop or a fault: running, or held for the rest of their sequence (R86). -/
def restartLanes (s : State) (k mask : Nat) (t : Thread) : Thread :=
  let inSeq := match t.seq with
    | some q => if q.paused then q.lanes else 0
    | none => 0
  let t := t.updLanes mask fun l =>
    { l with state := .running, need := if l.rewritten then .start else l.need, rewritten := false }
  let t := t.updLanes (mask &&& inSeq) fun l => { l with state := .stopped .sequence }
  resumeSequence s k t

/-- An access thread ends: its loops close (R281, R284). -/
def Thread.endAccess (t : Thread) : Thread := { t with ended := true, loops := [], skip := 0 }

/-- The lanes of a record end as if they had executed `EXIT` (R95, R364): lanes of a warp exit and
the launch records HEXIT, an access thread ends, a steward ends. -/
def exitRecord (s : State) (id : Nat) : List Micro :=
  let r := s.trap id
  let t := s.thread r.thr
  let ends := if !r.live || !t.live then [] else match t.engine with
    | .core =>
      [Micro.thread r.thr fun t => resumeSequence s r.thr (t.exitLanes r.lanes), markLaunch t.ctx t.launch false true]
    | .access => [.thread r.thr fun t => (t.updLanes 1 fun l => { l with state := .exited }).endAccess]
    | .scc =>
      dropThread s r.thr ++ [.ctx t.ctx fun c => { c with steward := none }]
    | .harbour => []
  ends ++ [.trap id fun _ => {}]

/-! ### Taking a trap (R13, R363) and returning from it (R381) -/

/-- The lowest free thread slot of an SCC among the first `n` (R13). -/
def freeSccSlot (s : State) (cluster n : Nat) : Option Nat :=
  (List.range n).find? fun i => !(s.thread (sccKey cluster i)).live

/-- A scalar thread at its start: one lane at a header, every register zero (R336, R346, R363). -/
def scalarThread (engine : Engine) (level : Level) (ctx core slot : Nat) (pc : Addr)
    (scalars : List W64) (gen : W32) : Thread :=
  { live := true, engine, level, ctx, core, slot, width := 1
    regs := { s := scalars.zipIdx.foldl (fun m e => put 0 m (e.2 + 1) e.1) [], em := 1
              lanes := [(0, { live := true, pc, need := .start, gen })] } }

/-- A record may be delivered: it is undelivered, and the record of the same instruction before it has
had its handler end (R363). -/
def deliverable (s : State) (id : Nat) : Bool :=
  let r := s.trap id
  r.live && r.handler.isNone && decide (r.cluster < 48)
    && (match r.after with
        | some p => !(s.trap p).live
        | none => true)

/-- A record that is due waits for a slot of a cluster's SCC: handlers take free slots ahead of a waiting steward (R13). -/
def handlerWaits (s : State) (cluster : Nat) : Bool :=
  s.fl.traps.any fun r => r.2.cluster == cluster && deliverable s r.1 && (s.ctx r.2.ctx).trapvec != 0

/-- The slot that a steward takes on an SCC: one of 0 to 6 that is free, the lowest (R13, R404; log entry 96). -/
def stewardSlot (s : State) (cluster : Nat) : Option Nat :=
  if handlerWaits s cluster then none else freeSccSlot s cluster 7

/-- The launch of the thread, or of the workgroup, that a record is of. -/
def Trap.launch (s : State) (r : Trap) : Nat :=
  if backKey 0 ≤ r.thr then (s.wg (r.thr - backKey 0)).launch else (s.thread r.thr).launch

/-- Takes a trap: with TRAPVEC zero as if by a handler that exits (R364), else the handler starts in
the lowest free slot at the header in TRAPVEC with the record in s1 to s4 (R363). -/
def deliver (id : Nat) : Phase := fun s =>
  let r := s.trap id
  let c := s.ctx r.ctx
  if c.trapvec = 0 then exitRecord s id ++ count s r.ctx 0x0D 1 (r.launch s)
  else
    match freeSccSlot s r.cluster 8 with
    | none => []
    | some slot =>
      let k := sccKey r.cluster slot
      [.thread k fun _ =>
        { scalarThread .scc .handler r.ctx r.cluster slot (BitVec.ofNat 56 c.trapvec) r.words 1 with
          record := id + 1 },
       .trap id (fun r => { r with handler := some k }), .cluster r.cluster fun c => { c with idleFrom := none }]
      ++ count s r.ctx 0x0D 1 (r.launch s)

/-- The lanes that an `ERET` of a record resumes: the record's, and those stopped with them (R381). -/
def resumed (t : Thread) (r : Trap) : Nat :=
  r.lanes ||| (if r.inrep then t.laneSet fun l => l.state == .stopped .sequence else 0)

/-- What keeps an `ERET` from resuming: a rewritten PC among the lanes to resume names no header, or its word cannot
be fetched (R365, R381). -/
def badResume (s : State) (id : Nat) (skip : Bool) : Option Bad :=
  let r := s.trap id
  let t := s.thread r.thr
  (members t.width (resumed t r)).findSome? fun l =>
    let a := (t.lane l).pc + (if skip then 8 else 0)
    if (t.lane l).rewritten then
      if a.toNat % 8 ≠ 0 then some (.trap .badTarget (a.setWidth 64))
      else
        match fetch s t a with
        | .ok w => if headerShaped w then none else some (.trap .badTarget (a.setWidth 64))
        | .error b => some b
    else none

/-- Returns from a trap: `.skip` moves the lanes on and abandons the rest of a sequence, as a rewritten PC
in one does; a rewritten PC opens its block; the lanes run (R381). -/
def returnFrom (id : Nat) (skip : Bool) : Phase := fun s =>
  let r := s.trap id
  let t := s.thread r.thr
  let all := resumed t r
  if !r.live || !t.live then [.trap id fun _ => {}] else
  [.thread r.thr fun t =>
    let t := if skip then
        { (t.updLanes all (fun l => { Lane.advance 8 l with rewritten := l.rewritten })) with repcnt := 0, seq := none }
      else if r.inrep && (t.laneSet (·.rewritten) &&& all) != 0 then { t with repcnt := 0, seq := none }
      else t
    let t := t.updLanes all fun l => if l.rewritten then { l with need := .start, rewritten := false } else l
    if skip then t.updLanes all fun l => { l with state := .running } else restartLanes s r.thr all t,
   .trap id fun _ => {}]

/-! ### Resuming from fault service (R371, R374, R375) -/

/-- The retry of a store through a row held without W: the recorded address is translated as a write, and
a leaf that has W and maps the recorded frame gives the entry its W (R251). -/
def regrant (s : State) (f : FaultRec) (t : Thread) : List Micro :=
  match f.miss.row with
  | none => []
  | some h =>
    let r := look {} (s.ctx f.ctx).rows h
    match r.state, translate s (whoOf t) .write r.va with
    | .held, .ok p =>
      touch s (whoOf t) r.va true
        ++ (if p.space == .dev && p.key == r.pa then
              [.ctx f.ctx fun c => { c with rows := put {} c.rows h { r with w := true } }] else [])
    | _, _ => []

/-- A copy goes on after a retry (R268); a payload's copy is repeated (R395). -/
def Copy.resume (c : Copy) : Copy :=
  match c.owner with
  | .payload _ _ => { c with stalled := none, buf := [], got := [], spoiled := [], moved := [], counted := 0, pieces := [] }
  | _ => { c with stalled := none }

/-- The outcome of a fault's service: 0 retry, 1 fail, 2 no frame (R374). -/
def resumeFault (id action : Nat) : Phase := fun s =>
  let f := s.fault id
  if !f.live || action > 2 then []
  else
    let gone := [Micro.fault id fun _ => {}]
    match f.who with
    | .lanes k mask =>
      let t := s.thread k
      let here := t.laneSet (fun l => l.state == .parked id) &&& mask
      if action = 0 then regrant s f t ++ gone ++ [.thread k fun t => restartLanes s k here t]
      else
        let cause := if action = 1 then Cause.xFault else .frame
        gone ++ (if here = 0 then [] else
          .bump 1 :: takeBlow s k s.fl.next 0 0 none
            { pc := (t.lane ((lanesOf here).headD 0)).pc, mask := here, bad := .trap cause (BitVec.ofNat 64 f.miss.va) }
          ++ [.trap s.fl.next fun r =>
                { r with inrep := match t.seq with | some q => q.paused && (q.lanes &&& here) != 0 | none => false }])
    | .copy c =>
      if action = 0 then gone ++ [.copy c Copy.resume]
      else gone ++ [.copy c fun c => { c with stalled := none, abandoned := true }]
    | .region _ _ | .release _ => if action = 0 then gone else []
    | .peer source => gone ++ [send (.homeService source action)]
    | .request n =>
      let r := s.req n
      let t := s.thread r.thr
      let here := t.laneSet fun l => l.state == .parked id
      gone ++ (if action = 0 then [] else [.req n fun r => { r with done := true, acked := true }])
        ++ (if here = 0 then []
            else if action = 0 then [.thread r.thr fun t => restartLanes s r.thr here t]
            else
              .bump 1 :: takeBlow s r.thr s.fl.next 0 0 none
                { pc := (t.lane ((lanesOf here).headD 0)).pc, mask := here
                  bad := .trap (if action = 1 then .xFault else .frame) (BitVec.ofNat 64 r.va) })

/-- The thread that a fault parks, if lanes are parked. -/
def faultThread (s : State) (id : Nat) : Option Nat :=
  match (s.fault id).who with
  | .lanes k _ => some k
  | .request n => if (s.thread (s.req n).thr).live then some (s.req n).thr else none
  | _ => none

/-- Resumes a fault and lets the released lanes go on. -/
def resumeAndSettle (id action : Nat) (s : State) : State :=
  match faultThread s id with
  | some k => runThread k [resumeFault id action] s
  | none => run [resumeFault id action] s

end Sys2Proof.Machine
end

