-- ==== Sys2Proof/Machine/Special.lean ====
section
/-! DEFINITION. The special registers: the TIDE set (R313 to R317), the registers of CSRR and CSRW
(R17 to R26, R206, R242, R243, R352, R364, R372, R382), the Harbour block and the PF configuration
(R402, R403, R413, R425 to R428). -/

namespace Sys2Proof.Machine

/-! ### The ladder and the TIDE set -/

/-- A number clamped to a range (R5). -/
def sat (x lo hi : Int) : Int := if x < lo then lo else if hi < x then hi else x

/-- The top of the ladder (R319). -/
def Tide.dmax (t : Tide) : Nat := 36 + t.kc

/-- The bound of the integral (R314). -/
def Tide.imax (t : Tide) : Int := 2 ^ t.imaxlog - 1

/-- The demand of a position: SLOTS, CORES, WAYS, SHARE, STEP (R320). -/
def demandAt (kc d : Nat) : List Nat :=
  [4 + 4 * min d 7, min (d - 7) kc, 1 + min (d - 7 - kc) 7, 8 * (1 + min (d - 14 - kc) 7), min (d - 21 - kc) 15]

/-- The floors of R322 with the core stage at its demand. -/
def floorGrant (kc d : Nat) : List Nat := [4, min (d - 7) kc, 1, 8, 0]

/-- The layout of TGRANT and TDEMAND (R316). -/
def packGrant (g : List Nat) : W64 :=
  BitVec.ofNat 64 (g.getD 0 0 % 64 + g.getD 1 0 % 16 * 2 ^ 8 + g.getD 2 0 % 16 * 2 ^ 16
    + g.getD 3 0 % 128 * 2 ^ 24 + g.getD 4 0 % 16 * 2 ^ 32)

/-- The grant that a word in the TGRANT layout names (R404). -/
def unpackGrant (w : W64) : List Nat :=
  [field w 5 0, field w 11 8, field w 19 16, field w 30 24, field w 35 32]

/-- Before the first allocation the demand, and the core stage of the grant, follow TCFG and TPOS at
once (R316). -/
def Tide.follow (t : Tide) : Tide :=
  if t.allocated then t
  else { t with demand := demandAt t.kc t.pos, grant := t.grant.set 1 ((demandAt t.kc t.pos).getD 1 0) }

/-- A register of the TIDE set (R313). -/
def tideRead (s : State) (ctx id : Nat) : W64 :=
  let c := s.ctx ctx
  let t := c.tide
  let a := s.atoll c.atoll
  match id with
  | 0x00 => BitVec.ofInt 64 t.target
  | 0x01 => BitVec.ofNat 64 (t.kp + t.ki * 2 ^ 16)
  | 0x02 => BitVec.ofNat 64 (t.umax + (if t.enable then 2 ^ 6 else 0) + t.imaxlog * 2 ^ 8 + t.cls * 2 ^ 16 + t.kc * 2 ^ 20)
  | 0x03 => BitVec.ofNat 64 t.job
  | 0x04 => BitVec.ofNat 64 t.pos
  | 0x05 => BitVec.ofInt 64 t.int
  | 0x06 => BitVec.ofNat 64 (t.merged + t.own * 2 ^ 16)
  | 0x07 => packGrant t.demand
  | 0x08 => packGrant t.grant
  | 0x09 => BitVec.ofNat 64 t.flags
  | 0x0A => BitVec.ofNat 64 a.period
  | 0x0B => BitVec.ofNat 64 (t.pool % 2 ^ 16 + t.tokens % 2 ^ 16 * 2 ^ 16 + t.slew % 2 ^ 8 * 2 ^ 32)
  | _ => 0

/-- A write of a register of the TIDE set by `TSET` (R313, R314, R318). Read-only registers keep their
value. -/
def Tide.write (t : Tide) (id : Nat) (v : W64) : Tide :=
  match id with
  | 0x00 =>
    let x := (v.setWidth 32).toInt
    { t with target := if x < 0 then 0 else x }
  | 0x01 => { t with kp := field v 15 0, ki := field v 31 16 }
  | 0x02 =>
    let kc := min (field v 23 20) 9
    let t := { t with
      kc, cls := field v 17 16, imaxlog := max 16 (min 39 (field v 13 8)), enable := has v.toNat 6
      umax := max 1 (field v 5 0) }
    ({ t with pos := min t.pos t.dmax, int := sat t.int (-t.imax) t.imax }).follow
  | 0x03 => { t with job := field v 31 0 }
  | 0x04 =>
    ({ t with pos := min (field v 5 0) t.dmax, step := t.step.map fun (x : Step) => { x with keepPos := true } }).follow
  | 0x05 =>
    { t with int := sat v.toInt (-t.imax) t.imax, step := t.step.map fun (x : Step) => { x with keepInt := true } }
  | 0x09 => { t with flags := without t.flags (v.toNat % 256) }
  | _ => t

/-! ### Capability words (R17 to R26) -/

/-- CAP8 of an atoll (R26). -/
def cap8 (a : Atoll) (n : Nat) : W64 :=
  BitVec.ofNat 64 (16 * (members 48 a.clusters).length + (members 64 a.slices).length * 2 ^ 16
    + a.apch * 2 ^ 24 + (members 24 a.ports).length * 2 ^ 40 + n * 2 ^ 48)

/-- A capability word for a reading context; numbers above CAP8 read zero (R17). -/
def capability (s : State) (ctx n : Nat) : W64 :=
  match n with
  | 0 => 0x0030182004010000 ||| BitVec.ofNat 64 (s.sys.impl % 256 * 256 + s.sys.stepping % 256)
  | 8 => cap8 (s.atoll (s.ctx ctx).atoll) (s.ctx ctx).atoll
  | n => Config.cap n

/-! ### CSRR and CSRW (R382) -/

/-- ROWQ (R242), ROWPOL (R243), SCHEDST (R352), FRING (R372). -/
def Ctx.rowq (c : Ctx) : W64 := BitVec.ofNat 64 (c.rowqTotal + c.rowqPch * 256)
def Ctx.rowpol (c : Ctx) : W64 := (if c.rowSave then 1 else 0) ||| (if c.reopenFail then 0x100 else 0)
def Ctx.schedst (c : Ctx) : W64 :=
  BitVec.ofNat 64 (1 + (if c.sliceClamp then 2 else 0) + c.deadline % 2 ^ 16 * 2 ^ 16 + c.slice % 2 ^ 16 * 2 ^ 32)
def Ctx.fringWord (c : Ctx) : W64 := BitVec.ofNat 64 (c.fring + c.fsize)

/-- A context register or capability word by its number. -/
def ctxRead (s : State) (ctx n : Nat) : W64 :=
  let c := s.ctx ctx
  match n with
  | 0x100 => BitVec.ofNat 64 c.lease
  | 0x101 => c.rowq
  | 0x102 => c.rowpol
  | 0x103 => c.schedst
  | 0x104 => BitVec.ofNat 64 c.trapvec
  | 0x105 => c.fringWord
  | 0x106 => BitVec.ofNat 64 c.xroot
  | n =>
    if 0x180 ≤ n ∧ n ≤ 0x18B then tideRead s ctx (n - 0x180)
    else if 0xF00 ≤ n then capability s ctx (n - 0xF00) else 0

/-- FRING's fields from a written word (R372). -/
def Ctx.setFring (c : Ctx) (v : W64) : Ctx :=
  let z := field v 3 0
  { c with fring := field v 55 12 * 2 ^ 12, fsize := if 4 ≤ z ∧ z ≤ 12 then z else 4 }

/-- A write of a context register by its number. -/
def Ctx.csrWrite (c : Ctx) (n : Nat) (v : W64) : Ctx :=
  match n with
  | 0x100 => { c with lease := max 64 (min 4096 (field v 12 0)) }
  | 0x101 => { c with rowqTotal := min 64 (field v 6 0), rowqPch := min 8 (field v 11 8) }
  | 0x102 => { c with rowSave := has v.toNat 0, reopenFail := c.reopenFail && !has v.toNat 8 }
  | 0x104 => { c with trapvec := field v 55 3 * 8 }
  | 0x105 => c.setFring v
  | 0x106 => { c with xroot := field v 51 13 * 2 ^ 13 }
  | n => if 0x180 ≤ n ∧ n ≤ 0x18B then { c with tide := c.tide.write (n - 0x180) v } else c

/-! ### The Harbour block (R425) -/

/-- Who writes a register. -/
inductive Writer | harbour | host | lane
  deriving DecidableEq, Repr

/-- ADL of an atoll, as its fields (R427). -/
def Die.adlSlice (d : Die) (a : Nat) : Nat := (look 0 d.slice a + 1000) % 2 ^ 16
def Die.adlDeadline (d : Die) (a : Nat) : Nat := (look 0 d.deadline a + 100) % 2 ^ 16

/-- CLUPWR of a cluster (R413). -/
def Cluster.power (c : Cluster) : W64 :=
  BitVec.ofNat 64 (c.step % 16 + c.ratio % 4 * 2 ^ 8 + c.throt % 16 * 2 ^ 12 + (if c.stretch then 2 ^ 16 else 0)
    + (if c.gated then 2 ^ 17 else 0) + c.ballast % 16 * 2 ^ 20)

/-- FWSTAT (R428). -/
def Firmware.word (f : Firmware) : W64 :=
  BitVec.ofNat 64 (f.state % 8 + f.bank % 2 * 8 + (if f.pend then 16 else 0) + f.major % 256 * 2 ^ 8
    + f.minor % 256 * 2 ^ 16 + f.svn % 2 ^ 16 * 2 ^ 24 + f.arctr % 2 ^ 16 * 2 ^ 40)

/-- The PF's own rings and registers in die 0's block (R402, R403). -/
def pfRead (s : State) (off : Nat) : W64 :=
  let y := s.sys
  if off < 0x41000 then look 0 y.cmds ((off - 0x40000) / 8)
  else if off = 0x41000 then BitVec.ofNat 64 y.svcpi
  else if off = 0x41008 then BitVec.ofNat 64 y.svcci
  else if 0x42000 ≤ off ∧ off < 0x43000 then look 0 y.replies ((off - 0x42000) / 8)
  else if off = 0x43000 then BitVec.ofNat 64 y.svrpi
  else if off = 0x43008 then BitVec.ofNat 64 y.svrci
  else if 0x50000 ≤ off ∧ off < 0x50100 then
    if off % 16 = 0 then look 0 y.hrbase ((off - 0x50000) / 16) else look 0 y.hrlim ((off - 0x50000) / 16)
  else if 0x50100 ≤ off ∧ off < 0x50300 then look 0 y.fncfg ((off - 0x50100) / 8)
  else if 0x50400 ≤ off ∧ off < 0x50440 then look 0 y.atollmode ((off - 0x50400) / 8)
  else if 0x50500 ≤ off ∧ off < 0x50540 then
    let a := s.atoll ((off - 0x50500) / 8)
    if a.live then BitVec.ofNat 64 (2 ^ 63 + a.clusters) else 0
  else 0

/-- A read of the Harbour block of a die; an offset without a register reads zero. -/
def harbourRead (s : State) (d off : Nat) : W64 :=
  let h := s.die d
  if off % 8 ≠ 0 then 0
  else if off < 40 then BitVec.ofNat 64 (look 0 h.hpend (off / 8))
  else if 0x80 ≤ off ∧ off < 0xA8 then BitVec.ofNat 64 (look 0 h.htimer ((off - 0x80) / 8))
  else if off = 0x100 then h.fw.word
  else if 0x10000 ≤ off ∧ off < 0x10000 + 0x100 * 48 then
    let n := (off - 0x10000) / 0x100
    let c := s.cluster n
    if dieOfCluster n ≠ d then 0
    else
      match off % 0x100 with
      | 0x00 => c.power
      | 0x08 => BitVec.ofNat 64 c.stretchCnt
      | 0x10 => BitVec.ofNat 64 c.ballastCnt
      | _ => 0
  else if off = 0x20000 then BitVec.ofNat 64 (h.tlow + h.thot * 2 ^ 8 + h.tcrit * 2 ^ 16)
  else if 0x20100 ≤ off ∧ off < 0x20140 then
    let a := (off - 0x20100) / 8
    BitVec.ofNat 64 (h.adlDeadline a + h.adlSlice a * 2 ^ 32)
  else if off = 0x20200 then BitVec.ofNat 64 (h.kickto * 2 ^ 16 + h.saveto * 2 ^ 32)
  else if 0x30000 ≤ off ∧ off < 0x30000 + 0x100 * 64 then
    let id := off % 0x100 / 8
    if id ≤ 0x0B ∧ (s.ctx ((off - 0x30000) / 0x100)).live then tideRead s ((off - 0x30000) / 0x100) id else 0
  else if d = 0 ∧ 0x40000 ≤ off then pfRead s off
  else 0

/-- A write of TTHRESH, ignored as a whole unless its thresholds are in order (R427). -/
def Die.writeTthresh (d : Die) (v : W64) : Die :=
  let tlow := field v 7 0
  let thot := field v 15 8
  let tcrit := field v 23 16
  if tlow < thot ∧ thot < tcrit ∧ tcrit ≤ 115 then { d with tlow, thot, tcrit } else d

/-- A write of ADL of an atoll (R427). -/
def Die.writeAdl (d : Die) (a : Nat) (v : W64) : Die :=
  let slice := if field v 47 32 = 0 then 1000 else field v 47 32
  let deadline := max 10 (field v 15 0)
  { d with slice := put 0 d.slice a ((slice + 2 ^ 16 - 1000) % 2 ^ 16)
           deadline := put 0 d.deadline a ((deadline + 2 ^ 16 - 100) % 2 ^ 16) }

/-- ADL of an atoll is written on a die. It is die 0's, whose Harbour runs the commands, that the atoll's slices and
requests follow: its DEADLINE is that of the atoll's contexts for requests made from now on (R352, R427; log entry 15). -/
def writeAdlOf (s : State) (d a : Nat) (v : W64) : List Micro :=
  .die d (fun h => h.writeAdl a v)
    :: if d = 0 then
        (keysOf (s.ctxs.filter fun c => c.2.live && c.2.atoll == a)).map fun n =>
          .ctx n fun c => { c with deadline := max 10 (field v 15 0) }
      else []

/-- A write of HWDOG; KICK restarts the liveness timeout (R427). -/
def Die.writeHwdog (d : Die) (dt : Nat) (v : W64) : Die :=
  let d := { d with saveto := field v 47 32, kickto := field v 31 16 }
  if has v.toNat 0 then { d with kickAt := dt, kicked := false } else d

/-- An active context of an atoll exists. -/
def hasActive (s : State) (atoll : Nat) : Bool :=
  s.ctxs.any fun c => c.2.live && c.2.active && c.2.atoll == atoll

/-- The index `v` lies 1 to `n` above `base`, modulo 2^32 (R393). -/
def within (v base n : Nat) : Bool :=
  let d := (v % 2 ^ 32 + 2 ^ 32 - base) % 2 ^ 32
  decide (1 ≤ d) && decide (d ≤ n)

/-- A write of the command ring's producer index (R393, R403). -/
def Sys.writeSvcpi (y : Sys) (v : Nat) : Sys :=
  if within v y.svcpi 64 && within v y.svcci 64 then { y with svcpi := v % 2 ^ 32 } else y

/-- A write of the reply ring's consumer index, which lets waiting entries be posted (R406). -/
def Sys.writeSvrci (y : Sys) (v : Nat) : Sys :=
  if within v y.svrci ((y.svrpi + 2 ^ 32 - y.svrci) % 2 ^ 32) then
    let y := { y with svrci := v % 2 ^ 32 }
    y.drainReplies y.waiting
  else y

/-- The PF's registers that store what is written, reserved bits zero (R3, R402). -/
def pfWrite (s : State) (r : PfReg) (v : W64) : List Micro :=
  let page : W64 := 0x000FFFFFFFFFF000
  match r with
  | .hrbase i => [.sys fun y => { y with hrbase := if i < 16 then put 0 y.hrbase i (v &&& page) else y.hrbase }]
  | .hrlim i => [.sys fun y => { y with hrlim := if i < 16 then put 0 y.hrlim i (v &&& (page ||| 3)) else y.hrlim }]
  | .fncfg f =>
    [.sys fun y => { y with fncfg := if f < 64 then put 0 y.fncfg f (v &&& 0x000FFFF000000703) else y.fncfg }]
  | .atollmode a =>
    if a < 8 && !hasActive s a then [.sys fun y => { y with atollmode := put 0 y.atollmode a (v &&& 0x3F) }] else []
  | .adl d a => if d < 4 ∧ a < 8 then writeAdlOf s d a v else []
  | .svcpi => [.sys fun y => y.writeSvcpi v.toNat]

/-- A write of the Harbour block of a die (R425): registers take what their writers may write. -/
def harbourWrite (s : State) (w : Writer) (d off : Nat) (v : W64) : List Micro :=
  let har := w == .harbour
  let host := w == .host
  if off % 8 ≠ 0 then []
  else if off < 40 then
    if har then [.die d fun h => { h with hpend := put 0 h.hpend (off / 8) (without (look 0 h.hpend (off / 8)) (v.toNat % 256)) }] else []
  else if 0x80 ≤ off ∧ off < 0xA8 then
    if har then
      let i := (off - 0x80) / 8
      [.die d fun h => { h with htimer := put 0 h.htimer i v.toNat, rung := h.rung.filter (· != i) }]
    else []
  else if off = 0x20000 then if har || host then [.die d fun h => h.writeTthresh v] else []
  else if 0x20100 ≤ off ∧ off < 0x20140 then
    if har || host then writeAdlOf s d ((off - 0x20100) / 8) v else []
  else if off = 0x20200 then if har then [.die d fun h => h.writeHwdog (s.dtAt d) v] else []
  else if 0x30000 ≤ off ∧ off < 0x30000 + 0x100 * 64 then
    let id := off % 0x100 / 8
    let n := (off - 0x30000) / 0x100
    if har && decide (id ≤ 0x0B) && (s.ctx n).live then [.ctx n fun c => { c with tide := c.tide.write id v }] else []
  else if d ≠ 0 ∨ w == .lane then []
  else if 0x40000 ≤ off ∧ off < 0x41000 then [.sys fun y => { y with cmds := put 0 y.cmds ((off - 0x40000) / 8) v }]
  else if off = 0x41000 then [.sys fun y => y.writeSvcpi v.toNat]
  else if 0x42000 ≤ off ∧ off < 0x43000 then [.sys fun y => { y with replies := put 0 y.replies ((off - 0x42000) / 8) v }]
  else if off = 0x43008 then [.sys fun y => y.writeSvrci v.toNat]
  else if har then []
  else if 0x50000 ≤ off ∧ off < 0x50100 then
    pfWrite s (if off % 16 = 0 then .hrbase ((off - 0x50000) / 16) else .hrlim ((off - 0x50000) / 16)) v
  else if 0x50100 ≤ off ∧ off < 0x50300 then pfWrite s (.fncfg ((off - 0x50100) / 8)) v
  else if 0x50400 ≤ off ∧ off < 0x50440 then pfWrite s (.atollmode ((off - 0x50400) / 8)) v
  else []

/-- A read of device register space at a physical address (R175, R425). -/
def mmioRead (s : State) (pa : Nat) : W64 :=
  if harbourBase ≤ pa ∧ pa < harbourBase + 2 ^ 26 then
    harbourRead s ((pa - harbourBase) / 2 ^ 24) ((pa - harbourBase) % 2 ^ 24)
  else 0

/-- A write of device register space at a physical address (R175, R425). -/
def mmioWrite (s : State) (w : Writer) (pa : Nat) (v : W64) : List Micro :=
  if harbourBase ≤ pa ∧ pa < harbourBase + 2 ^ 26 then
    harbourWrite s w ((pa - harbourBase) / 2 ^ 24) ((pa - harbourBase) % 2 ^ 24) v
  else []

end Sys2Proof.Machine
end

