-- ==== Sys2Proof/Machine/Issue.lean ====
section
/-! DEFINITION. What every instruction goes through before it acts: decode traps, readiness, queue
pops, operands, the REP sequence, and the handling of a runahead episode (R6, R36 to R39, R50, R51,
R76, R84 to R86, R255 to R260, R279, R301). -/

namespace Sys2Proof.Machine

/-- What an instruction names, for the checks that all instructions share. -/
structure Shape where
  engines : List Engine := [.core]
  level   : Level := .kernel
  undef   : Bool := false       -- a decode condition of its own traps UNDEF
  g       : Nat := 0            -- the guard (R36)
  vsrc    : List Nat := []      -- vector source fields in pop order; they may name ports (R38)
  vmore   : List Nat := []      -- further vector registers read
  vdst    : List Nat := []      -- vector registers written
  ssrc    : List Nat := []
  sdst    : List Nat := []
  msrc    : List Nat := []
  mdst    : List Nat := []
  cls     : Cls := .none
  tensor  : Bool := false       -- a tensor operation: it does not await `vmore` (R300)
  wide    : Bool := false       -- a lane exchange: it reads its sources in every lane (R125)
  late    : Bool := false       -- a memory access: a lost scalar register traps after its addresses are judged (R6, R183)
  deriving DecidableEq, Repr

/-- How an instruction is handled in a runahead episode (R257, R258). -/
inductive Ahead
  | perform                                    -- performed, results valid or invalid
  | skip                                       -- not performed, destinations marked invalid; a trap or
                                               -- fault that its valid operands would bring ends the episode
  | stop                                       -- ends the episode
  | own (f : Issue → State → Option (List Phase))   -- its own handling; none ends the episode

/-! ### Ports and operands -/

/-- The warp's launch has an access slice (R38). -/
def hasPorts (s : State) (t : Thread) : Bool :=
  t.engine == .core && (s.thread (accessKey t.core t.slot)).live

/-- The port that a register number names. -/
def portOf (ports : Bool) (r : Nat) : Option Nat :=
  if ports && decide (1020 ≤ r) && decide (r ≤ 1023) then some (r - 1020) else none

/-- How many of the fields name port `p`. -/
def popsOf (ports : Bool) (fields : List Nat) (p : Nat) : Nat :=
  (fields.filter fun r => portOf ports r == some p).length

/-- A queue port of a thread. -/
def Thread.queue (t : Thread) (p : Nat) : List Entry := t.queues.getD p []

/-- The entry that field `i` pops: the oldest not taken by an earlier field (R38). -/
def popEntry (t : Thread) (ports : Bool) (fields : List Nat) (i : Nat) : Option Entry :=
  let r := fields.getD i 0
  match portOf ports r with
  | some p => (t.queue p)[popsOf ports (fields.take i) p]?
  | none => none

/-- Registers in use by Reef operations, as accumulators and as sources (R301). -/
def Thread.reefAcc (t : Thread) (r : Nat) : Bool := t.reefUse.any fun u => u.acc.contains r
def Thread.reefSrc (t : Thread) (r : Nat) : Bool := t.reefUse.any fun u => u.src.contains r

/-- The vector register is in use by a Reef operation (R301). -/
def Thread.inUse (t : Thread) (r : Nat) : Bool := t.reefAcc r || t.reefSrc r

/-- A vector register that an instruction reads in a lane: a free value where it is in use (R301). -/
def vreg (s : State) (iss : Issue) (r l : Nat) : W32 :=
  if (s.thread iss.thr).inUse r then (Config.freeValue (s.fresh + 64 * r + l)).setWidth 32
  else (sourceRegs s iss).getV r l

/-- The value of source field `i` in a lane: a popped entry or a register. -/
def operand (s : State) (iss : Issue) (sh : Shape) (i l : Nat) : W32 :=
  let t := s.thread iss.thr
  let r := sh.vsrc.getD i 0
  match popEntry t (hasPorts s t) sh.vsrc i with
  | some e => look 0 e.values l
  | none => vreg s iss r l

/-- A scalar operand. -/
def scalar (s : State) (iss : Issue) (n : Nat) : W64 := (sourceRegs s iss).getS n

/-- A mask operand. -/
def maskReg (s : State) (iss : Issue) (n : Nat) : W64 := (sourceRegs s iss).getM n

/-- `Active(g)` of an issue (R5, R36). -/
def active (s : State) (iss : Issue) (g : Nat) : Nat :=
  let t := s.thread iss.thr
  let m := iss.lanes &&& t.regs.em.toNat
  if g = 0 then m else m &&& (maskReg s iss g).toNat

/-- The lanes that an instruction acts for, ascending. -/
def activeLanes (s : State) (iss : Issue) (sh : Shape) : List Nat := lanesOf (active s iss sh.g)

/-! ### Decode traps (R51) -/

/-- The lowest register that fails R37 or R38. -/
def regFail (ports : Bool) (budget : Nat) (srcs dsts : List Nat) : Option Nat :=
  let high := fun r => decide (budget ≤ r) || decide (1023 < r)
  let bad := (srcs.filter fun r => (portOf ports r).isNone && high r)
    ++ dsts.filter fun r => (portOf ports r).isSome || high r
  bad.foldl (fun m r => match m with | none => some r | some x => some (min x r)) none

/-- The order of the privilege levels (R11). -/
def Level.rank : Level → Nat
  | .kernel => 0 | .steward => 1 | .handler => 2 | .harbour => 3

/-- The decode trap of an instruction, by rank UNDEF, PRIV, REGRANGE (R51). -/
def decodeTrap (s : State) (iss : Issue) (sh : Shape) : Option (Cause × W64) :=
  let t := s.thread iss.thr
  if !sh.engines.contains t.engine || sh.undef then some (.undef, 0)
  else if t.level.rank < sh.level.rank then some (.priv, 0)
  else if t.engine == .core then
    match regFail (hasPorts s t) t.budget sh.vsrc (sh.vmore ++ sh.vdst) with
    | some r => some (.regRange, BitVec.ofNat 64 r)
    | none => none
  else none

/-! ### Readiness (R76, R84, R279) -/

/-- Vector registers with a pending write. -/
def pendingV (s : State) (k : Nat) : List Nat :=
  (opsOf s k).flatMap fun o => o.2.dsts.filterMap fun d => match d with | .v r _ => some r | _ => none

/-- The destinations of an issue's thread that earlier instructions are still to write: the second instruction of
an fc does not await the first (R77). -/
def pendingDsts (s : State) (iss : Issue) : List Dst :=
  ((opsOf s iss.thr).filter fun o => !iss.second || decide (o.1 < iss.start)).flatMap fun o => o.2.dsts

/-- A vector register, or a scalar register, among destinations. -/
def awaitsV (ds : List Dst) (r : Nat) : Bool := ds.any fun d => match d with | .v x _ => x == r | _ => false
def awaitsS (ds : List Dst) (r : Nat) : Bool := ds.any fun d => match d with | .s x => x == r && r != 0 | _ => false

/-- What an instruction reads, as the registers that a thread awaits (R76). -/
def dueReads (sh : Shape) : List Nat :=
  sh.vsrc ++ (if sh.tensor then [] else sh.vmore) ++ sh.ssrc.map dueS
    ++ (if sh.g = 0 then sh.msrc else sh.g :: sh.msrc).map dueM

/-- The results that an instruction reads are there, and its lanes may issue. What the second instruction of an
fc awaits was there when the fc chose it (R77). -/
def resultsThere (s : State) (iss : Issue) (sh : Shape) : Bool :=
  let t := s.thread iss.thr
  iss.second || (!t.owed (dueReads sh) (if sh.wide then 2 ^ 64 - 1 else iss.lanes) (tickOf s t)
    && !t.owed [dueIssue] iss.lanes (tickOf s t))

/-- What an instruction writes is there `iss.lat` fc after the one in which it issues (R108, R118, R154). -/
def oweResults (s : State) (iss : Issue) (sh : Shape) : List Micro :=
  let now := tickOf s (s.thread iss.thr)
  if active s iss sh.g = 0 || sh.cls != .none then [] else
    [.thread iss.thr fun t =>
      (t.owe sh.vdst (active s iss sh.g) now (now + iss.lat)).owe ((sh.sdst.filter (· != 0)).map dueS ++ sh.mdst.map dueM)
        (2 ^ 64 - 1) now (now + iss.lat)]

/-- At lane ratio ½ the lanes that begin an instruction begin none in the next fc (R118). -/
def beginRest (s : State) (iss : Issue) : List Micro :=
  let t := s.thread iss.thr
  if t.engine == .core && (s.cluster t.cluster).ratio == 0 then [.thread iss.thr fun t => t.rest s iss.lanes 2] else []

/-- The pace of what follows an issue. -/
def pace (s : State) (iss : Issue) (sh : Shape) : List Micro := oweResults s iss sh ++ beginRest s iss

/-- A counter of a class is at its limit. -/
def counterFull (t : Thread) (cls : Cls) : Bool :=
  match cls with
  | .l => decide (63 ≤ t.cntL)
  | .s => decide (63 ≤ t.cntS)
  | .c => decide (63 ≤ t.cntC)
  | .t => decide (63 ≤ t.cntT)
  | .q | .none => false

/-- The entries that an instruction pops are filled. -/
def popsFilled (s : State) (t : Thread) (fields : List Nat) : Bool :=
  (List.range 4).all fun p =>
    let n := popsOf (hasPorts s t) fields p
    decide (n ≤ (t.queue p).length) && ((t.queue p).take n).all fun e => e.filled

/-- The port on which a pop underruns: its access thread has ended and it holds too few entries
(R279). -/
def underrun (s : State) (t : Thread) (fields : List Nat) : Option Nat :=
  if (s.thread (accessKey t.core t.slot)).ended then
    (List.range 4).find? fun p => decide ((t.queue p).length < popsOf (hasPorts s t) fields p)
  else none

/-- Sources and destinations are free of pending writes. -/
def operandsFree (s : State) (iss : Issue) (sh : Shape) : Bool :=
  let ds := pendingDsts s iss
  ((sh.vsrc ++ (if sh.tensor then [] else sh.vmore) ++ sh.vdst).all fun r => !awaitsV ds r)
    && ((sh.ssrc ++ sh.sdst).all fun r => !awaitsS ds r)

/-- An instruction may issue: its results awaited are there, no write to its registers is pending, its counter is
below the limit, its pops are filled. -/
def isReady (s : State) (iss : Issue) (sh : Shape) : Bool :=
  let t := s.thread iss.thr
  resultsThere s iss sh
    && (t.episode.isSome || (operandsFree s iss sh && !counterFull t sh.cls && popsFilled s t sh.vsrc))

/-! ### Moving on -/

/-- The lanes that completed the instruction move on; within a sequence they stay for its next
execution (R85). -/
def Thread.moveOn (pc : Addr) (mask bytes : Nat) (t : Thread) : Thread :=
  match t.seq with
  | some q =>
    if q.pc = pc ∧ !q.paused then
      if q.next + 1 < q.count then
        { (t.updLanes mask fun l => { l with hold := .none, rewritten := false }) with
          seq := some { q with next := q.next + 1 } }
      else { t.updLanes mask (Lane.advance bytes) with seq := none, repcnt := 0 }
    else t.updLanes mask (Lane.advance bytes)
  | none => t.updLanes mask (Lane.advance bytes)

/-- The whole group moves on. -/
def moveOn (iss : Issue) (bytes : Nat := 8) : Micro :=
  .thread iss.thr fun t => t.moveOn iss.pc iss.lanes bytes

/-- Lanes of the group move on. -/
def moveLanes (iss : Issue) (mask : Nat) : Micro :=
  if mask = 0 then .fresh 0 else .thread iss.thr fun t => t.moveOn iss.pc mask 8

/-! ### Effects that many instructions share -/

/-- Removes popped entries from the ports (R38, R278); an execution that no lane performs pops nothing
(R86). -/
def pops (s : State) (iss : Issue) (sh : Shape) : List Micro :=
  let t := s.thread iss.thr
  let ports := hasPorts s t
  let again := match t.seq with | some q => q.paused && q.pc == iss.pc | none => false
  if t.episode.isSome || again || sh.vsrc.all fun r => (portOf ports r).isNone then []
  else [.thread iss.thr fun t =>
    { t with queues := (List.range 4).map fun p => (t.queue p).drop (popsOf ports sh.vsrc p) }]

/-- Free values that the reads of an instruction may have used are used up. -/
def spend (s : State) (iss : Issue) : List Micro :=
  if (s.thread iss.thr).reefUse.isEmpty then [] else [.fresh (2 ^ 18)]

/-- Raises the class counter by one (R84). -/
def Thread.bumpCounter (cls : Cls) (t : Thread) : Thread :=
  match cls with
  | .l => { t with cntL := t.cntL + 1 }
  | .s => { t with cntS := t.cntS + 1 }
  | .c => { t with cntC := t.cntC + 1 }
  | .t => { t with cntT := t.cntT + 1 }
  | .q | .none => t

/-- Lowers the class counter by one (R84). -/
def Thread.dropCounter (cls : Cls) (t : Thread) : Thread :=
  match cls with
  | .l => { t with cntL := t.cntL - 1 }
  | .s => { t with cntS := t.cntS - 1 }
  | .c => { t with cntC := t.cntC - 1 }
  | .t => { t with cntT := t.cntT - 1 }
  | .q | .none => t

/-- Writes lanes of a vector register. A register in use by a Reef operation takes free values (R301). The
write stays pending for the Reef array until an `RFENCE` (R300). -/
def writeVec (s : State) (iss : Issue) (d : Nat) (vals : List (Nat × W32)) : List Micro :=
  let t := s.thread iss.thr
  let vals := if t.inUse d then vals.map fun e => (e.1, (Config.freeValue (s.fresh + 2 ^ 16 + 64 * d + e.1)).setWidth 32) else vals
  [.thread iss.thr fun t =>
    { (t.updRegs (fun r => r.setLanes d vals)).heal (vals.map fun e => 64 * d + e.1) with
      vpend := if vals.isEmpty then t.vpend else insertOnce d t.vpend }]

/-- Registers take free values in every lane. -/
def loseRegs (base : Nat) (regs : List Nat) (t : Thread) : Thread :=
  t.updRegs fun r => regs.foldl (fun r d =>
    r.setLanes d ((List.range 64).map fun l => (l, (Config.freeValue (base + 64 * d + l)).setWidth 32))) r

/-- What writing registers does to the Reef operations whose registers they are (R301): a source makes every
accumulator undefined, an accumulator only itself. -/
def touchReef (s : State) (k : Nat) (regs : List Nat) : List Micro :=
  (s.thread k).reefUse.flatMap fun u =>
    let running := (s.op u.op).live && (s.op u.op).reef.isSome
    let hit := regs.filter u.acc.contains
    if regs.any u.src.contains then
      if running then [.op u.op fun o => { o with reef := o.reef.map fun (r : ReefOp) => { r with clash := true } }]
      else [.thread k (loseRegs (s.fresh + 2 ^ 17) u.acc)]
    else if running && !hit.isEmpty then
      [.op u.op fun o => { o with reef := o.reef.map fun (r : ReefOp) => { r with spoilt := hit ++ r.spoilt } }]
    else []

/-- What an instruction other than a tensor operation does to Reef operations. -/
def touchedReef (s : State) (iss : Issue) (sh : Shape) : List Micro :=
  if sh.tensor || sh.vdst.isEmpty || active s iss sh.g == 0 then [] else touchReef s iss.thr sh.vdst

/-- A source field's value in a lane is marked poisoned, or its register is lost to an uncorrectable
error (R279, R379). -/
def poisonedField (s : State) (iss : Issue) (sh : Shape) (i l : Nat) : Bool :=
  let t := s.thread iss.thr
  match popEntry t (hasPorts s t) sh.vsrc i with
  | some e => has e.poison l
  | none => t.lostAt (sh.vsrc.getD i 0) l

/-- A lane's operands include such a value. -/
def poisonedLane (s : State) (iss : Issue) (sh : Shape) (l : Nat) : Bool :=
  ((List.range sh.vsrc.length).any fun i => poisonedField s iss sh i l)
    || sh.vmore.any fun r => (s.thread iss.thr).lostAt r l

/-- The poison verdicts of the active lanes. -/
def poisonVerdicts (s : State) (iss : Issue) (sh : Shape) : List (Nat × Bad) :=
  (activeLanes s iss sh).filterMap fun l => if poisonedLane s iss sh l then some (l, .trap .poison 0) else none

/-- Lanes of a group that are to perform an instruction when some are struck: none in a sequence
(R86), else the others. -/
def spared (s : State) (iss : Issue) (vs : List (Nat × Bad)) : Nat :=
  if vs.isEmpty then iss.lanes
  else if inSequence (s.thread iss.thr) iss.pc then 0
  else without iss.lanes (setOf (vs.map Prod.fst))

/-! ### Runahead episodes (R255 to R259) -/

/-- Vector registers at the exit: live groups restored for the lanes of the episode, their other
groups free values, other lanes as they are (R31, R259). -/
def restoredV (s : State) (t : Thread) (e : Episode) : Sparse W32 :=
  (List.range (64 * t.budget)).filterMap fun key =>
    let x : W32 :=
      if !has e.lanesIn (key % 64) then look 0 t.regs.v key
      else if has e.groups (key / 64 / 32) then look 0 e.shadow.v key
      else (Config.freeValue (s.fresh + key)).setWidth 32
    if x = 0 then none else some (key, x)

/-- The lanes at the exit: those of the episode stand again where they stopped. -/
def restoredLanes (t : Thread) (e : Episode) : Sparse Lane :=
  (members t.width e.lanesIn).foldl (fun m l =>
    let now : Lane := look {} m l
    let was : Lane := look {} e.shadow.lanes l
    put {} m l { was with starve := now.starve, excluded := now.excluded }) t.regs.lanes

/-- A field of one byte or less taken from a number that arrives bit by bit. -/
def bitsOf (bytes : Sparse Byte) (bit width : Nat) : Nat :=
  let first := bit / 8
  let n := (bit + width - 1) / 8 - first + 1
  let raw := (List.range n).foldl (fun a i => a + (look 0 bytes (first + i)).toNat * 256 ^ i) 0
  raw / 2 ^ (bit % 8) % 2 ^ width

/-- The value of one element from the bytes that have arrived (R187, R189, R109); `SYNCRD` with sel = 1
puts bits 127:96 of the word above its TARGET (R276). -/
def elemValue (o : Op) (e : Elem) : W64 :=
  let x := if o.sync = some 1 then bitsOf o.bytes e.bit 32 + bitsOf o.bytes (e.bit + 96) 32 * 2 ^ 32
    else bitsOf o.bytes e.bit e.width
  if e.sext then (BitVec.ofNat e.width x).signExtend 64 else BitVec.ofNat 64 x

/-- A destination belongs to a lane whose data was poisoned where it was performed: it is not written (R183). -/
def Op.spoils (o : Op) (d : Dst) : Bool :=
  match d with
  | .v _ l => o.struck.any fun x => x.1 == l
  | .s _ => !o.struck.isEmpty
  | .q _ _ _ => false

/-- Everything that an operation writes into registers. -/
def resultsOf (o : Op) : List (Dst × W64) :=
  (o.elems.map (fun e => (e.dst, elemValue o e)) ++ o.outs).filter fun r => !o.spoils r.1

/-! ### Poison that an access meets where it is performed (R183; log entry 17) -/

/-- The lanes of a thread that can trap for an access issued before: those that run, ascending. -/
def lateLanes (t : Thread) (o : Op) : List (Nat × Nat) :=
  (lanesOf (t.laneSet fun l => l.state == .running)).filterMap fun l => o.struck.find? fun x => x.1 == l

/-- The other lanes' destinations are lost: the instruction that reads one traps POISON (R379). -/
def lateLost (t : Thread) (o : Op) : List Nat :=
  let run := t.laneSet fun l => l.state == .running
  o.dsts.filterMap fun d =>
    if !o.spoils d then none
    else match d with
      | .v r l => if has run l then none else some (64 * r + l)
      | .s r => if (lateLanes t o).isEmpty && r != 0 then some (65536 + r) else none
      | .q _ _ _ => none

/-- The lanes whose data was poisoned trap POISON for the instruction that read it. -/
def strikeLate (k id : Nat) : Phase := fun s =>
  let o := s.op id
  let t := s.thread k
  if o.struck.isEmpty || !t.live then []
  else
    let here := lateLanes t o
    let vs := here.map fun x => (x.1, Bad.trap .poison (BitVec.ofNat 64 x.2))
    let lost := lateLost t o
    (match t.seq with
      | some q =>
        if !q.paused && (q.lanes &&& setOf (here.map Prod.fst)) != 0 then strike s k q.pc q.lanes vs else strike s k o.pc 0 vs
      | none => strike s k o.pc 0 vs)
      ++ (if lost.isEmpty then [] else [.thread k fun t => { t with lost := lost ++ t.lost }])

/-- Writes results into a thread's registers; a register in use takes free values (R301). -/
def Thread.land (t : Thread) (base : Nat) (rs : List (Dst × W64)) : Thread :=
  rs.foldl (fun t r =>
    match r.1 with
    | .v d l => (t.updRegs fun g =>
        g.setV d l ((if t.inUse d then Config.freeValue (base + 64 * d + l) else r.2).setWidth 32)).heal [64 * d + l]
    | .s d => (t.updRegs fun g => g.setS d r.2).heal [65536 + d]
    | .q _ _ _ => t) t

/-- Where the checkpoint buffer was struck, every lane that ran traps POISON at its stalled instruction (R379). -/
def restoredBlows (e : Episode) : List Blow :=
  let at_ := fun l => (look ({} : Lane) e.shadow.lanes l).pc
  let pcs := distinct ((lanesOf e.lanesIn).map fun l => (at_ l).toNat)
  pcs.flatMap fun a =>
    blowsOf (BitVec.ofNat 56 a) (((lanesOf e.lanesIn).filter fun l => (at_ l).toNat == a).map fun l => (l, .trap .poison 0))

/-- The blows for the poisoned data of loads held through an episode; each lane takes the first. -/
def heldBlows (t : Thread) : Nat → List Op → List Blow
  | _, [] => []
  | taken, o :: os =>
    let mine := (lateLanes t o).filter fun x => !has taken x.1
    blowsOf o.pc (mine.map fun x => (x.1, .trap .poison (BitVec.ofNat 64 x.2)))
      ++ heldBlows t (taken ||| setOf (mine.map Prod.fst)) os

/-- The B checkpoint bytes of R255 (R263). -/
def checkpointBytes (width groups : Nat) : Nat := width * 32 * (members 32 groups).length * 4

/-- The fc that an entry into an episode and an exit from it take (R263). -/
def checkpointFc (width groups : Nat) : Nat := 2 + (checkpointBytes width groups + 4095) / 4096

/-- Ends a warp's episode: checkpoint and shadow restored, invalid marks cleared, the data of the loads
that arrived meanwhile written, the buffer freed (R259). -/
def exitEpisode (k : Nat) : Phase := fun s =>
  let t := s.thread k
  match t.episode with
  | none => []
  | some e =>
    let ops := e.held.map s.op
    let restored : Thread := { t with regs := { e.shadow with v := restoredV s t e, lanes := restoredLanes t e }, episode := none, seq := none }
    let blows := if e.lost then restoredBlows e else heldBlows restored 0 ops
    let lost := ops.flatMap (lateLost restored)
    [.thread k fun t =>
      let regs : Regs := { e.shadow with v := restoredV s t e, lanes := restoredLanes t e }
      let t : Thread := { t with regs, episode := none, seq := none, lost := lost ++ t.lost }
      (t.land (s.fresh + 2 ^ 16) (ops.flatMap resultsOf)).rest s (2 ^ 64 - 1) (checkpointFc t.width e.groups),
     .core t.core fun c => { c with ckpt := none },
     .fresh (2 ^ 17)]
    ++ (e.held.map fun id => Micro.op id fun _ => {})
    ++ (if blows.isEmpty then [] else .bump blows.length :: takeBlows s k s.fl.next 0 0 none blows)

/-- Invalid sources of an instruction in an episode; a port gives an invalid value (R257). -/
def aheadInvalid (s : State) (t : Thread) (e : Episode) (sh : Shape) (l : Nat) : Bool :=
  let ports := hasPorts s t
  (sh.vsrc.any fun r => (portOf ports r).isSome || e.badV.contains (64 * r + l))
    || (sh.vmore.any fun r => e.badV.contains (64 * r + l))
    || (sh.ssrc.any fun r => e.badS.contains r)
    || (sh.msrc.any fun r => (List.range 64).any fun l => e.badM.contains (64 * r + l))
    || (sh.g != 0 && e.badM.contains (64 * sh.g + l))

/-- Marks or unmarks a register. -/
def mark (bad : Bool) (x : Nat) (l : List Nat) : List Nat := if bad then insertOnce x l else l.filter (· != x)

/-- The lanes in which an instruction's destination is marked: those of Active(g), and those whose guard bit is
invalid, active or not (log entry 94). -/
def markedLanes (s : State) (iss : Issue) (sh : Shape) (e : Episode) : List Nat :=
  let acting := activeLanes s iss sh
  let unsure := if sh.g = 0 then [] else (lanesOf iss.lanes).filter fun l => e.badM.contains (64 * sh.g + l)
  acting ++ unsure.filter fun l => !acting.contains l

/-- Marks an instruction's destinations: all invalid, or by the validity of its sources (R257). -/
def aheadMarks (s : State) (iss : Issue) (sh : Shape) (all : Bool) : Micro :=
  let t := s.thread iss.thr
  match t.episode with
  | none => .fresh 0
  | some e =>
    let bad := fun l => all || aheadInvalid s t e sh l
    let lanes := markedLanes s iss sh e
    let any := bad 0 || lanes.any bad
    let badV := sh.vdst.foldl (fun acc r => lanes.foldl (fun acc l => mark (bad l) (64 * r + l) acc) acc) e.badV
    let badS := sh.sdst.foldl (fun acc r => if r = 0 then acc else mark any r acc) e.badS
    let badM := sh.mdst.foldl (fun acc r =>
      if sh.vsrc.isEmpty then (List.range 64).foldl (fun acc l => mark any (64 * r + l) acc) acc
      else lanes.foldl (fun acc l => mark (bad l) (64 * r + l) acc) acc) e.badM
    .thread iss.thr fun t =>
      { t with episode := t.episode.map fun (e : Episode) => { e with badV, badS, badM } }

/-- Some lane of the thread is struck in `s'` that was not in `s`. -/
def newlyStruck (s s' : State) (k : Nat) : Bool :=
  let struck := fun (t : Thread) => t.laneSet fun l => match l.state with
    | .running => false
    | _ => true
  without (struck (s'.thread k)) (struck (s.thread k)) != 0

/-- One issue in an episode is counted; the 512th ends it (R259). -/
def countAhead (k : Nat) : Micro :=
  .thread k fun t =>
    { t with rainsts := min (2 ^ 32 - 1) (t.rainsts + 1)
             episode := t.episode.map fun (e : Episode) => { e with issued := e.issued + 1 } }

/-- The episode has issued all that it may. -/
def aheadFull (s : State) (k : Nat) : Bool :=
  match (s.thread k).episode with
  | some e => decide (512 ≤ e.issued)
  | none => false

/-- An instruction of an episode: what would trap, park or hold a lane ends the episode instead. -/
def stepAhead (iss : Issue) (sh : Shape) (a : Ahead) (body : Issue → State → List Phase) (s : State) : State :=
  let k := iss.thr
  let finish := fun (s' : State) => if aheadFull s' k then run [exitEpisode k] s' else s'
  match a with
  | .stop => run [exitEpisode k] s
  | .skip =>
    let e : Episode := (s.thread k).episode.getD {}
    let sure := setOf ((lanesOf iss.lanes).filter fun l => !aheadInvalid s (s.thread k) e sh l)
    let would := if sure = 0 then s else run (body { iss with lanes := sure } s) s
    if newlyStruck s would k then run [exitEpisode k] s
    else
      let s' := runThread k [fun s => [aheadMarks s iss sh true, countAhead k, moveOn iss] ++ beginRest s iss] s
      if newlyStruck s s' k then run [exitEpisode k] s else finish s'
  | .perform =>
    let s' := runThread k (andThen (body iss s) fun _ => aheadMarks s iss sh false :: countAhead k :: pace s iss sh) s
    if newlyStruck s s' k then run [exitEpisode k] s else finish s'
  | .own f =>
    match f iss s with
    | none => run [exitEpisode k] s
    | some ps =>
      let s' := runThread k (andThen ps fun _ => countAhead k :: pace s iss sh) s
      if newlyStruck s s' k then run [exitEpisode k] s else finish s'

/-! ### The life of an issue -/

/-- The events that an issue counts (R386). -/
def countIssue (s : State) (iss : Issue) (sh : Shape) : List Micro :=
  let t := s.thread iss.thr
  if t.engine == .core then
    count s t.ctx 0x02 1 t.launch ++ count s t.ctx 0x03 (popcount (active s iss sh.g)) t.launch
  else []

/-- What follows an instruction's own effect: its pops, what its writes do to Reef operations, the free values used
up, and the results that are still to come. -/
def follows (s : State) (iss : Issue) (sh : Shape) : List Micro :=
  pops s iss sh ++ touchedReef s iss sh ++ spend s iss ++ pace s iss sh

/-- The issue in hand is taken: an instruction that was not ready leaves it. -/
def taken (s : State) : State := { s with cur := none }

/-- A scalar source of the group's active lanes is lost to an uncorrectable error (R379), where no later rule of the
instruction takes the loss over. -/
def spoilt (s : State) (iss : Issue) (sh : Shape) : Bool :=
  !sh.late && active s iss sh.g != 0 && sh.ssrc.any (s.thread iss.thr).lostScalar

/-- The state after an issue: nothing for an instruction that is not ready; a decode trap or an
underrun for the whole group; else what the instruction does, and what follows. Where `first` holds, the issue
only brings its group to the fence that comes before it (R212): nothing is popped or counted yet. -/
def afterIssue (sh : Shape) (ready : Issue → State → Bool) (a : Ahead) (body : Issue → State → List Phase)
    (first : Issue → State → Bool) (s : State) : State :=
  match s.cur with
  | none => s
  | some iss =>
    let t := s.thread iss.thr
    let trap := fun c d => if t.episode.isSome then run [exitEpisode iss.thr] s
      else runThread iss.thr [fun s => trapGroup s iss c d] s
    match decodeTrap s iss sh with
    | some (c, d) => taken (trap c d)
    | none =>
      if t.episode.isSome then
        if !resultsThere s iss sh then s
        else taken (if spoilt s iss sh then run [exitEpisode iss.thr] s else stepAhead iss sh a body s)
      else
        match underrun s t sh.vsrc with
        | some p => taken (trap .qUnder (BitVec.ofNat 64 p))
        | none =>
          if isReady s iss sh && ready iss s then
            if spoilt s iss sh then taken (trap .poison 0) else
            if first iss s then taken (runThread iss.thr (body iss s) s) else
            taken (runThread iss.thr (andThen ((fun s => countIssue s iss sh) :: body iss s) fun _ => follows s iss sh) s)
          else s

/-- An instruction's meaning from its parts. -/
def issue (sh : Shape) (body : Issue → State → List Phase) (a : Ahead := .perform)
    (ready : Issue → State → Bool := fun _ _ => true) (s : State) (first : Issue → State → Bool := fun _ _ => false) :
    Host.Outcome State Fault Refusal :=
  .next (afterIssue sh ready a body first s)

/-- An instruction is about to have its own effect: no decode trap, no episode, no underrun, ready. -/
def runsNow (sh : Shape) (ready : Issue → State → Bool) (iss : Issue) (s : State) : Prop :=
  s.cur = some iss ∧ decodeTrap s iss sh = none ∧ (s.thread iss.thr).episode = none
    ∧ underrun s (s.thread iss.thr) sh.vsrc = none ∧ isReady s iss sh = true ∧ ready iss s = true
    ∧ spoilt s iss sh = false

end Sys2Proof.Machine
end

