-- ==== Sys2Proof/Machine/Access.lean ====
section
/-! DEFINITION. How accesses are judged and sent: lane addresses and their checks, units, L1 hits,
requests, the fences that an access performs, and what an episode makes of a load (R44, R172 to R185,
R204, R209 to R217, R257). -/

namespace Sys2Proof.Machine

/-! ### Elements -/

/-- One element that a lane reads or writes: its register, the bit address of its low bit, its width,
and the value that a store writes. -/
structure Piece1 where
  lane  : Nat
  dst   : Dst
  bit   : Nat
  width : Nat
  value : Nat := 0
  sext  : Bool := false
  deriving DecidableEq, Repr

/-- The bytes that an element touches: first address and count. -/
def Piece1.span (p : Piece1) : Nat × Nat := (p.bit / 8, (p.bit + p.width - 1) / 8 - p.bit / 8 + 1)

/-- The access of one lane: its address for alignment and records, its elements, and whether a register or entry that
it reads is poisoned (R279, R379). -/
structure LaneAccess where
  lane   : Nat
  addr   : Nat
  pieces : List Piece1
  bad    : Bool := false
  deriving DecidableEq, Repr

/-- What the checks of R183 need to know of an instruction. -/
structure Rules where
  align   : Nat := 1
  access  : Access := .read
  allowed : Space → Bool := fun _ => true
  line    : Bool := false            -- the aligned 256-byte line is accessed (DISC)

/-! ### Checks (R172, R183) -/

/-- The first and the last byte of a range, modulo 2^56. -/
def ends (r : Nat × Nat) : List Nat := [r.1 % 2 ^ 56, (r.1 + r.2 - 1) % 2 ^ 56]

/-- The ranges of a lane's access. -/
def LaneAccess.ranges (a : LaneAccess) (line : Bool) : List (Nat × Nat) :=
  if line then [(a.addr / 256 * 256, 256)] else a.pieces.map Piece1.span

/-- The map unit's view of a byte: its region's granule is not filled yet; gives the workgroup, the
region, the granule and the global address that fills it (R176). -/
def unfilled (s : State) (va : Nat) : Option (Nat × Nat × Nat × Nat) :=
  if inLagoon va then
    let key := lagoonKey (lagoonCluster va) (va % 2 ^ 24)
    match regionAt s key with
    | some (w, i, r) =>
      let g := (va % 2 ^ 24 - r.lagoon % 2 ^ 24) / 65536
      if r.filled.contains g then none else some (w, i, g, r.global + g * 65536)
    | none => none
  else none

/-- The map unit's view of a workgroup. -/
def mapUnit (s : State) (w : Nat) : Who :=
  let g := s.wg w
  { ctx := g.ctx, cluster := clusterOf g.core, die := dieOf g.core, launch := g.launch }

/-- The verdict of the map unit on a byte: the fault or the MEMTYPE of the granule's global page, which it translates
in the region's context (R176, R178). -/
def fillVerdict (s : State) (va : Nat) : Option Bad :=
  match unfilled s va with
  | none => none
  | some (w, _, _, src) =>
    match translate s (mapUnit s w) .read src with
    | .error m => some (.miss { m with region := true, of_ := some (s.wg w).ctx })
    | .ok p => if p.space == .mmio then some (.trap .memType (BitVec.ofNat 64 va)) else none

/-- The addresses, 8 bytes apart, that between them lie in every unit of a range. -/
def samples (r : Nat × Nat) : List Nat :=
  (List.range ((r.2 + 7) / 8)).map (fun i => r.1 + 8 * i) ++ [r.1 + r.2 - 1]

/-! ### Units (R175, R181) -/

/-- One single-copy atomic unit of an access. -/
structure UnitAt where
  space : Space
  va    : Nat        -- of its first byte
  key   : Nat
  size  : Nat
  canW  : Bool
  deriving DecidableEq, Repr

/-- The unit that holds an address. -/
def unitAt (s : State) (who : Who) (a : Access) (va : Nat) : Option UnitAt :=
  match translate s who a va with
  | .error _ => none
  | .ok p =>
    let z := unitOf p.space
    some { space := p.space, va := va % 2 ^ 56 / z * z, key := p.key - va % z, size := z, canW := p.canW }

/-- Keeps the first of equal units. -/
def distinctUnits : List UnitAt → List UnitAt
  | [] => []
  | u :: us => u :: (distinctUnits us).filter fun v => v.va != u.va

/-- The units of the lanes' accesses, each once. -/
def unitsOf (s : State) (who : Who) (r : Rules) (as : List LaneAccess) : List UnitAt :=
  distinctUnits (as.flatMap fun a =>
    (a.ranges r.line).flatMap fun g => (samples g).filterMap (unitAt s who r.access))

/-- Shifts a number up by a signed count of bits. -/
def shiftBits (x : Nat) (by_ : Int) : Nat :=
  if 0 ≤ by_ then x * 2 ^ by_.toNat else x / 2 ^ (-by_).toNat

/-- Bits and data that elements write into one unit; where two write the same bit, the later stands
(R181, R189). -/
def unitData (u : UnitAt) (ps : List Piece1) : Nat × Nat :=
  ps.foldl (fun md p =>
    let up : Int := (p.bit : Int) - 8 * u.va
    let m := shiftBits (2 ^ p.width - 1) up % 2 ^ (8 * u.size)
    let d := shiftBits (p.value % 2 ^ p.width) up % 2 ^ (8 * u.size)
    (md.1 ||| m, without md.2 m ||| (d &&& m))) (0, 0)

/-! ### L1 (R180, R204, R216) -/

/-- An L1 sector of a core serves a load of its context at this address: present and unexpired, and no
miss of the same warp on its line is outstanding (R180, R216). -/
def l1Serves (s : State) (t : Thread) (k : Nat) (u : UnitAt) : Bool :=
  let e : Sector := look {} s.ca.l1 (l1Key t.core t.ctx u.va)
  t.engine != .scc && t.engine != .harbour && u.space == .dev && e.live && decide (dtOf s t < e.expiry)
    && !s.fl.reqs.any fun r => r.2.thr == k && r.2.kind == .load && !r.2.done && r.2.va / 256 == u.va / 256

/-! ### The verdict of a lane (R183) -/

/-- A load of a thread would be performed on a unit at once: no earlier request of the thread to the unit is on its
way, and no store or discard of its core to the DEV line (R216, R217). -/
def nothingBefore (s : State) (k : Nat) (u : UnitAt) : Bool :=
  let t := s.thread k
  !s.fl.reqs.any fun r => r.2.live && !r.2.done && r.2.space == u.space
    && ((r.2.thr == k && r.2.key / unitOf u.space == u.key / unitOf u.space)
      || (u.space == .dev && t.cluster < 48 && r.2.core == t.core && r.2.ctx == t.ctx && r.2.va / 256 == u.va / 256
          && (r.2.kind == .store || r.2.kind == .discard)))

/-- A load of a thread that is issued now consumes poisoned data (R183): an L1 copy is clean, and what has first to
await an earlier access is judged where it is performed (log entry 17). -/
def consumesPoison (s : State) (k : Nat) (u : UnitAt) : Bool :=
  poisoned s u.space (forward s u.space u.key) u.size && !l1Serves s (s.thread k) k u && nothingBefore s k u

/-- The verdict of one lane by R183, in rank order; `none` lets it perform. `reader` is the thread of an access that
reads data. -/
def judge (s : State) (who : Who) (r : Rules) (reader : Option Nat) (a : LaneAccess) : Option Bad :=
  let detail := BitVec.ofNat 64 a.addr
  let bytes := (a.ranges r.line).flatMap ends
  if a.addr % r.align ≠ 0 then some (.trap .align detail)
  else if bytes.any fun b => inLagoon b && !who.phys && !lagoonOk s who.ctx b then some (.trap .badAddr detail)
  else
    match bytes.findSome? fun b => match translate s who r.access b with | .error m => some m | .ok _ => none with
    | some m => some (.miss m)
    | none =>
      match bytes.findSome? (fillVerdict s) with
      | some b => some b
      | none =>
        let places := bytes.filterMap fun b => (translate s who r.access b).toOption
        if places.any fun p => !r.allowed p.space then some (.trap .memType detail)
        else if a.bad then some (.trap .poison 0)
        else match reader with
          | some k => if (unitsOf s who r [a]).any (consumesPoison s k) then some (.trap .poison detail) else none
          | none => none

/-- The verdicts of the lanes that cannot perform. -/
def verdicts (s : State) (who : Who) (r : Rules) (reader : Option Nat) (as : List LaneAccess) : List (Nat × Bad) :=
  as.filterMap fun a => (judge s who r reader a).map fun b => (a.lane, b)

/-- Some lane that may perform touches a granule that must be filled first (R176). -/
def awaitsFill (s : State) (who : Who) (r : Rules) (as : List LaneAccess) : Bool :=
  as.any fun a => (judge s who r none a).isNone
    && ((a.ranges r.line).flatMap ends).any fun b => (unfilled s b).isSome

/-! ### L1 data and miss-status entries (R179, R180, R217) -/

/-- The bytes of a unit in a core's L1, by virtual address. -/
def l1Bytes (s : State) (t : Thread) (u : UnitAt) : List (Nat × Byte) :=
  (List.range u.size).map fun i => (u.va + i, look 0 s.ca.l1data (l1Byte t.core t.ctx (u.va + i)))

/-- The lines of a core's L1, each context's apart (R205). -/
def l1Lines (c : Caches) (core : Nat) : List Nat :=
  distinct ((c.l1.filter fun e => e.1 / 2 ^ 56 == core).map fun e => e.1 / 4)

/-- Room for a line in a core's L1 of 1,024 lines (R9, R16): where it is full, one of its lines goes; `pick` chooses it. -/
def Caches.roomFor (core line pick : Nat) (c : Caches) : Caches :=
  let ls := l1Lines c core
  if ls.contains line || ls.length < 1024 then c
  else
    let gone := ls.getD (pick % ls.length) 0
    { c with l1 := dropKeys (fun k => k / 4 == gone) c.l1, l1data := dropKeys (fun k => k / 256 == gone) c.l1data }

/-- Puts sectors of one line into a core's L1, by their virtual addresses and keys, with their bytes (R180, R205). -/
def Caches.fillL1 (core ctx pick expiry : Nat) (sectors : List (Nat × Nat)) (bytes : List (Nat × Byte)) (c : Caches) : Caches :=
  let c := c.roomFor core (l1Key core ctx ((sectors.headD (0, 0)).1) / 4) pick
  { c with
    l1 := sectors.foldl (fun m e => put {} m (l1Key core ctx e.1) { live := true, key := e.2, expiry }) c.l1
    l1data := bytes.foldl (fun m b => put 0 m (l1Byte core ctx b.1) b.2) c.l1data }

/-- Adds bytes to those of an operation that have arrived. -/
def arrive (l : List (Nat × Byte)) (m : Sparse Byte) : Sparse Byte := l.foldl (fun m e => put 0 m e.1 e.2) m

/-- A store of the core updates its L1 copy of the line, keeping the lease (R180, R217). -/
def l1Store (t : Thread) (u : UnitAt) (mask data : Nat) : List Micro :=
  if t.engine == .core && u.space == .dev then
    [.caches fun c =>
      if (look ({} : Sector) c.l1 (l1Key t.core t.ctx u.va)).live then
        let step := fun (m : Sparse Byte) i =>
          let b := BitVec.ofNat 8 (mask / 256 ^ i)
          let key := l1Byte t.core t.ctx (u.va + i)
          put 0 m key ((look 0 m key &&& ~~~b) ||| (BitVec.ofNat 8 (data / 256 ^ i) &&& b))
        { c with l1data := (List.range u.size).foldl step c.l1data }
      else c]
  else []

/-- The miss-status entries that are in use in a core: by loads, and by the prefetches of episodes (R179, R257). -/
def missEntries (s : State) (core : Nat) : Nat :=
  (distinct (s.fl.reqs.filterMap fun r =>
    if r.2.core == core && r.2.kind == .load && r.2.space == .dev && !r.2.done then some (r.2.ctx * 2 ^ 50 + r.2.va / 64)
    else none)).length + (s.core core).prefetching.length

/-- The entries that a load needs: one for each DEV sector that the L1 does not serve (R179). -/
def entriesNeeded (s : State) (k : Nat) (us : List UnitAt) : Nat :=
  (distinct ((us.filter fun u => u.space == .dev && !l1Serves s (s.thread k) k u).map fun u => u.va / 64)).length

/-! ### Sending requests -/

/-- The host link of a bus address (R390, R402). -/
def hostLink (s : State) (a : Nat) : Nat :=
  let page := a / 4096 % 2 ^ 40
  match (List.range 16).find? fun i =>
    let lim := look 0 s.sys.hrlim i
    has lim.toNat 0 && decide (field (look 0 s.sys.hrbase i) 51 12 ≤ page) && decide (page ≤ field lim 51 12) with
  | some i => if has (look 0 s.sys.hrlim i).toNat 1 then 1 else 0
  | none => 0

/-- The device that a PEER request goes to. -/
def peerDevice (key : Nat) : Nat :=
  if 2 ^ 100 ≤ key then (key - 2 ^ 100) / 2 ^ 52 % 2 ^ 19 else (key - 2 ^ 80) / 2 ^ 52 % 2 ^ 19

/-- What an engine sends to a unit at once overtakes no packet to the same peer and no posted write on the same host link
that is still on its way (R227, R228). -/
def linkClear (s : State) (u : UnitAt) (write : Bool) : Bool :=
  !s.fl.reqs.any fun r => r.2.live && !r.2.done && r.2.space == u.space &&
    match u.space with
    | .peer => peerDevice r.2.key == peerDevice u.key
    | .host => write && r.2.kind == .store && hostLink s (r.2.key - hostKey 0) == hostLink s (u.key - hostKey 0)
    | _ => false

/-- What an access to a line counts (R386, R407): on device memory an access at a held row's buffer, or an L2 hit or
miss; to a peer the flits sent, a number left open (log entry 9). Two free values are used. -/
def countLine (s : State) (ctx launch : Nat) (space : Space) (key : Nat) (dram : Bool) : List Micro :=
  if space == .peer then count s ctx 0x0C ((Config.freeValue (s.fresh + 1)).toNat % 2 ^ 16) launch
  else if space != .dev then []
  else if (heldRow s key).isSome then count s ctx 0x08 1 launch
  else count s ctx (if dram then 0x07 else 0x06) 1 launch

/-- Whether a store, an atomic or a copy finds its line in L2 is left open: it shows in the counters and the prefetch tags
alone (log entry 9). -/
def guessMiss (s : State) : Bool := (Config.freeValue s.fresh).toNat % 2 == 1

/-- A request of a thread for one unit. -/
def baseReq (s : State) (iss : Issue) (op : Nat) (u : UnitAt) : Req :=
  let t := s.thread iss.thr
  { live := true, op, thr := iss.thr, ctx := t.ctx, launch := t.launch
    core := if t.engine == .core || t.engine == .access then t.core else 768
    space := u.space, key := u.key, va := u.va, size := u.size, acked := u.space != .peer }

/-- Enters requests as flight entries from `id` upwards. -/
def enter : Nat → List Req → List Micro
  | _, [] => []
  | id, r :: rs => .req id (fun _ => r) :: enter (id + 1) rs

/-- The pages that an access touches, for the TLB and the A and D bits. -/
def touched (us : List UnitAt) : List Nat := distinct (us.map fun u => u.va / 65536 * 65536)

/-- How many 64-byte sectors of DEV memory units lie in. -/
def sectorsOf (us : List UnitAt) : Nat :=
  (distinct ((us.filter fun u => u.space == .dev).map fun u => u.va / 64)).length

/-- Sends a load of units: those that the L1 serves give their bytes at once, the others are requested.
The operation takes the next flight key. `acq` keeps it from the L1 (R212, R238). -/
def sendLoadOf (s : State) (iss : Issue) (us : List UnitAt) (ps : List Piece1) (o : Op) (acq : Bool) : List Micro :=
  let t := s.thread iss.thr
  let hits := if acq then [] else us.filter (l1Serves s t iss.thr)
  let misses := us.filter fun u => !hits.any fun h => h.va == u.va
  let id := s.fl.next
  let op : Op :=
    { o with live := true, thr := iss.thr, pc := iss.pc, ctx := t.ctx, core := t.core
             elems := ps.map fun p => { dst := p.dst, bit := p.bit, width := p.width, sext := p.sext }
             dsts := ps.map Piece1.dst
             bytes := arrive (hits.flatMap (l1Bytes s t)) [] }
  .bump (1 + misses.length) :: .op id (fun _ => op)
    :: enter (id + 1) (misses.map fun u => { baseReq s iss id u with kind := .load, acq })
    ++ [.thread iss.thr (Thread.bumpCounter o.cls)]
    ++ count s t.ctx 0x04 (sectorsOf hits) t.launch ++ count s t.ctx 0x05 (sectorsOf misses) t.launch

/-- Sends the loads of lanes. -/
def sendLoad (s : State) (iss : Issue) (r : Rules) (as : List LaneAccess) (o : Op) (acq : Bool) : List Micro :=
  sendLoadOf s iss (unitsOf s (whoOf (s.thread iss.thr)) r as) (as.flatMap LaneAccess.pieces) o acq

/-- Sends a store of units: one request for each, the core's L1 copies updated, and the links that carry
it noted (R181, R217, R228). A discard writes zeros to whole units (R192). -/
def sendStoreOf (s : State) (iss : Issue) (us : List UnitAt) (ps : List Piece1) (o : Op) (kind : ReqKind) : List Micro :=
  let t := s.thread iss.thr
  let id := s.fl.next
  let reqOf := fun (u : UnitAt) =>
    let md := if kind == .discard then (allBits u.size, 0) else unitData u ps
    { baseReq s iss id u with kind, mask := md.1, data := md.2 }
  let links := setOf ((us.filter fun u => u.space == .host).map fun u => hostLink s (u.key - hostKey 0))
  let op : Op := { o with live := true, thr := iss.thr, pc := iss.pc, ctx := t.ctx, core := t.core }
  .bump (1 + us.length) :: .op id (fun _ => op) :: enter (id + 1) (us.map reqOf)
    ++ (us.flatMap fun u =>
        if kind == .discard then (if t.engine == .core && u.space == .dev then [dropLine t.core t.ctx u.va] else [])
        else let md := unitData u ps; l1Store t u md.1 md.2)
    ++ [.thread iss.thr fun t => { t.bumpCounter o.cls with links := t.links ||| links }]

/-- Sends the stores of lanes. -/
def sendStore (s : State) (iss : Issue) (r : Rules) (as : List LaneAccess) (o : Op) (kind : ReqKind) : List Micro :=
  sendStoreOf s iss (unitsOf s (whoOf (s.thread iss.thr)) r as) (as.flatMap LaneAccess.pieces) o kind

/-! ### Fences (R209, R211, R212) -/

/-- An operation's requests all concern device memory (R209). -/
def deviceOnly (s : State) (id : Nat) : Bool :=
  (reqsOf s id).all fun r => r.2.space != .peer && r.2.space != .host

/-- An earlier load-like access that step 1 of a fence awaits: a slot load until its slot is written (R304). -/
def awaitedLoad (o : Op) : Bool :=
  (o.cls == .l && (o.rowAct.isNone || o.rowAct == some .access))
    || match o.reef with
       | some r => r.kind == .loadB || r.kind == .code
       | none => false

/-- An earlier store-like access that step 2 of a fence awaits. -/
def awaitedStore (o : Op) : Bool :=
  o.cls == .s || match o.rowAct with | some (.open_ _ _) => true | _ => false

/-- A release of a row awaits the confirmation of its close (R250). -/
def awaitsClose (o : Op) : Bool := match o.rowAct with | some (.release _) => true | _ => false

/-- A request is the thread's own, or that of a map unit whose times it takes (R235). -/
def actsFor (s : State) (k : Nat) (r : Req) : Bool := r.thr == k || (s.op r.op).thr == k && (s.op r.op).live

/-- One earlier store-like access meets the condition of a scope (R209). -/
def storeMeets (s : State) (scope id : Nat) : Bool :=
  if scope ≤ 2 then !awaitsClose (s.op id) && (reqsOf s id).all fun r => r.2.done
  else if scope ≤ 5 then
    !deviceOnly s id && (reqsOf s id).all fun r => r.2.space == .peer || r.2.space == .host || r.2.done
  else false

/-- The latest GWCT that a fence waits for: LGW, and the times that device requests of accesses not yet
complete have received. -/
def awaitedTime (s : State) (k before : Nat) : Nat :=
  (s.fl.reqs.filter fun r => actsFor s k r.2 && decide (r.2.op < before) && r.2.done && r.2.kind != .load).foldl
    (fun m r => max m r.2.gwct) (s.thread k).lgw

/-- Every store of the thread to the host that was sent before flight key `before` has been performed (R228); a posted
write is under way after its instruction is complete. -/
def hostFlushed (s : State) (k before : Nat) : Bool :=
  !s.fl.reqs.any fun r => actsFor s k r.2 && decide (r.1 < before) && r.2.space == .host && r.2.kind != .load && !r.2.done

/-- The conditions of a fence hold, for the accesses issued before flight key `before` (R211). -/
def fenceHolds (s : State) (k : Nat) (kind : FenceKind) (scope before : Nat) : Bool :=
  let earlier := (opsOf s k).filter fun o => decide (o.1 < before)
  scope == 0
    || ((earlier.all fun o => !awaitedLoad o.2)
        && (kind == .acq
          || ((earlier.all fun o => !awaitedStore o.2 || storeMeets s scope o.1)
              && ((2 < scope && scope < 7) || hostFlushed s k before)
              && (scope < 3 || decide (awaitedTime s k before ≤ dtOf s (s.thread k))))))

/-- A system-scope fence that has waited clears the links (R228). -/
def fenceLinks (k scope : Nat) : List Micro := if scope = 7 then [.thread k fun t => { t with links := 0 }] else []

/-- Holds lanes of a group. -/
def holdLanes (iss : Issue) (mask : Nat) (h : Hold) : Micro :=
  .thread iss.thr fun t => t.updLanes mask fun l => { l with hold := h }

/-- Every lane of the group has passed the fence of its releasing access (R212). -/
def allPassed (s : State) (iss : Issue) : Bool :=
  let t := s.thread iss.thr
  (lanesOf iss.lanes).all fun l => (t.lane l).hold == .passed

/-- The memory-order kinds of FM's k field (R44). -/
def isAcq (k o : Nat) : Bool := o != 0 && has k 0
def isRel (k o : Nat) : Bool := o != 0 && has k 1

/-- After an access: lanes that performed it move on, or hold until an acquire's condition (R212). -/
def afterAccess (s : State) (iss : Issue) (mask k o : Nat) : List Micro :=
  if mask = 0 then []
  else if isAcq k o then [holdLanes iss mask (.fence .acq o s.fl.next .done)]
  else [moveLanes iss mask]

/-- The lanes that go on when a group's access is done: those that it acts for, in a sequence the whole group together
(R85), and for an acquire, which holds its group, every lane of it (R211, R212). -/
def actingLanes (s : State) (iss : Issue) (go g : Nat) (acq : Bool := false) : Nat :=
  let mine := go &&& active s iss g
  if mine != 0 && (acq || inSequence (s.thread iss.thr) iss.pc) then go else mine

/-- A releasing access has its fence still before it (R212); with an empty Active(g) it makes no access (R184). -/
def fenceFirst (g k o : Nat) (iss : Issue) (s : State) : Bool :=
  isRel k o && !allPassed s iss && (s.thread iss.thr).episode.isNone && active s iss g != 0

/-- A releasing access first holds its group as a full fence does (R212); then it is performed. -/
def withRelease (s : State) (iss : Issue) (g k o : Nat) (act : List Phase) : List Phase :=
  if fenceFirst g k o iss s then [fun _ => [holdLanes iss iss.lanes (.fence .full o iss.start .access)]] else act

/-! ### The lane addresses of FM (R44) -/

/-- A(L): base, per-lane offset and constant, modulo 2^56. -/
def fmAddr (s : State) (iss : Issue) (sh : Shape) (f : FM) (l : Nat) : Nat :=
  let base : Int := (scalar s iss f.sb.toNat).toNat
  let vx : Int := if f.ix = 1 then (operand s iss sh 0 l).toNat else 0
  ((base + vx + f.off.toInt) % 2 ^ 56).toNat

/-- The registers d to d + n. -/
def fmRange (f : FM) : List Nat := (List.range (f.n.toNat + 1)).map fun i => f.d.toNat + i

/-- The vector source fields of FM. -/
def fmVx (f : FM) : List Nat := if f.ix = 1 then [f.vx.toNat] else []

/-- The element size of sz in bytes (R44). -/
def szBytes (z : BitVec 2) : Nat := 2 ^ z.toNat

/-- LD and ST: element k of lane L (R187, R188). -/
def plainPieces (s : State) (iss : Issue) (f : FM) (addr l : Nat) : List Piece1 :=
  let z := szBytes f.sz
  (List.range (f.n.toNat + 1)).map fun i =>
    { lane := l, dst := .v (f.d.toNat + i) l, bit := 8 * (addr + i * z), width := 8 * z
      value := (vreg s iss (f.d.toNat + i) l).toNat }

/-- LDPK and STPK: element L + k × w of the packed sequence (R189). -/
def packedPieces (s : State) (iss : Issue) (f : FM) (addr l : Nat) : List Piece1 :=
  let b := if f.sz = 0 then 4 else 6
  let w := (s.thread iss.thr).width
  (List.range (f.n.toNat + 1)).map fun i =>
    { lane := l, dst := .v (f.d.toNat + i) l, bit := 8 * addr + b * (l + i * w), width := b
      value := (vreg s iss (f.d.toNat + i) l).toNat % 2 ^ b }

/-- A register or entry that a lane's access reads is poisoned: its base, its offset or its data (R279, R379). -/
def lateBad (s : State) (iss : Issue) (sh : Shape) (l : Nat) : Bool :=
  poisonedLane s iss sh l || sh.ssrc.any (s.thread iss.thr).lostScalar

/-- The POISON that a lost scalar register brings, where an instruction's addresses let it be read (R379). -/
def lostBad (s : State) (iss : Issue) (sh : Shape) : Option Bad :=
  if sh.ssrc.any (s.thread iss.thr).lostScalar then some (.trap .poison 0) else none

/-- The accesses of the active lanes. -/
def laneAccesses (s : State) (iss : Issue) (sh : Shape) (f : FM) (packed : Bool) : List LaneAccess :=
  (activeLanes s iss sh).map fun l =>
    let a := fmAddr s iss sh f l
    { lane := l, addr := a, pieces := if packed then packedPieces s iss f a l else plainPieces s iss f a l
      bad := lateBad s iss sh l }

/-- The accesses of the lanes of a set. -/
def keepLanes (as : List LaneAccess) (mask : Nat) : List LaneAccess := as.filter fun a => has mask a.lane

/-! ### Loads in an episode (R257, R262) -/

/-- Prefetches lines into L2, tagged with the warp (R257, R262): each takes a miss-status entry while one of the core's
256 is free and the episode holds fewer than 64, and the others are dropped. -/
def prefetchLines (s : State) (k : Nat) (keys : List Nat) : List Micro :=
  let t := s.thread k
  let trigger := match t.episode with | some e => e.trigger | none => 0
  let mine := ((s.core t.core).prefetching.filter fun p => p.2 == trigger).length
  let go := keys.take (min (256 - missEntries s t.core) (64 - mine))
  if go.isEmpty then []
  else
    [.caches fun c => { c with tags := go.foldl (fun m key => put 0 m (key / 256) (k + 1)) c.tags },
     .core t.core fun c => { c with prefetching := c.prefetching ++ go.map fun key => (key / 256, trigger) },
     .thread k fun t => { t with prefetches := min (2 ^ 32 - 1) (t.prefetches + go.length) }]

/-- A prefetch's translation is at hand, or a walk of it starts: it is dropped while fewer than 4 of the cluster's
walkers are free (R370), which the model leaves open (log entry 92). -/
def walkStarts (s : State) (who : Who) (va lane : Nat) : Bool :=
  (tlbFind s who (va % 2 ^ 56)).isSome || has (Config.freeValue s.fresh).toNat lane

/-- What an episode makes of one lane's load: its data when valid, else invalid with what is to be
prefetched; or the trap that ends the episode. -/
inductive AheadLoad
  | data (o : Op)
  | invalid (prefetch : List Nat)
  | ends (b : Bad)

/-- One lane's load in an episode (R257): an L1 hit or Lagoon data is valid, a DEV miss prefetches
but for a row that is held (R238), whatever else is dropped; a trap ends the episode. -/
def aheadLoad (s : State) (iss : Issue) (r : Rules) (a : LaneAccess) (bad : Bool) : AheadLoad :=
  let t := s.thread iss.thr
  if bad then .invalid []
  else
    match judge s (whoOf t) r none a with
    | some (.trap c d) => .ends (.trap c d)
    | some (.miss _) => .invalid []
    | none =>
      let us := unitsOf s (whoOf t) r [a]
      let spoiled := us.any fun u => poisoned s u.space u.key u.size
      let dry := a.pieces.any fun p => (unfilled s p.span.1).isSome
      if us.all fun u => u.space == .lagoon then
        if spoiled || dry then .invalid []
        else .data { bytes := arrive (us.flatMap fun u => (List.range u.size).map fun i => (u.va + i, s.byte (u.key + i))) [] }
      else if us.all fun u => u.space == .dev then
        if us.all (l1Serves s t iss.thr) then .data { bytes := arrive (us.flatMap (l1Bytes s t)) [] }
        else .invalid ((us.filter fun u => !atRowBuffer s u.key && walkStarts s (whoOf t) u.va a.lane).map fun u => u.key)
      else .invalid []

/-- A load in an episode: valid data are written, other destinations are marked invalid. -/
def aheadLoads (s : State) (iss : Issue) (sh : Shape) (r : Rules) (as : List LaneAccess) : List Phase :=
  let t := s.thread iss.thr
  let e : Episode := t.episode.getD {}
  let outs := as.map fun a => (a, aheadLoad s iss r a (aheadInvalid s t e sh a.lane))
  let struck := outs.filterMap fun x => match x.2 with | .ends b => some (x.1.lane, b) | _ => none
  let lines := distinct (outs.flatMap fun x => match x.2 with | .invalid l => l.map (· / 256 * 256) | _ => [])
  let writes := outs.flatMap fun x => match x.2 with
    | .data o => x.1.pieces.map fun p => (p.dst, elemValue o { dst := p.dst, bit := p.bit, width := p.width, sext := p.sext })
    | _ => []
  let marks := outs.foldl (fun (e : Episode) x =>
    let bad := match x.2 with | .data _ => false | _ => true
    x.1.pieces.foldl (fun e p => match p.dst with
      | .v d l => { e with badV := mark bad (64 * d + l) e.badV }
      | .s d => if d = 0 then e else { e with badS := mark bad d e.badS }
      | .q _ _ _ => e) e) e
  if !struck.isEmpty then [fun s => strike s iss.thr iss.pc iss.lanes struck]
  else
    [fun s => prefetchLines s iss.thr lines
      ++ [.fresh 1, .thread iss.thr fun t => { t.land (s.fresh + 1) writes with episode := some marks }, moveOn iss]]

end Sys2Proof.Machine
end

