-- ==== Sys2Proof/Machine/Memory.lean ====
section
/-! DEFINITION. Group 0x7, memory access and atomics (R172 to R200). -/

namespace Sys2Proof.Machine

/-- Which types LD and ST serve: every one, but MMIO only for b32 and at most two registers (R175). -/
def plainAllowed (f : FM) : Space → Bool
  | .mmio => f.sz == 2 && decide (f.n.toNat ≤ 1)
  | _ => true

/-- Which types LDPK and STPK serve (R175). -/
def packedAllowed : Space → Bool
  | .mmio => false
  | _ => true

/-- What a load names. -/
def loadShape (f : FM) : Shape :=
  { g := f.g.toNat, vsrc := fmVx f, vdst := fmRange f, ssrc := [f.sb.toNat], cls := .l, late := true }

/-- What a store names; its data registers may not be ports (R38). -/
def storeShape (f : FM) : Shape :=
  { g := f.g.toNat, vsrc := fmVx f, vmore := fmRange f, ssrc := [f.sb.toNat], cls := .s, late := true }

/-- No lane waits for a region's fill, and a load's miss-status entries are free (R176, R179). -/
def accessReady (r : Rules) (as : Issue → State → List LaneAccess) (iss : Issue) (s : State) : Bool :=
  let t := s.thread iss.thr
  let who := whoOf t
  !awaitsFill s who r (as iss s)
    && (r.access.kind != 0 || t.engine == .scc || t.engine == .harbour
        || decide (missEntries s t.core + entriesNeeded s iss.thr (unitsOf s who r (as iss s)) ≤ 256))

/-- The checks and the performance of a load (R183). -/
def loadBody (r : Rules) (sh : Shape) (k o : Nat) (as : List LaneAccess) (iss : Issue) (s : State) : List Phase :=
  let who := whoOf (s.thread iss.thr)
  let vs := verdicts s who r (some iss.thr) as
  let go := spared s iss vs
  let acting := actingLanes s iss go sh.g (isAcq k o)
  let mine := keepLanes as go
  touchAll who false (if mine.isEmpty then [] else touched (unitsOf s who r mine))
    ++ [fun s => strike s iss.thr iss.pc iss.lanes vs ++ [moveLanes iss (without go acting)],
        fun s => if mine.isEmpty then [] else
          sendLoad s iss r mine { cls := .l, lanes := setOf (mine.map LaneAccess.lane) } (isAcq k o && decide (3 ≤ o)),
        fun s => afterAccess s iss acting k o]

/-- The checks and the performance of a store (R183). -/
def storeBody (r : Rules) (kind : ReqKind) (as : List LaneAccess) (iss : Issue) (s : State) : List Phase :=
  let who := whoOf (s.thread iss.thr)
  let vs := verdicts s who r none as
  let go := spared s iss vs
  let mine := keepLanes as go
  touchAll who true (if mine.isEmpty then [] else touched (unitsOf s who r mine))
    ++ [fun s => strike s iss.thr iss.pc iss.lanes vs ++ [moveLanes iss go],
        fun s => if mine.isEmpty then [] else
          sendStore s iss r mine { cls := .s, lanes := setOf (mine.map LaneAccess.lane) } kind]

/-- LD (R187). -/
def execLd (f : FM) : State → Host.Outcome State Fault Refusal :=
  let sh := loadShape f
  let r : Rules := { align := szBytes f.sz, allowed := plainAllowed f }
  let as := fun iss s => laneAccesses s iss sh f false
  issue sh (fun iss s => loadBody r sh f.k.toNat f.o.toNat (as iss s) iss s)
    (.own fun iss s => some (aheadLoads s iss sh r (as iss s))) (accessReady r as)

/-- ST (R188). -/
def execSt (f : FM) (s : State) : Host.Outcome State Fault Refusal :=
  let sh := storeShape f
  let r : Rules := { align := szBytes f.sz, access := .write, allowed := plainAllowed f }
  let as := fun iss s => laneAccesses s iss sh f false
  issue sh (fun iss s => withRelease s iss f.g.toNat f.k.toNat f.o.toNat (storeBody r .store (as iss s) iss s)) .skip
    (accessReady r as) s (fenceFirst f.g.toNat f.k.toNat f.o.toNat)

/-- LDPK (R189, R190). -/
def execLdpk (f : FM) : State → Host.Outcome State Fault Refusal :=
  let sh := loadShape f
  let r : Rules := { allowed := packedAllowed }
  let as := fun iss s => laneAccesses s iss sh f true
  issue sh (fun iss s => loadBody r sh 0 0 (as iss s) iss s) (.own fun iss s => some (aheadLoads s iss sh r (as iss s)))
    (accessReady r as)

/-- STPK (R189, R190). -/
def execStpk (f : FM) : State → Host.Outcome State Fault Refusal :=
  let sh := storeShape f
  let r : Rules := { access := .write, allowed := packedAllowed }
  let as := fun iss s => laneAccesses s iss sh f true
  issue sh (fun iss s => storeBody r .store (as iss s) iss s) .skip (accessReady r as)

/-! ### PREF, DISC, FLUSH (R191 to R193) -/

/-- A lane that names one byte at its address. -/
def byteAccess (a l : Nat) : LaneAccess := { lane := l, addr := a, pieces := [{ lane := l, dst := .s 0, bit := 8 * a, width := 8 }] }

/-- The one-byte accesses of the active lanes. -/
def pointAccesses (s : State) (iss : Issue) (sh : Shape) (f : FM) : List LaneAccess :=
  (activeLanes s iss sh).map fun l => { byteAccess (fmAddr s iss sh f l) l with bad := lateBad s iss sh l }

/-- The DEV lines that lanes name, as virtual address and key; lanes that would trap or fault are left
out (R191). -/
def devLines (s : State) (who : Who) (as : List LaneAccess) : List (Nat × Nat) :=
  as.filterMap fun a =>
    if inLagoon a.addr then none
    else match translate s who .read a.addr with
      | .ok p => if p.space == .dev then some (a.addr / 256 * 256, p.key / 256 * 256) else none
      | .error _ => none

/-- The pages of the lines that lanes name. -/
def hintPages (s : State) (who : Who) (as : List LaneAccess) : List Nat :=
  distinct ((devLines s who as).map fun e => e.1 / 65536 * 65536)

/-- The sectors of a line that a core's L1 does not serve: the miss-status entries that its prefetch takes (R179). -/
def sectorsAway (s : State) (k : Nat) (e : Nat × Nat) : Nat :=
  ((List.range 4).filter fun i =>
    !l1Serves s (s.thread k) k { space := .dev, va := e.1 + 64 * i, key := e.2 + 64 * i, size := 32, canW := true }).length

/-- The lines for which entries are free; the excess is dropped (R191). -/
def linesWithin (need : Nat × Nat → Nat) : Nat → List (Nat × Nat) → List (Nat × Nat)
  | _, [] => []
  | free, e :: es => if need e ≤ free then e :: linesWithin need (free - need e) es else linesWithin need free es

/-- Keeps the first of equal lines. -/
def distinctLines : List (Nat × Nat) → List (Nat × Nat)
  | [] => []
  | e :: es => e :: (distinctLines es).filter fun x => x.1 != e.1

/-- PREF (R191): brings lines into L2, and under `.keep` into the core's L1 under a lease granted at the
slice, unless a store of the core to the line is in flight (R217). -/
def execPref (f : FM) : State → Host.Outcome State Fault Refusal :=
  let sh : Shape := { g := f.g.toNat, vsrc := fmVx f, ssrc := [f.sb.toNat] }
  let fill := fun (s : State) (t : Thread) (e : Nat × Nat) =>
    let busy := atRowBuffer s e.2 || s.fl.reqs.any fun r => r.2.core == t.core && r.2.kind != .load && r.2.space == .dev
      && r.2.va / 256 == e.1 / 256
    if f.h ≠ 3 || busy then []
    else
      let expiry := s.dtAt (dieOfKey .dev e.2) + (s.ctx t.ctx).lease
      let key := forward s .dev e.2
      let clean := (List.range 4).filter fun i => !poisoned s .dev (key + 64 * i) 64
      let bytes := clean.flatMap fun i => (List.range 64).map fun j => (e.1 + 64 * i + j, s.byte (key + 64 * i + j))
      [Micro.caches fun c => (c.lease (key / 256) expiry).fillL1 t.core t.ctx (Config.freeValue (s.fresh + e.1 / 256 % 1024)).toNat expiry
        (clean.map fun i => (e.1 + 64 * i, key + 64 * i)) bytes]
  issue sh
    (fun iss s =>
      let t := s.thread iss.thr
      let as := (pointAccesses s iss sh f).filter fun a => !poisonedLane s iss sh a.lane
      let vs := poisonVerdicts s iss sh
      let mine := keepLanes as (spared s iss vs)
      touchAll (whoOf t) false (hintPages s (whoOf t) mine)
      ++ [fun s => (linesWithin (sectorsAway s iss.thr) (256 - missEntries s t.core) (distinctLines (devLines s (whoOf t) mine))).flatMap (fill s t),
       fun s => strike s iss.thr iss.pc iss.lanes vs ++ [moveLanes iss (spared s iss vs), .fresh 1024]])
    (.own fun iss s =>
      let t := s.thread iss.thr
      let e : Episode := t.episode.getD {}
      let as := (pointAccesses s iss sh f).filter fun a => !aheadInvalid s t e sh a.lane && walkStarts s (whoOf t) a.addr a.lane
      let lines := (distinct ((devLines s (whoOf t) as).map Prod.snd)).filter fun l => !atRowBuffer s l
      some [fun s => prefetchLines s iss.thr lines ++ [.fresh 1, moveOn iss]])

/-- DISC (R192): a store of zeros to the aligned 256-byte line. -/
def execDisc (f : FM) : State → Host.Outcome State Fault Refusal :=
  let sh : Shape := { g := f.g.toNat, vsrc := fmVx f, ssrc := [f.sb.toNat], cls := .s, late := true }
  let r : Rules := { access := .write, allowed := fun p => p == .dev || p == .lagoon, line := true }
  let as := fun iss s => pointAccesses s iss sh f
  issue sh (fun iss s => storeBody r .discard (as iss s) iss s) .skip (accessReady r as)

/-- FLUSH (R193): invalidates the core's L1 copies of the lines; it never traps, parks or faults. -/
def execFlush (f : FM) : State → Host.Outcome State Fault Refusal :=
  let sh : Shape := { g := f.g.toNat, vsrc := fmVx f, ssrc := [f.sb.toNat] }
  issue sh
    (fun iss s =>
      let t := s.thread iss.thr
      let vs := poisonVerdicts s iss sh
      let as := keepLanes (pointAccesses s iss sh f) (spared s iss vs)
      [fun _ => as.map fun a => dropLine t.core t.ctx a.addr,
       fun s => strike s iss.thr iss.pc iss.lanes vs ++ [moveLanes iss (spared s iss vs)]])
    .skip

/-! ### LMAP and LUNMAP (R194, R195) -/

/-- The first cause that stops an `LMAP` (R194). -/
def lmapFail (w : Wg) (lag glob n : Nat) : Option (Cause × Nat) :=
  let base := 0x00FFFFFFC0000000 + clusterOf w.core * 2 ^ 24 + w.lagoon
  let window := 0x00FFFFFFC0000000
  if lag % 65536 ≠ 0 then some (.align, lag)
  else if glob % 65536 ≠ 0 then some (.align, glob)
  else if lag < base then some (.badAddr, lag)
  else if base + w.bytes < lag + n * 65536 then some (.badAddr, max lag (base + w.bytes))
  else if window < glob + n * 65536 then some (.badAddr, max glob window)
  else if w.regions.any fun r => r.live && !r.closing && decide (lag < r.lagoon + r.count * 65536)
      && decide (r.lagoon < lag + n * 65536) then some (.mapConf, 0)
  else if 8 ≤ (w.regions.filter fun r => r.live && !r.closing).length then some (.mapConf, 0)
  else none

/-- LMAP (R194). -/
def execLmap (f : FM) : State → Host.Outcome State Fault Refusal :=
  let sb := f.sb.toNat
  let n := f.off.toNat + 1
  let sh : Shape := { undef := sb == 0 || sb == 63 || decide (192 < n) || f.g != 0, ssrc := [sb, sb + 1], late := true }
  issue sh (fun iss s =>
    let t := s.thread iss.thr
    let lag := (sourceRegs s iss).addr sb
    let glob := (sourceRegs s iss).addr (sb + 1)
    let lost := if (lostBad s iss sh).isSome then some (Cause.poison, 0) else none
    let fail := match lmapFail (s.wg t.wg) lag glob n with
      | some (c, d) => if 9 < c.rank then lost.or (some (c, d)) else some (c, d)
      | none => lost
    match fail with
    | some (c, d) => [fun s => trapGroup s iss c (BitVec.ofNat 64 d)]
    | none =>
      [fun _ => [.wg t.wg fun w => { w with regions := w.regions ++ [{ live := true, lagoon := lag, global := glob, count := n }] },
                 moveOn iss]]) .skip

/-- The write-back of a region (R177): each dirty block with its global address. -/
def regionBlocks (r : Region) : List (Nat × Nat) :=
  r.dirty.map fun b =>
    let first := lagoonKey (lagoonCluster r.lagoon) (r.lagoon % 2 ^ 24)
    (b * 64, r.global + (b * 64 - first))

/-- The verdict of the map unit on a write-back: a fault, or MEMTYPE for an MMIO page (R178). -/
def backVerdict (s : State) (who : Who) (r : Region) : Option Bad :=
  (regionBlocks r).findSome? fun e =>
    match translate s who .write e.2 with
    | .error m => some (.miss { m with region := true })
    | .ok p => if p.space == .mmio then some (.trap .memType (BitVec.ofNat 64 e.2)) else none

/-- The requests of a write-back: each dirty block is written as a whole (R177). They are those of the map unit acting for
the region, an agent of its own (R202). -/
def backReqs (s : State) (id w : Nat) (who : Who) (r : Region) (launch : Nat) : List Req :=
  (regionBlocks r).filterMap fun e =>
    (unitAt s who .write e.2).map fun u =>
      (({ live := true, op := id, thr := backKey w, unit := some w, ctx := who.ctx, launch, kind := .store, space := u.space
          key := u.key, va := e.2, size := 64, mask := allBits 64, data := readNat s e.1 64, acked := u.space != .peer } : Req))

/-- The write-back stores of a region of workgroup `w` as one operation, which thread `k` awaits and whose times it takes
(R177, R235). -/
def sendBack (s : State) (k w : Nat) (who : Who) (r : Region) (cls : Cls) (pc : Addr)
    (launch : Nat := 0) : List Micro :=
  let id := s.fl.next
  let reqs := backReqs s id w who r launch
  .bump (1 + reqs.length) :: .op id (fun _ => { live := true, thr := k, cls, pc, ctx := who.ctx }) :: enter (id + 1) reqs

/-- LUNMAP (R195). -/
def execLunmap (f : FM) : State → Host.Outcome State Fault Refusal :=
  let sb := f.sb.toNat
  let sh : Shape := { undef := f.g != 0, ssrc := [sb], cls := .s }
  issue sh (fun iss s =>
    let t := s.thread iss.thr
    let who := whoOf t
    let lag := (sourceRegs s iss).addr sb
    match (s.wg t.wg).regions.find? fun r => r.live && !r.closing && r.lagoon == lag with
    | none => [fun s => trapGroup s iss .mapConf]
    | some r =>
      match backVerdict s who r with
      | some b => [fun s => strike s iss.thr iss.pc iss.lanes ((lanesOf iss.lanes).map fun l => (l, b))]
      | none =>
        touchAll who true (distinct ((regionBlocks r).map fun e => e.2 / 65536 * 65536))
          ++ [fun s => sendBack s iss.thr t.wg who r .s iss.pc t.launch,
              fun _ => [.thread iss.thr (Thread.bumpCounter .s),
                .wg t.wg fun w => { w with regions := w.regions.filter fun x => x.lagoon != lag }, moveOn iss]]) .skip

/-! ### Atomics (R196 to R200) -/

/-- Which types serve an atomic (R175): on the host only add.i32, exch and the compare forms. -/
def atomAllowed (aop : Nat) : Space → Bool
  | .mmio => false
  | .host => aop == 0 || aop == 8 || decide (16 ≤ aop)
  | _ => true

/-- The accesses of an atomic: its 4-byte location, 8 bytes for ACASW. -/
def atomAccesses (s : State) (iss : Issue) (sh : Shape) (f : FM) (bytes : Nat) : List LaneAccess :=
  (activeLanes s iss sh).map fun l =>
    let a := fmAddr s iss sh f l
    { lane := l, addr := a, pieces := [{ lane := l, dst := .s 0, bit := 8 * a, width := 8 * bytes }], bad := lateBad s iss sh l }

/-- The locations of accesses, each once, with the lanes that name it ascending. -/
def locations : List LaneAccess → List (Nat × List Nat)
  | [] => []
  | a :: as =>
    let rest := locations as
    match rest.find? fun e => e.1 == a.addr with
    | some e => (a.addr, a.lane :: e.2) :: rest.filter fun e => e.1 != a.addr
    | none => (a.addr, [a.lane]) :: rest

/-- The operation in FM bits 9:5 (R45). -/
def aopOf (f : FM) : Nat := f.n.toNat * 4 + f.h.toNat

/-- A lane's part of an atomic. -/
def atomOf (s : State) (iss : Issue) (f : FM) (aop : Nat) (canW ret : Bool) (off l : Nat) : Atom :=
  let v := fun i => (vreg s iss (f.d.toNat + i) l).toNat
  let two := fun i => v i + v (i + 1) * 2 ^ 32
  { lane := l, aop, off, canW
    cmp := if aop = 16 then v 0 else if aop = 17 then two 0 else 0
    x := if aop = 16 then v 1 else if aop = 17 then two 2 else v 0
    dst := if !ret then [] else if aop = 17 then [.v f.d.toNat l, .v (f.d.toNat + 1) l] else [.v f.d.toNat l] }

/-- Sends atomics: one request for each location, its lanes in ascending order (R199). -/
def sendAtomics (s : State) (iss : Issue) (r : Rules) (f : FM) (aop bytes : Nat) (ret : Bool) (cls : Cls)
    (as : List LaneAccess) : List Micro :=
  let t := s.thread iss.thr
  let id := s.fl.next
  let reqs := (locations as).filterMap fun e =>
    (unitAt s (whoOf t) r.access e.1).map fun u =>
      let atoms := e.2.map fun l => atomOf s iss f aop u.canW ret 0 l
      { baseReq s iss id u with kind := .atomic, va := e.1, key := u.key + (e.1 - u.va), size := bytes, atoms }
  let links := setOf ((reqs.filter fun q => q.space == .host).map fun q => hostLink s (q.key - hostKey 0))
  let op : Op := { live := true, thr := iss.thr, cls, pc := iss.pc, ctx := t.ctx, core := t.core
                   lanes := setOf (as.map LaneAccess.lane), dsts := reqs.flatMap fun q => q.atoms.flatMap Atom.dst
                   acq := if isAcq f.k.toNat f.o.toNat then f.o.toNat else 0 }
  .bump (1 + reqs.length) :: .op id (fun _ => op) :: enter (id + 1) reqs
    ++ [.thread iss.thr fun t => { t.bumpCounter cls with links := t.links ||| links }]

/-- The checks and the performance of an atomic (R183, R196, R212). A lane of ACAS or ACASW whose page
has W = 0 is sent as a compare only (R200): it is held until the slice has answered. -/
def atomBody (r : Rules) (sh : Shape) (f : FM) (aop bytes : Nat) (ret : Bool) (iss : Issue) (s : State) : List Phase :=
  let who := whoOf (s.thread iss.thr)
  let as := atomAccesses s iss sh f bytes
  let vs := verdicts s who r (some iss.thr) as
  let go := spared s iss vs
  let mine := keepLanes as go
  let acting := actingLanes s iss go sh.g (isAcq f.k.toNat f.o.toNat)
  let compares := if aop < 16 then 0 else
    setOf ((mine.filter fun a => match unitAt s who r.access a.addr with | some u => !u.canW | none => false).map LaneAccess.lane)
  let compares := if compares != 0 && inSequence (s.thread iss.thr) iss.pc then acting else compares
  touchAll who (decide (aop < 16)) (if mine.isEmpty then [] else touched (unitsOf s who r mine))
    ++ [fun s => strike s iss.thr iss.pc iss.lanes vs ++ [moveLanes iss (without go acting)],
        fun s => if compares = 0 then [] else [holdLanes iss compares (.tile s.fl.next)],
        fun s => if mine.isEmpty then [] else sendAtomics s iss r f aop bytes ret (if ret then .l else .s) mine,
        fun s => afterAccess s iss (without acting compares) f.k.toNat f.o.toNat]

/-- ATOM (R197, R199). -/
def execAtom (f : FM) (s : State) : Host.Outcome State Fault Refusal :=
  let aop := aopOf f
  let sh : Shape := { g := f.g.toNat, vsrc := fmVx f, vmore := [f.d.toNat], ssrc := [f.sb.toNat], cls := .s, late := true }
  let r : Rules := { align := 4, access := .atomic, allowed := atomAllowed aop }
  issue sh (fun iss s => withRelease s iss f.g.toNat f.k.toNat f.o.toNat (atomBody r sh f aop 4 false iss s)) .skip
    (accessReady r fun iss s => atomAccesses s iss sh f 4) s
    (fenceFirst f.g.toNat f.k.toNat f.o.toNat)

/-- ATOMR (R197, R199). -/
def execAtomr (f : FM) (s : State) : Host.Outcome State Fault Refusal :=
  let aop := aopOf f
  let sh : Shape := { g := f.g.toNat, vsrc := fmVx f, vmore := [f.d.toNat], vdst := [f.d.toNat], ssrc := [f.sb.toNat], cls := .l, late := true }
  let r : Rules := { align := 4, access := .atomic, allowed := atomAllowed aop }
  issue sh (fun iss s => withRelease s iss f.g.toNat f.k.toNat f.o.toNat (atomBody r sh f aop 4 true iss s)) .skip
    (accessReady r fun iss s => atomAccesses s iss sh f 4) s
    (fenceFirst f.g.toNat f.k.toNat f.o.toNat)

/-- ACAS (R200). -/
def execAcas (f : FM) (s : State) : Host.Outcome State Fault Refusal :=
  let d := f.d.toNat
  let sh : Shape := { g := f.g.toNat, vsrc := fmVx f, vmore := [d, d + 1], vdst := [d], ssrc := [f.sb.toNat], cls := .l, late := true }
  let r : Rules := { align := 4, access := .compare, allowed := atomAllowed 16 }
  issue sh (fun iss s => withRelease s iss f.g.toNat f.k.toNat f.o.toNat (atomBody r sh f 16 4 true iss s)) .skip
    (accessReady r fun iss s => atomAccesses s iss sh f 4) s
    (fenceFirst f.g.toNat f.k.toNat f.o.toNat)

/-- ACASW (R200). -/
def execAcasw (f : FM) (s : State) : Host.Outcome State Fault Refusal :=
  let d := f.d.toNat
  let sh : Shape := { g := f.g.toNat, vsrc := fmVx f, vmore := [d, d + 1, d + 2, d + 3], vdst := [d, d + 1], ssrc := [f.sb.toNat], cls := .l, late := true }
  let r : Rules := { align := 8, access := .compare, allowed := atomAllowed 17 }
  issue sh (fun iss s => withRelease s iss f.g.toNat f.k.toNat f.o.toNat (atomBody r sh f 17 8 true iss s)) .skip
    (accessReady r fun iss s => atomAccesses s iss sh f 8) s
    (fenceFirst f.g.toNat f.k.toNat f.o.toNat)

end Sys2Proof.Machine
end

