-- ==== Sys2Proof/Machine/Rows.lean ====
section
/-! DEFINITION. Row lines: the row instructions of group 0x9, what the base die makes of their requests, and
the life of a held row (R236 to R253). -/

namespace Sys2Proof.Machine

/-! ### The row table and the base die (R237 to R242) -/

/-- How long a row stays open at most, and how long before a refresh deadline it must end, in ns (R241). -/
def rowMost : Nat := 32000
def rowGuard : Nat := 400

/-- The refresh interval of a subarray, fixed at training: at most 32 ms (R241). -/
def refreshInterval (sub : Nat) : Nat := Config.refreshInterval sub % 32000000 + 1

/-- The refresh deadline of a subarray. The first lies one interval after reset (log entry 8). -/
def refreshDeadline (s : State) (sub : Nat) : Nat :=
  if look 0 s.sys.refresh sub = 0 then refreshInterval sub else look 0 s.sys.refresh sub

/-- The subarray that shares its stripe (R240). -/
def partner (sub : Nat) : Nat := sub ^^^ 1

/-- The subarray of a row line. -/
def subOf (pa : Nat) : Nat := Config.subarrayOf (pa / 1024)

/-- The entry of a handle, as an access that issues now finds it. -/
def rowNow (s : State) (ctx h : Nat) : Row := (look {} (s.ctx ctx).rows h).seen s

/-- Every held entry of every context, as context, handle and entry. -/
def heldRows (s : State) : List (Nat × Nat × Row) :=
  s.ctxs.flatMap fun c => c.2.rows.filterMap fun r =>
    if (r.2.seen s).state == .held then some (c.1, r.1, r.2) else none

/-- A row of a subarray is open though no hold is in force: its hold has lapsed or it is being closed
(R239). -/
def rowEnding (s : State) (sub : Nat) : Bool :=
  (s.sys.closing.any fun e => subOf e.1 == sub)
    || s.ctxs.any fun c => c.2.rows.any fun r =>
        r.2.state == .held && (r.2.seen s).state == .stale && subOf r.2.pa == sub

/-- A row of a subarray is open. -/
def rowOpenIn (s : State) (sub : Nat) : Bool :=
  rowEnding s sub || (heldRows s).any fun e => subOf e.2.2.pa == sub

/-- The base die is closing channels to new holds: the pseudo-channel is being retired, or its stack is
entering self-refresh (R241, R378, R422). -/
def channelRefuses (s : State) (channel : Nat) : Bool :=
  look .serving s.sys.channels channel != .serving || s.sys.selfRef.contains (channel / 128)

/-- P of R241 for a row line. -/
def latestExpiry (s : State) (pa : Nat) : Nat :=
  min (refreshDeadline s (subOf pa)) (refreshDeadline s (partner (subOf pa))) - rowGuard

/-- The code with which an open is refused (R248). A reopen under an entry's own handle needs no free one (R246). -/
def refusal (s : State) (ctx pa : Nat) (own : Bool := false) : Option Int :=
  let c := s.ctx ctx
  let held := heldRows s
  let mine := held.filter fun e => e.1 == ctx
  let here := fun (l : List (Nat × Nat × Row)) => l.filter fun e => channelAt s e.2.2.pa == channelAt s pa
  if c.rowqTotal ≤ mine.length ∨ c.rowqPch ≤ (here mine).length then some (-1)
  else if !own && (List.range 64).all fun h => (look {} c.rows h).state != .free then some (-2)
  else if 8 ≤ (here held).length then some (-3)
  else if (held.any fun e => subOf e.2.2.pa == subOf pa) ∨ latestExpiry s pa < baseTime s pa + Config.rowHold then
    some (-4)
  else if channelRefuses s (channelAt s pa) then some (-5)
  else none

/-- The base die can judge a request for a row: no row of the subarray is still being closed, and the
refresh deadlines lie in the future (R239, R241). -/
def canJudge (s : State) (pa : Nat) : Bool :=
  !rowEnding s (subOf pa) && decide (baseTime s pa < refreshDeadline s (subOf pa))
    && decide (baseTime s pa < refreshDeadline s (partner (subOf pa)))

/-- The GWCT of an open: the largest expiry recorded for the row's lines, or DT, + 2 ns (R233). -/
def openTime (s : State) (pa : Nat) : Nat :=
  (List.range 4).foldl (fun m i => max m (look 0 s.ca.leases (pa / 256 + i))) (baseTime s pa) + 2

/-- Opens a row under a handle (R248). -/
def holdRow (s : State) (ctx h va pa : Nat) (w : Bool) (level : Nat) : Micro :=
  .ctx ctx fun c =>
    { c with rows := put {} c.rows h
               { state := .held, va, pa, w, level, expiry := baseTime s pa + Config.rowHold, opened := baseTime s pa } }

/-- Drops the runahead prefetch tags of a row's lines, which the open writes back and invalidates
(R248, R262). -/
def dropTags (pa : Nat) : Micro :=
  .caches fun c => { c with tags := dropKeys (fun k => k / 4 == pa / 1024) c.tags }

/-- What an open comes to at the base die: its result, its GWCT (0 for none) and its updates (R248). -/
def openAt (s : State) (ctx va pa : Nat) (w : Bool) (level : Nat) : Int × Nat × List Micro :=
  match (heldRows s).find? fun e => e.1 == ctx && e.2.2.pa == pa with
  | some e => (e.2.1, 0, [])
  | none =>
    match refusal s ctx pa with
    | some code => (code, 0, [])
    | none =>
      let h := ((List.range 64).find? fun h => (look {} (s.ctx ctx).rows h).state == .free).getD 0
      (h, openTime s pa, [holdRow s ctx h va pa w level, dropTags pa])

/-- RSTAT's REFUSED (bit 1) or LAPSED (bit 2) is set (R249). -/
def setRstat (k bit : Nat) : Micro := .thread k fun t => { t with rstat := t.rstat ||| BitVec.ofNat 32 (2 ^ bit) }

/-- What a renewal comes to at the base die (R249). -/
def renewAt (s : State) (k ctx h : Nat) : Nat × List Micro :=
  let r := rowNow s ctx h
  let expiry := baseTime s r.pa + Config.rowHold
  if r.state != .held then (0, [setRstat k 2])
  else if latestExpiry s r.pa < expiry ∨ r.opened + rowMost < expiry ∨ channelRefuses s (channelAt s r.pa) then
    (0, [setRstat k 1])
  else (expiry, [.ctx ctx fun c => { c with rows := put {} c.rows h { r with expiry } }])

/-- The base die can perform a request of `ROPEN` or `RRENEW` now. -/
def rowPerformable (s : State) (r : Req) : Bool :=
  match (s.op r.op).rowAct with
  | some (.open_ _ _) => canJudge s (forward s .dev r.key)
  | some (.renew h) =>
    let row := rowNow s r.ctx h
    row.state != .held || canJudge s row.pa
  | _ => true

/-- A request of `ROPEN` or `RRENEW` is performed at the base die: its result waits in the operation. -/
def performRow (s : State) (n : Nat) : List Micro :=
  let r := s.req n
  let o := s.op r.op
  let finish := fun (x : Int) (gwct : Nat) =>
    [Micro.req n fun r => { r with done := true, gwct },
     .op r.op fun o => { o with outs := o.dsts.map fun d => (d, BitVec.ofInt 64 x) }]
  match o.rowAct with
  | some (.open_ w level) =>
    let a := openAt s r.ctx r.va (forward s .dev r.key) w level
    a.2.2 ++ finish a.1 a.2.1
  | some (.renew h) =>
    let a := renewAt s r.thr r.ctx h
    a.2 ++ finish a.1 0
  | _ => []

/-! ### ROPEN, RRENEW and RREL (R248 to R250) -/

/-- Sends a request to the base die, with one scalar result. -/
def askBase (s : State) (iss : Issue) (act : RowAct) (sd va key : Nat) : List Micro :=
  let t := s.thread iss.thr
  let id := s.fl.next
  [.bump 2,
   .op id fun _ => { live := true, thr := iss.thr, cls := .l, lanes := iss.lanes, pc := iss.pc, ctx := t.ctx, core := t.core
                     dsts := [.s sd], rowAct := some act },
   .req (id + 1) fun _ => { live := true, op := id, thr := iss.thr, ctx := t.ctx, launch := t.launch, core := t.core
                            kind := .row, key, va, size := 1024 },
   .thread iss.thr (Thread.bumpCounter .l), moveOn iss]

/-- Every lane of a group meets the same. -/
def strikeAll (s : State) (iss : Issue) (b : Bad) : List Micro :=
  strike s iss.thr iss.pc iss.lanes ((lanesOf iss.lanes).map fun l => (l, b))

/-- ROPEN (R248). -/
def execRopen (f : FY) : State → Host.Outcome State Fault Refusal :=
  let sh : Shape := { ssrc := [f.sa.toNat], sdst := [f.sd.toNat], cls := .l, late := true }
  issue sh
    (fun iss s =>
      let who := whoOf (s.thread iss.thr)
      let va := (scalar s iss f.sa.toNat + f.imm.signExtend 64).toNat % 2 ^ 56
      if inLagoon va then [fun s => trapGroup s iss .badAddr (BitVec.ofNat 64 va)]
      else
        match translate s who .read va with
        | .error m => [fun s => strikeAll s iss (.miss m)]
        | .ok p =>
          if p.space != .dev then [fun s => trapGroup s iss .memType (BitVec.ofNat 64 va)]
          else if (lostBad s iss sh).isSome then [fun s => trapGroup s iss .poison]
          else
            [fun s => touch s who va false,
             fun s => askBase s iss (.open_ p.canW p.level) f.sd.toNat (va / 1024 * 1024) (p.key / 1024 * 1024)])
    .skip

/-- A handle operand: its number, or none for a free or malformed one (R247). -/
def handleOf (s : State) (iss : Issue) (r : Nat) : Option Nat :=
  let v := (scalar s iss r).toNat
  if v < 64 ∧ (look {} (s.ctx (s.thread iss.thr).ctx).rows v).state ≠ .free then some v else none

/-- The group traps BADROW with the handle register's value (R247, R361). -/
def badRow (r : Nat) (iss : Issue) : Phase := fun s => trapGroup s iss .badRow (scalar s iss r)

/-- RRENEW (R249). -/
def execRrenew (f : FY) : State → Host.Outcome State Fault Refusal :=
  issue { ssrc := [f.sa.toNat], sdst := [f.sd.toNat], cls := .l }
    (fun iss s =>
      match handleOf s iss f.sa.toNat with
      | none => [badRow f.sa.toNat iss]
      | some h =>
        let row := look {} (s.ctx (s.thread iss.thr).ctx).rows h
        [fun s => askBase s iss (.renew h) f.sd.toNat row.va row.pa])
    .skip

/-- The close of a row begins: later accesses are those from the next flight key on (R239). -/
def beginClose (s : State) (pa : Nat) : Micro := .sys fun y => { y with closing := y.closing ++ [(pa, s.fl.next)] }

/-- RREL (R250). -/
def execRrel (f : FY) : State → Host.Outcome State Fault Refusal :=
  issue { ssrc := [f.sa.toNat], cls := .s }
    (fun iss s =>
      let t := s.thread iss.thr
      match handleOf s iss f.sa.toNat with
      | none => [badRow f.sa.toNat iss]
      | some h =>
        let row := look {} (s.ctx t.ctx).rows h
        let free := Micro.ctx t.ctx fun c => { c with rows := put {} c.rows h {} }
        let close := if row.state == .held then [beginClose s row.pa] else []
        let wait := if (row.seen s).state == .held then
            [Micro.bump 1,
             .op s.fl.next fun _ => { live := true, thr := iss.thr, cls := .s, lanes := iss.lanes, pc := iss.pc, ctx := t.ctx
                                      core := t.core, rowAct := some (.release row.pa) },
             .thread iss.thr (Thread.bumpCounter .s)]
          else []
        [fun _ => close ++ free :: wait ++ [moveOn iss]])
    .skip

/-! ### LDROW and STROW (R244, R251) -/

/-- The offset of a lane in the block (R251). -/
def rowOffset (s : State) (iss : Issue) (sh : Shape) (f : FM) (l : Nat) : Int :=
  (if f.ix = 1 then ((operand s iss sh 0 l).toNat : Int) else 0) + f.off.toInt

/-- An access at an offset of a block. -/
structure RowAccess where
  q : Int
  a : LaneAccess
  deriving DecidableEq, Repr

/-- The accesses of the active lanes through a row-table entry. -/
def rowAccesses (s : State) (iss : Issue) (sh : Shape) (f : FM) (r : Row) : List RowAccess :=
  (activeLanes s iss sh).map fun l =>
    let q := rowOffset s iss sh f l
    let addr := (((r.va : Int) + q) % 2 ^ 56).toNat
    { q, a := { lane := l, addr, pieces := plainPieces s iss f addr l, bad := lateBad s iss sh l } }

/-- The offset checks of R251 for `n` bytes. -/
def rowRange (q : Int) (size n addr : Nat) : Option Bad :=
  if q % size ≠ 0 then some (.trap .align (BitVec.ofNat 64 addr))
  else if q < 0 ∨ 1024 < q + n then some (.trap .badAddr (BitVec.ofNat 64 addr))
  else none

/-- The unit of a held row that holds an address of its block (R238). -/
def rowUnit (r : Row) (va : Nat) : UnitAt :=
  { space := .dev, va := va / 32 * 32, key := r.pa + (va / 32 * 32 - r.va), size := 32, canW := r.w }

/-- The units of a held row that accesses touch. -/
def rowUnits (r : Row) (as : List LaneAccess) : List UnitAt :=
  distinctUnits (as.flatMap fun a => (a.ranges false).flatMap fun g => (samples g).map (rowUnit r))

/-- What a stale access is judged by: that of `LD` or `ST` (R244). -/
def rowRules (f : FM) (store : Bool) : Rules := { access := if store then .write else .read, allowed := plainAllowed f }

/-- The verdict of a lane of `LDROW` or `STROW` of thread `k` whose offset is in range (R244, R251). -/
def rowJudge (s : State) (who : Who) (k h : Nat) (f : FM) (r : Row) (store : Bool) (a : LaneAccess) : Option Bad :=
  if r.state == .held then
    if store && !r.w then some (.miss { access := 1, reason := 4, level := r.level, va := r.va, row := some h })
    else if a.bad then some (.trap .poison 0)
    else if !store && (rowUnits r [a]).any fun u => poisoned s .dev (forward s .dev u.key) u.size && nothingBefore s k u then
      some (.trap .poison (BitVec.ofNat 64 a.addr))
    else none
  else judge s who (rowRules f store) (if store then none else some k) a

/-- A stale handle was used in this issue (R244, R252). -/
def staleUse (k : Nat) : Micro :=
  .thread k fun t =>
    let n := min 255 ((t.rstat >>> 8).toNat % 256 + 1)
    { t with rstat := (t.rstat &&& 0xFFFF00FF) ||| BitVec.ofNat 32 (n * 256) ||| 1 }

/-- What `LDROW` and `STROW` do (R251): the accesses of a held handle at the row buffer, of a stale one as
`LD` and `ST`. -/
def rowBody (sh : Shape) (f : FM) (store : Bool) (iss : Issue) (s : State) : List Phase :=
  let t := s.thread iss.thr
  match handleOf s iss f.sb.toNat with
  | none => [badRow f.sb.toNat iss]
  | some h =>
    let who := whoOf t
    let r := rowNow s t.ctx h
    let size := szBytes f.sz
    let all := rowAccesses s iss sh f r
    let judged := all.map fun x =>
      (x, (rowRange x.q size ((f.n.toNat + 1) * size) x.a.addr).or (rowJudge s who iss.thr h f r store x.a))
    let inRange := all.filter fun x => (rowRange x.q size ((f.n.toNat + 1) * size) x.a.addr).isNone
    let vs := judged.filterMap fun e => e.2.map fun b => (e.1.a.lane, b)
    let go := spared s iss vs
    let acting := actingLanes s iss go sh.g
    let mine := keepLanes (all.map RowAccess.a) go
    let held := r.state == .held
    let rules := rowRules f store
    let o : Op := { cls := if store then .s else .l, lanes := setOf (mine.map LaneAccess.lane), rowAct := some .access }
    let units := fun (s : State) => if held then rowUnits r mine else unitsOf s who rules mine
    let ps := mine.flatMap LaneAccess.pieces
    (if held then [] else touchAll who store (if mine.isEmpty then [] else touched (unitsOf s who rules mine)))
      ++ [fun s => strike s iss.thr iss.pc iss.lanes vs ++ [moveLanes iss (without go acting)]
            ++ (if !held && !inRange.isEmpty then [staleUse iss.thr] else []),
          fun s => if mine.isEmpty then []
            else if store then sendStoreOf s iss (units s) ps o .store
            else sendLoadOf s iss (units s) ps o held,
          fun _ => [moveLanes iss acting]]

/-- The row access is ready: no region fill is awaited and the miss-status entries suffice (R176, R179). -/
def rowReady (f : FM) (sh : Shape) (store : Bool) (iss : Issue) (s : State) : Bool :=
  match handleOf s iss f.sb.toNat with
  | none => true
  | some h =>
    let r := rowNow s (s.thread iss.thr).ctx h
    if r.state == .held then true
    else accessReady (rowRules f store)
      (fun iss s => (rowAccesses s iss sh f r).filterMap fun x =>
        if (rowRange x.q (szBytes f.sz) ((f.n.toNat + 1) * szBytes f.sz) x.a.addr).isNone then some x.a else none) iss s

/-- LDROW (R251). -/
def execLdrow (f : FM) : State → Host.Outcome State Fault Refusal :=
  let sh := { loadShape f with late := false }
  issue sh (rowBody sh f false) .skip (rowReady f sh false)

/-- STROW (R251). -/
def execStrow (f : FM) : State → Host.Outcome State Fault Refusal :=
  let sh := { storeShape f with late := false }
  issue sh (rowBody sh f true) .skip (rowReady f sh true)

/-! ### RSTAT (R252, R253) -/

/-- The earlier `LDROW`, `STROW` and `RRENEW` of the warp have completed. -/
def rowsQuiet (s : State) (k : Nat) : Bool :=
  (opsOf s k).all fun o => match o.2.rowAct with
    | some .access | some (.renew _) => false
    | _ => true

/-- RSTAT after `clear` (R253). -/
def clearRstat (clear : Nat) (x : W32) : W32 :=
  x &&& ~~~(BitVec.ofNat 32 (clear % 8 + (if has clear 3 then 0xFF00 else 0)))

/-- What `RSTAT.h` gives for an entry. -/
def rowState (r : Row) : W64 :=
  match r.state with
  | .held => BitVec.ofNat 64 r.expiry
  | .stale => 0
  | .free => BitVec.allOnes 64

/-- RSTAT and RSTAT.h (R253). -/
def execRstat (f : FY) : State → Host.Outcome State Fault Refusal :=
  let sd := f.sd.toNat
  if f.id = 0 then
    issue { sdst := [sd] }
      (fun iss s =>
        [fun _ => [writeS iss.thr sd ((s.thread iss.thr).rstat.setWidth 64),
                   .thread iss.thr fun t => { t with rstat := clearRstat f.imm.toNat t.rstat }, moveOn iss]])
      .skip (fun iss s => rowsQuiet s iss.thr)
  else
    issue { ssrc := [f.sa.toNat], sdst := [sd] }
      (fun iss s =>
        let v := scalar s iss f.sa.toNat
        if 64 ≤ v.toNat then [badRow f.sa.toNat iss]
        else [fun _ => [writeS iss.thr sd (rowState (rowNow s (s.thread iss.thr).ctx v.toNat)), moveOn iss]])
      .skip

/-! ### The life of a row (R237, R239, R241) -/

/-- ROW_HOLD_LAPSE (R239): DT has reached the expiry; the handle becomes stale and the close begins. -/
def execRowHoldLapse (ctx h : Nat) (s : State) : Host.Outcome State Fault Refusal :=
  .next <|
    let r := look {} (s.ctx ctx).rows h
    if r.state == .held && (r.seen s).state == .stale then
      run [fun s => [beginClose s r.pa, .ctx ctx fun c => { c with rows := put {} c.rows h { r with state := .stale } }]] s
    else s

/-- Every access to a block that is below a flight key has been performed. -/
def blockQuiet (s : State) (pa before : Nat) : Bool :=
  s.fl.reqs.all fun r => r.2.done || before ≤ r.1 || r.2.space != .dev || r.2.kind == .row
    || forward s .dev r.2.key / 1024 != pa / 1024

/-- ROW_CLOSE (R239, R250): after the earlier accesses the row is written back and closed, and a release
that waits for it gets its time. -/
def execRowClose (pa : Nat) (s : State) : Host.Outcome State Fault Refusal :=
  .next <|
    match s.sys.closing.find? fun e => e.1 / 1024 == pa / 1024 with
    | none => s
    | some e =>
      if blockQuiet s pa e.2 then
        run [fun s =>
          .sys (fun y => { y with closing := y.closing.filter (· != e) })
            :: s.fl.ops.filterMap fun o =>
                if o.2.rowAct == some (.release e.1) then
                  some (.op o.1 fun o => { o with rowAct := some .access, gwct := baseTime s e.1 + 2 })
                else none] s
      else s

/-- SUBARRAY_REFRESH (R240, R241): with no row of the pair open, the subarray is refreshed; its deadline becomes
the time of the base die that holds an address of it plus its interval. -/
def execSubarrayRefresh (sub pa : Nat) (s : State) : Host.Outcome State Fault Refusal :=
  .next <|
    if sub == subOf pa && !rowOpenIn s sub && !rowOpenIn s (partner sub) then
      run [fun s => [.sys fun y => { y with refresh := put 0 y.refresh sub (baseTime s pa + refreshInterval sub) }]] s
    else s

end Sys2Proof.Machine
end

