-- ==== Sys2Proof/WellFormed.lean ====
section
/-! DEFINITION. The well-formed instructions: every field that an instruction leaves unused is zero,
and no field holds a reserved value (R35, R40 to R49). What a word that fails this traps, and what
depends on the executing thread, is the machine's. -/

namespace Sys2Proof

/-! ### Fields that must be zero -/

/-- The FB fields s, m, j, cc, n, off of which `keep` says which are used. -/
def FB.rest (f : FB) (s m j cc n off : Bool) : Bool :=
  (s || f.s == 0) && (m || f.m == 0) && (j || f.j == 0) && (cc || f.cc == 0) && (n || f.n == 0) && (off || f.off == 0)

/-- The second source of FS: imm with i = 1, sb with i = 0 (R47). -/
def FS.second (f : FS) : Bool := if f.i = 1 then f.sb == 0 else f.imm == 0

/-- No second source. -/
def FS.unary (f : FS) : Bool := f.sb == 0 && f.i == 0 && f.imm == 0

/-- Modifiers of a and b that must be zero (R41). -/
def FV2.mods (f : FV2) (a b : Bool) : Bool := (a || (f.na == 0 && f.xa == 0)) && (b || (f.nb == 0 && f.xb == 0))

/-- No modifier at all. -/
def FV3.plain (f : FV3) : Bool :=
  f.na == 0 && f.xa == 0 && f.nb == 0 && f.xb == 0 && f.nc == 0 && f.xc == 0

/-- An integer clamp (R42, R49). -/
def intClamp (cl : BitVec 2) : Bool := cl != 3

/-- The type of group 0x3 (R40), no scale (R43); `clamp` says whether cl is accepted. -/
def FV2.int (f : FV2) (clamp : Bool) : Bool :=
  f.t.toNat ≤ 1 && f.sc == 0 && (if clamp then intClamp f.cl else f.cl == 0)

/-- A binary integer form. -/
def FV2.intBin (f : FV2) (mods clamp : Bool) : Bool := f.int clamp && f.mods mods mods

/-- A unary integer form. -/
def FV2.intUn (f : FV2) (mods clamp : Bool) : Bool := f.int clamp && f.b == 0 && f.mods mods false

/-- No clamp and no scale. -/
def FV2.bare (f : FV2) : Bool := f.cl == 0 && f.sc == 0

/-- A mask register as d (R122). -/
def maskDest (d : BitVec 10) : Bool := d != 0 && decide (d.toNat ≤ 7)

/-- An exchange form without modifiers, clamp or scale. -/
def FV2.exchange (f : FV2) (types : Nat) : Bool := decide (f.t.toNat < types) && f.mods false false && f.bare

/-- A plain access has scope 0 (R44); vx is zero without ix (R44). -/
def FM.base (f : FM) : Bool := (f.k != 0 || f.o == 0) && (f.ix == 1 || f.vx == 0)

/-- No memory order. -/
def FM.plain (f : FM) : Bool := f.k == 0 && f.o == 0 && (f.ix == 1 || f.vx == 0)

/-- An atomic's operation, size and order (R45, R182). -/
def FM.atomic (f : FM) : Bool := f.base && f.sz == 2 && decide (f.n.toNat * 4 + f.h.toNat ≤ 0x0A)

/-- The FT fields that only some instructions use. -/
def FT.rest (f : FT) (acc a sa slot bs sx sp m : Bool) : Bool :=
  (acc || f.acc == 0) && (a || f.a == 0) && (sa || f.sa == 0) && (slot || f.slot == 0)
    && (if bs then f.bs != 3 else f.bs == 0) && (sx || f.sx == 0) && (sp || f.sp == 0) && (m || f.m == 0)

/-- An RMAC or RMACP. -/
def FT.mac (f : FT) : Bool := f.rest true true true true true false false false && f.f == 0

/-- An RLOADB. -/
def FT.loadB (f : FT) : Bool := f.rest false false true true true true true false

/-- The FY fields of which the arguments say which are used. -/
def FY.rest (f : FY) (sd sa id imm : Bool) : Bool :=
  (sd || f.sd == 0) && (sa || f.sa == 0) && (id || f.id == 0) && (imm || f.imm == 0)

/-- The read-only registers of the TIDE set (R313). -/
def tideReadOnly (id : Nat) : Bool := (6 ≤ id && id ≤ 8) || id == 0x0A || id == 0x0B

/-- The numbers that `CSRR` reads (R17, R382). -/
def csrReads (n : Nat) : Bool :=
  n == 0x010 || n == 0x011 || (0x100 ≤ n && n ≤ 0x106) || (0x180 ≤ n && n ≤ 0x18B) || 0xF00 ≤ n

/-- The numbers that `CSRW` writes (R382). -/
def csrWrites (n : Nat) : Bool :=
  n == 0x010 || n == 0x011 || (0x100 ≤ n && n ≤ 0x106 && n != 0x103)
    || (0x180 ≤ n && n ≤ 0x18B && !tideReadOnly (n - 0x180))

/-- The registers of the debug window (R367). -/
def windowId (n : Nat) : Bool := n ≤ 0x44B || (0x450 ≤ n && n ≤ 0x45B) || (0x460 ≤ n && n ≤ 0x4A0)

/-- The reach of a `FENCE` of scope 3; off is zero otherwise (R210). -/
def fenceReach (cc : BitVec 4) (off : BitVec 32) : Bool :=
  if cc = 3 then
    off.toNat % 8 ≤ 5 && off.toNat / 16 % 8 ≤ 4 && off.toNat / 8 % 2 == 0 && off.toNat / 128 == 0
  else off == 0

/-- The source of a `VCVT` accepts modifiers (R165). -/
def cvtMods (t : Nat) : Bool := t ≤ 4 || (7 ≤ t && t ≤ 11)

/-- The result of a `VCVT` accepts cl, by its type (R165). -/
def cvtClamp (t : Nat) : Bool := t ≤ 2 || t == 5 || t == 6 || 12 ≤ t

/-- The fields of a `VCVT` (R165). -/
def FV2.cvt (f : FV2) : Bool :=
  let t := f.t.toNat
  f.mods (cvtMods t) (t == 0) && (t == 0 || f.b == 0) && (cvtClamp t || f.cl == 0)
    && (!(t == 3 || t == 4 || t == 7) || f.sc == 0)

/-- The largest position of VPACK and VUNPK by field width (R170). -/
def packLimit (t : Nat) : Nat := [7, 4, 3, 1].getD t 0

/-- An instruction whose fields its entry admits. A step of the device has no fields to check. -/
def Instr.wellFormed : Instr → Bool
  | .nop f => f.g == 0 && f.rest false false false false false false
  | .bra f => f.rest false false false false true true && decide (f.n.toNat ≤ 1) && (f.n == 0 || f.off == 0)
  | .brc f => f.rest false true false true false true && f.m != 0 && decide (f.cc.toNat ≤ 1)
  | .bru f => f.rest true false false true false true && decide (f.cc.toNat ≤ 5)
  | .brx f | .ret f => f.rest true false false false false false
  | .call f => f.rest true false false false false true
  | .enrol f => f.rest false true true false false false
  | .await f => f.rest false false true false false false
  | .exit f | .yield f => f.rest false false false false false false
  | .rep f => f.g == 0 && f.rest false false false false false true && decide (f.off.toNat < 2 ^ 12)
  | .wait f => f.g == 0 && f.rest false false false false false true && decide (f.off.toNat < 2 ^ 24)
  | .sleep f => f.rest false false false false false true
  | .bar f | .bara f | .barw f => f.rest false false false true false false && decide (f.cc.toNat ≤ 1)
  | .fence f =>
    f.g == 0 && f.rest false false false true true true && decide (f.cc.toNat ≤ 7) && decide (f.n.toNat ≤ 2)
      && fenceReach f.cc f.off
  | .gwct f => f.g == 0 && f.rest true false false false false false
  | .twait f => f.g == 0 && f.rest true false false false false true
  | .sadd f | .ssub f | .smul f | .smulh f | .smulhn f | .sdiv f | .sdivn f | .srem f | .sremn f
  | .sand f | .sor f | .sxor f | .sshl f | .sshr f | .ssra f | .smin f | .sminn f | .smax f | .smaxn f
  | .sseq f | .ssne f | .sslt f | .ssle f | .ssltn f | .sslen f | .ssel f | .sld f | .sst f => f.second
  | .spopc f | .sclz f => f.unary
  | .sli f => f.first.w == 0 && f.first.sa == 0 && f.first.unary
  | .sget f => f.i == 1 && f.w == 0 && f.sa == 0 && f.sb == 0 && decide (f.imm.toNat ≤ 0x18)
  | .vget f =>
    f.i == 1 && f.w == 0 && f.sd == 0 && f.sa == 0 && f.sb == 0 && decide (f.imm.toNat % 2 ^ 22 ≤ 2)
  | .slane f => f.i == 1 && f.w == 0 && f.sa == 0 && f.sb == 0 && decide (f.imm.toNat % 2 ^ 22 < 64)
  | .vsplat f => f.i == 1 && f.w == 0 && f.sd == 0 && f.sb == 0 && f.imm.toNat % 2 ^ 22 == 0
  | .mand f | .mor f | .mxor f | .mandn f =>
    f.w == 0 && f.sd != 0 && decide (f.sd.toNat ≤ 7) && decide (f.sa.toNat ≤ 7) && f.second && decide (f.sb.toNat ≤ 7)
  | .mpopc f | .mtos f => f.w == 0 && decide (f.sa.toNat ≤ 7) && f.unary
  | .mfind f => f.w == 0 && decide (f.sa.toNat ≤ 7) && f.second
  | .mfroms f => f.w == 0 && f.sd != 0 && decide (f.sd.toNat ≤ 7) && f.unary
  | .vadd f | .vsub f | .vmul f | .vabsd f => f.intBin true true
  | .vmulh f | .vmin f | .vmax f => f.intBin true false
  | .vand f | .vor f | .vxor f | .vandn f | .vshr f | .vsra f => f.intBin false false
  | .vshl f => f.int true && f.mods true false
  | .vpopc f | .vclz f | .vbrev f => f.intUn false false
  | .vmov f => f.intUn true true
  | .vcmp f => maskDest f.d && decide (f.t.toNat ≤ 11) && f.bare
  | .vmad f => intClamp f.cl && f.sc == 0
  | .vsel f | .vbfi f => f.plain && f.cl == 0 && f.sc == 0
  | .vbfx f => f.c == 0 && f.plain && f.cl == 0 && f.sc == 0
  | .vmovi f => f.a == 0 && f.na == 0 && f.xa == 0 && decide (f.t.toNat ≤ 2) && f.cl == 0 && f.sc == 0
  | .vaddi f => decide (f.t.toNat ≤ 1) && intClamp f.cl && f.sc == 0
  | .vandi f | .vori f | .vxori f => decide (f.t.toNat ≤ 2) && f.na == 0 && f.xa == 0 && f.cl == 0 && f.sc == 0
  | .vshli f => decide (f.t.toNat ≤ 1) && decide (f.imm.toNat < 32) && intClamp f.cl && f.sc == 0
  | .vshri f | .vsrai f =>
    decide (f.t.toNat ≤ 1) && decide (f.imm.toNat < 32) && f.na == 0 && f.xa == 0 && f.cl == 0 && f.sc == 0
  | .vcmpi f => maskDest f.d && decide (f.t.toNat ≤ 11) && f.cl == 0 && f.sc == 0
  | .vperm f => f.exchange 2
  | .vshfl f => f.exchange 4 && decide (f.b.toNat ≤ 63)
  | .vbcast f => f.exchange 1 && decide (f.b.toNat ≤ 63)
  | .vred f => decide (f.t.toNat ≤ 7) && f.b == 0 && f.mods false false && f.sc == 0
      && (if f.t = 0 then intClamp f.cl else f.cl == 0)
  | .vscan f => f.b == 0 && f.mods false false && f.sc == 0 && (if f.t.toNat % 8 = 0 then intClamp f.cl else f.cl == 0)
  | .vfred f => decide (f.t.toNat ≤ 3) && f.b == 0 && f.mods true false && f.sc == 0
  | .vmatch f => f.exchange 2 && f.b == 0
  | .vmovx f | .vmovxw f => f.exchange 1
  | .vcomp f | .vexpd f => f.exchange 2
  | .vfadd f | .vfsub f | .vfmul f => decide (f.t.toNat ≤ 1)
  | .vfmin f | .vfmax f | .vfminm f | .vfmaxm f => decide (f.t.toNat ≤ 1) && f.sc == 0
  | .vfcmp f => maskDest f.d && decide (f.t.toNat ≤ 7) && f.bare
  | .vfclass f => f.exchange 2 && f.b == 0
  | .vfrnd f => decide (f.t.toNat ≤ 1) && decide (f.b.toNat ≤ 4) && f.mods true false && f.sc == 0
  | .vfldx f => decide (f.t.toNat ≤ 1) && f.mods true false
  | .vfmaF32 _ | .vfmaBf16x2 _ | .vfdot2 _ => true
  | .vrcp f | .vrsq f | .vsqrt f | .vexp2 f | .vlog2 f | .vsin f | .vcos f | .vtanh f =>
    f.t == 0 && f.b == 0 && f.mods true false && f.sc == 0
  | .vcvt f => f.cvt
  | .vqnt f => decide (f.t.toNat ≤ 3) && f.mods true false && f.bare
  | .vdqnt f => decide (f.t.toNat ≤ 3) && f.mods false false
  | .vscl f => decide (f.t.toNat ≤ 3) && f.b == 0 && f.mods true false && f.bare
  | .vrand f => f.exchange 2 && f.a == 0 && f.b == 0
  | .vpack f | .vunpk f => f.exchange 4 && decide (f.b.toNat ≤ packLimit f.t.toNat)
  | .ld f => f.base && f.sz != 3 && decide (f.k.toNat ≤ 1)
  | .st f => f.base && f.sz != 3 && (f.k == 0 || f.k == 2)
  | .ldpk f | .stpk f => f.plain && f.ix == 0 && decide (f.sz.toNat ≤ 1)
  | .pref f => f.plain && f.d == 0 && f.sz == 0 && f.n == 0 && (f.h == 0 || f.h == 3)
  | .disc f | .flush f => f.plain && f.d == 0 && f.sz == 0 && f.n == 0 && f.h == 0
  | .lmap f =>
    f.plain && f.g == 0 && f.d == 0 && f.ix == 0 && f.sz == 0 && f.n == 0 && f.h == 0
      && f.sb != 0 && f.sb != 63 && decide (f.off.toNat ≤ 191)
  | .lunmap f =>
    f.plain && f.g == 0 && f.d == 0 && f.ix == 0 && f.sz == 0 && f.n == 0 && f.h == 0 && f.off == 0
  | .atom f | .atomr f => f.atomic
  | .acas f | .acasw f => f.atomic && f.n == 0 && f.h == 0
  | .ropen f => f.rest true true false true
  | .rrenew f => f.rest true true false false
  | .rrel f => f.rest false true false false
  | .ldrow f | .strow f => f.plain && f.sz != 3 && f.h == 0
  | .rstat f =>
    if f.id = 0 then f.rest true false false true && decide (f.imm.toNat < 16) else f.id == 1 && f.rest true true true false
  | .ractl f => f.rest true false false true && decide (f.imm.toNat ≤ 1)
  | .rastat f => f.rest true false false true && f.imm.toNat / 4 % 64 == 0 && decide (f.imm.toNat < 512)
  | .copy f => f.w == 0 && f.sd == 0 && f.unary && f.sa != 0 && decide (f.sa.toNat ≤ 60)
  | .copy2d f => f.w == 0 && f.sd == 0 && f.unary && f.sa != 0 && decide (f.sa.toNat ≤ 58)
  | .syncinit f => f.w == 0 && f.sd == 0 && f.sa != 0 && f.second
  | .syncwait f => f.w == 0 && f.sa != 0 && f.i == 0 && f.imm == 0
  | .syncrd f => f.w == 0 && f.sa != 0 && f.sb == 0 && f.i == 1 && decide (f.imm.toNat ≤ 1)
  | .qld f | .qldrow f =>
    f.g == 0 && decide (1020 ≤ f.d.toNat) && f.ix == 0 && f.n == 0 && f.o == 0 && f.k == 0 && f.sz != 3
  | .aeloop f => f.w == 0 && f.sa != 0 && f.second
  | .aeend f => f.w == 0 && f.sd == 0 && f.sa == 0 && f.unary
  | .qdrop f =>
    f.w == 0 && f.sd == 0 && f.sa == 0 && f.sb == 0 && f.i == 1 && decide (f.imm.toNat < 2 ^ 12)
      && f.imm.toNat / 4 % 64 == 0
  | .rloadbQ4 f | .rloadbE4m3 f | .rloadbE5m2 f | .rloadbE3m2 f | .rloadbE2m3 f | .rloadbI8 f | .rloadbBf16 f => f.loadB
  | .rcode f => f.rest false false false true false true false false
  | .rmacI8 f | .rmacE4m3 f | .rmacE5m2 f | .rmacBf16 f
  | .rmacpI8 f | .rmacpE4m3 f | .rmacpE5m2 f | .rmacpBf16 f => f.mac
  | .rfence f => f.rest false false false false false false false false && f.f == 0
  | .rdrain f =>
    f.rest true false false false false true false true && f.f == 0 && f.sx != 0 && decide (f.sx.toNat ≤ 59)
      && f.m.toNat / 2 % 4 != 3
  | .rpair f => f.rest false false false false false false false true && f.f == 0 && decide (f.m.toNat ≤ 1)
  | .rstatReef f =>
    f.rest false false false false false true false true && f.f == 0 && (f.m == 0 || f.m == 1 || f.m == 4)
  | .beat f => f.rest false false false true && f.imm != 0 && decide (f.imm.toNat ≤ 255)
  | .tset f => f.rest false true true false && decide (f.id.toNat ≤ 0x0B) && !tideReadOnly f.id.toNat
  | .tread f => f.rest true false true false && decide (f.id.toNat ≤ 0x0B)
  | .pclass f => f.rest false false false true && decide (f.imm.toNat ≤ 2)
  | .launch f =>
    f.rest true true false true && decide (f.imm.toNat ≤ 3) && f.sa != 0 && decide (f.sa.toNat + f.imm.toNat % 2 ≤ 58)
  | .lwait f => f.rest true true false true && (f.imm == 0 || f.imm == 0x100)
  | .mbrecv f =>
    f.rest true false false true && f.sd != 0 && decide (f.sd.toNat ≤ 55) && decide (f.imm.toNat < 512)
      && f.imm.toNat / 4 % 64 == 0
  | .mbsend f =>
    f.rest true true false true && f.sa != 0 && decide (f.sa.toNat ≤ 56) && decide (f.imm.toNat < 512)
      && f.imm.toNat / 4 % 64 == 0
  | .evwait f =>
    f.rest true false false true && f.sd != 0 && decide (f.sd.toNat ≤ 62) && f.imm.toNat % 2 ^ 16 != 0
      && decide (f.imm.toNat < 2 ^ 17)
  | .trap f => f.rest false false false true && decide (f.imm.toNat < 2 ^ 16)
  | .eret f => f.rest false false false true && decide (f.imm.toNat ≤ 1)
  | .csrr f => f.rest true false true false && csrReads f.id.toNat
  | .csrw f => f.rest false true true false && csrWrites f.id.toNat
  | .dbgrd f | .dbgwr f => f.rest true true true false && windowId f.id.toNat
  | .tlbi f => f.rest true true false false
  | .cntrd f => f.rest true false false true && decide (f.imm.toNat < 512) && f.imm.toNat / 8 % 32 == 0
  | .cntcfg f => f.rest false true false true && decide (f.imm.toNat ≤ 7)
  | .freeze f => f.rest true true false true && decide (f.imm.toNat ≤ 3)
  | .halt f => f.rest false false false true && f.imm != 0 && decide (f.imm.toNat ≤ 255)
  | .starvationForce _ _ | .yieldExclusionEnd _ _ | .joinRelease _ _ | .barrierPhaseComplete _
  | .sleepWake _ _ | .waitRelease _ _ | .fenceRelease _ _ | .twaitRelease _ _ | .loadComplete _
  | .storeComplete _ | .sliceLineRequest _ _ | .sliceStore _ | .sliceAtomic _ | .atomicHighHalf _
  | .sliceDiscard _ | .tlbWalk _ _ _ | .secondStageService _ _ | .peerHomeFault _ _ | .trapDelivery _
  | .regionFill _ _ _ | .peerAck _ _ | .peerRequest _ | .hostBarAccess _ _ _ _ | .runaheadEntry _ _
  | .runaheadExit _ | .rowHoldLapse _ _ | .rowClose _ | .subarrayRefresh _ _ | .patrolScrub _ _
  | .copyAccept _ | .copyPieceCount _ _ | .copyPageFault _ _ | .copyComplete _ | .syncwaitRelease _ _
  | .queueEntryFill _ | .reefSerialPhase _ | .reefAccumulatorWrite _ | .reefSlotWrite _ | .reefCodebookWrite _
  | .workgroupPlacement _ | .warpStart _ | .warpSlotRelease _ | .lwaitRelease _ | .evwaitRelease _
  | .mbrecvDelivery _ | .inboundMessage _ _ _ | .payloadCopy _ _ | .outciWrite _ _ _ | .istatClear _ _
  | .imaskWrite _ _ | .registerWrite _ _ | .periodEnd _ | .jobMinimum _ _ _ | .mergeDeadline _ _
  | .tideUpdate _ | .slewApply _ | .clockRelockEnd _ | .sliceEnd _ | .preemptionRequest _ | .contextSave _
  | .preemptionDeadline _ | .saveWatchdog _ | .freezeCut _ | .supplySagTrip _ | .supplySagClear _
  | .throttleStep _ _ _ | .tcritTrip _ | .clusterGate _ | .clusterUngate _ | .tokenIntervalEnd _
  | .tokenGrant _ | .tokenFallback | .pageMigration _ | .oldFrameFree _ | .optimisticMigration _
  | .retirementRequest _ | .channelMove _ | .channelRetired _ | .fabricPortFailure _ | .softErrorCorrected _
  | .uncorrectableError _ | .pairMismatch _ | .livenessTimeout _ | .watchdogKick _ | .tthreshWrite _ _
  | .htimerExpiry _ _ | .harbourInterrupt _ _ _ | .atollCreate | .atollDestroy | .ctxCreate | .ctxDestroy
  | .ctxPreempt | .ctxRestore | .ctxReset | .stewardStart | .ctxImage | .warpKill | .resetAtoll | .resetDie
  | .resetPackageWarm | .resetPackageCold | .powerOn _ | .coreReset _ | .clusterReset _ | .reply | .migrate
  | .tokens | .grants | .queryDeviceIdentifiers | .getFirmwareParameters | .requestUpdate
  | .passComponentTable | .updateComponent | .requestFirmwareData _ _ | .transferComplete | .verifyComplete _
  | .applyComplete | .activateFirmware | .getStatus | .cancelUpdateComponent | .cancelUpdate | .dieHandover _
  | .handoverFailure _ | .updateCommit | .getVersion | .getCapabilities | .negotiateAlgorithms | .getDigests
  | .getCertificate _ _ _ | .challenge _ | .getMeasurements | .keyExchange | .finish | .endSession
  | .sensorThresholdEvent _ | .unassignedOpcode _ | .l1Eviction _ _ _ | .tlbEviction _ _ _ | .frciWrite _ _
  | .svrciWrite _ | .unknownOp | .pairRestartEnd _ | .selfRefreshEntry _ | .tokenOffer _ => true

end Sys2Proof
end

