-- ==== Sys2Proof/Decode.lean ====
section
/-! DEFINITION. Decoding instruction words and encoding instructions (R27 to R29, R34, R52, R53). A
decoder that refuses a word says that the word traps UNDEF. -/

namespace Sys2Proof

/-! ### The formats (R34), bit 63 first -/

/-- The word of format FB. -/
def FB.pack (op : BitVec 10) (f : FB) : W64 :=
  op ++ f.g ++ f.s ++ f.m ++ f.j ++ f.cc ++ f.n ++ f.off

/-- The fields of a word read in format FB. -/
def FB.unpack (w : W64) : FB :=
  { g := w.extractLsb' 51 3, s := w.extractLsb' 45 6, m := w.extractLsb' 42 3, j := w.extractLsb' 40 2,
    cc := w.extractLsb' 36 4, n := w.extractLsb' 32 4, off := w.extractLsb' 0 32 }

/-- The word of format FS. -/
def FS.pack (op : BitVec 10) (f : FS) : W64 :=
  op ++ f.w ++ (0 : BitVec 2) ++ f.sd ++ f.sa ++ f.sb ++ f.i ++ f.imm

/-- The fields of a word read in format FS. -/
def FS.unpack (w : W64) : FS :=
  { w := w.extractLsb' 53 1, sd := w.extractLsb' 45 6, sa := w.extractLsb' 39 6,
    sb := w.extractLsb' 33 6, i := w.extractLsb' 32 1, imm := w.extractLsb' 0 32 }

/-- The word of format FV2. -/
def FV2.pack (op : BitVec 10) (f : FV2) : W64 :=
  op ++ f.g ++ f.d ++ f.a ++ f.b ++ f.t ++ (0 : BitVec 6) ++ f.na ++ f.xa ++ f.nb ++ f.xb ++ (0 : BitVec 2) ++ f.cl ++ f.sc

/-- The fields of a word read in format FV2. -/
def FV2.unpack (w : W64) : FV2 :=
  { g := w.extractLsb' 51 3, d := w.extractLsb' 41 10, a := w.extractLsb' 31 10,
    b := w.extractLsb' 21 10, t := w.extractLsb' 17 4, na := w.extractLsb' 10 1,
    xa := w.extractLsb' 9 1, nb := w.extractLsb' 8 1, xb := w.extractLsb' 7 1, cl := w.extractLsb' 3 2,
    sc := w.extractLsb' 0 3 }

/-- The word of format FV3. -/
def FV3.pack (op : BitVec 10) (f : FV3) : W64 :=
  op ++ f.g ++ f.d ++ f.a ++ f.b ++ f.c ++ f.na ++ f.xa ++ f.nb ++ f.xb ++ f.nc ++ f.xc ++ f.cl ++ f.sc

/-- The fields of a word read in format FV3. -/
def FV3.unpack (w : W64) : FV3 :=
  { g := w.extractLsb' 51 3, d := w.extractLsb' 41 10, a := w.extractLsb' 31 10,
    b := w.extractLsb' 21 10, c := w.extractLsb' 11 10, na := w.extractLsb' 10 1,
    xa := w.extractLsb' 9 1, nb := w.extractLsb' 8 1, xb := w.extractLsb' 7 1, nc := w.extractLsb' 6 1,
    xc := w.extractLsb' 5 1, cl := w.extractLsb' 3 2, sc := w.extractLsb' 0 3 }

/-- The word of format FVI. -/
def FVI.pack (op : BitVec 10) (f : FVI) : W64 :=
  op ++ f.g ++ f.d ++ f.a ++ f.imm ++ f.t ++ f.na ++ f.xa ++ (0 : BitVec 4) ++ f.cl ++ f.sc

/-- The fields of a word read in format FVI. -/
def FVI.unpack (w : W64) : FVI :=
  { g := w.extractLsb' 51 3, d := w.extractLsb' 41 10, a := w.extractLsb' 31 10,
    imm := w.extractLsb' 15 16, t := w.extractLsb' 11 4, na := w.extractLsb' 10 1,
    xa := w.extractLsb' 9 1, cl := w.extractLsb' 3 2, sc := w.extractLsb' 0 3 }

/-- The word of format FM. -/
def FM.pack (op : BitVec 10) (f : FM) : W64 :=
  op ++ f.g ++ f.d ++ f.sb ++ f.vx ++ f.ix ++ f.off ++ f.sz ++ f.n ++ f.h ++ f.o ++ f.k

/-- The fields of a word read in format FM. -/
def FM.unpack (w : W64) : FM :=
  { g := w.extractLsb' 51 3, d := w.extractLsb' 41 10, sb := w.extractLsb' 35 6,
    vx := w.extractLsb' 25 10, ix := w.extractLsb' 24 1, off := w.extractLsb' 12 12,
    sz := w.extractLsb' 10 2, n := w.extractLsb' 7 3, h := w.extractLsb' 5 2, o := w.extractLsb' 2 3,
    k := w.extractLsb' 0 2 }

/-- The word of format FT. -/
def FT.pack (op : BitVec 10) (f : FT) : W64 :=
  op ++ f.g ++ f.acc ++ f.a ++ f.sa ++ f.slot ++ f.bs ++ f.sx ++ f.sp ++ f.f ++ f.m

/-- The fields of a word read in format FT. -/
def FT.unpack (w : W64) : FT :=
  { g := w.extractLsb' 51 3, acc := w.extractLsb' 41 10, a := w.extractLsb' 31 10,
    sa := w.extractLsb' 21 10, slot := w.extractLsb' 19 2, bs := w.extractLsb' 17 2,
    sx := w.extractLsb' 11 6, sp := w.extractLsb' 5 6, f := w.extractLsb' 4 1, m := w.extractLsb' 0 4 }

/-- The word of format FY. -/
def FY.pack (op : BitVec 10) (f : FY) : W64 :=
  op ++ (0 : BitVec 3) ++ f.sd ++ f.sa ++ f.id ++ f.imm

/-- The fields of a word read in format FY. -/
def FY.unpack (w : W64) : FY :=
  { sd := w.extractLsb' 45 6, sa := w.extractLsb' 39 6, id := w.extractLsb' 27 12,
    imm := w.extractLsb' 0 27 }

/-! ### The opcode map (R52) -/

/-- Group 0x0, control, by minor number. -/
def parse0 (minor : Nat) (w : W64) : Option Instr :=
  match minor with
  | 0x00 => some (.nop (FB.unpack w))
  | 0x01 => some (.bra (FB.unpack w))
  | 0x02 => some (.brc (FB.unpack w))
  | 0x03 => some (.bru (FB.unpack w))
  | 0x04 => some (.brx (FB.unpack w))
  | 0x05 => some (.call (FB.unpack w))
  | 0x06 => some (.ret (FB.unpack w))
  | 0x07 => some (.enrol (FB.unpack w))
  | 0x08 => some (.await (FB.unpack w))
  | 0x09 => some (.exit (FB.unpack w))
  | 0x0A => some (.yield (FB.unpack w))
  | 0x0B => some (.rep (FB.unpack w))
  | 0x0C => some (.wait (FB.unpack w))
  | 0x0D => some (.sleep (FB.unpack w))
  | 0x0E => some (.bar (FB.unpack w))
  | 0x0F => some (.bara (FB.unpack w))
  | 0x10 => some (.barw (FB.unpack w))
  | _ => none

/-- Group 0x1, scalar integer, by minor number. -/
def parse1 (minor : Nat) (w : W64) (ext : W64) : Option Instr :=
  match minor with
  | 0x00 => some (.sadd (FS.unpack w))
  | 0x01 => some (.ssub (FS.unpack w))
  | 0x02 => some (.smul (FS.unpack w))
  | 0x03 => some (.smulh (FS.unpack w))
  | 0x04 => some (.smulhn (FS.unpack w))
  | 0x05 => some (.sdiv (FS.unpack w))
  | 0x06 => some (.sdivn (FS.unpack w))
  | 0x07 => some (.srem (FS.unpack w))
  | 0x08 => some (.sremn (FS.unpack w))
  | 0x09 => some (.sand (FS.unpack w))
  | 0x0A => some (.sor (FS.unpack w))
  | 0x0B => some (.sxor (FS.unpack w))
  | 0x0C => some (.sshl (FS.unpack w))
  | 0x0D => some (.sshr (FS.unpack w))
  | 0x0E => some (.ssra (FS.unpack w))
  | 0x0F => some (.smin (FS.unpack w))
  | 0x10 => some (.sminn (FS.unpack w))
  | 0x11 => some (.smax (FS.unpack w))
  | 0x12 => some (.smaxn (FS.unpack w))
  | 0x13 => some (.sseq (FS.unpack w))
  | 0x14 => some (.ssne (FS.unpack w))
  | 0x15 => some (.sslt (FS.unpack w))
  | 0x16 => some (.ssle (FS.unpack w))
  | 0x17 => some (.ssltn (FS.unpack w))
  | 0x18 => some (.sslen (FS.unpack w))
  | 0x19 => some (.spopc (FS.unpack w))
  | 0x1A => some (.sclz (FS.unpack w))
  | 0x1B => some (.ssel (FS.unpack w))
  | 0x1C => some (.sli { first := FS.unpack w, ext })
  | _ => none

/-- Group 0x2, scalar memory, system values and masks, by minor number. -/
def parse2 (minor : Nat) (w : W64) : Option Instr :=
  match minor with
  | 0x00 => some (.sld (FS.unpack w))
  | 0x01 => some (.sst (FS.unpack w))
  | 0x02 => some (.sget (FS.unpack w))
  | 0x03 => some (.vget (FS.unpack w))
  | 0x04 => some (.slane (FS.unpack w))
  | 0x05 => some (.vsplat (FS.unpack w))
  | 0x06 => some (.mand (FS.unpack w))
  | 0x07 => some (.mor (FS.unpack w))
  | 0x08 => some (.mxor (FS.unpack w))
  | 0x09 => some (.mandn (FS.unpack w))
  | 0x0A => some (.mpopc (FS.unpack w))
  | 0x0B => some (.mfind (FS.unpack w))
  | 0x0C => some (.mfroms (FS.unpack w))
  | 0x0D => some (.mtos (FS.unpack w))
  | _ => none

/-- Group 0x3, vector integer, by minor number. -/
def parse3 (minor : Nat) (w : W64) : Option Instr :=
  match minor with
  | 0x00 => some (.vadd (FV2.unpack w))
  | 0x01 => some (.vsub (FV2.unpack w))
  | 0x02 => some (.vmul (FV2.unpack w))
  | 0x03 => some (.vmulh (FV2.unpack w))
  | 0x04 => some (.vmin (FV2.unpack w))
  | 0x05 => some (.vmax (FV2.unpack w))
  | 0x06 => some (.vand (FV2.unpack w))
  | 0x07 => some (.vor (FV2.unpack w))
  | 0x08 => some (.vxor (FV2.unpack w))
  | 0x09 => some (.vandn (FV2.unpack w))
  | 0x0A => some (.vshl (FV2.unpack w))
  | 0x0B => some (.vshr (FV2.unpack w))
  | 0x0C => some (.vsra (FV2.unpack w))
  | 0x0D => some (.vpopc (FV2.unpack w))
  | 0x0E => some (.vclz (FV2.unpack w))
  | 0x0F => some (.vbrev (FV2.unpack w))
  | 0x10 => some (.vabsd (FV2.unpack w))
  | 0x11 => some (.vcmp (FV2.unpack w))
  | 0x12 => some (.vmov (FV2.unpack w))
  | 0x13 => some (.vmad (FV3.unpack w))
  | 0x14 => some (.vsel (FV3.unpack w))
  | 0x15 => some (.vbfx (FV3.unpack w))
  | 0x16 => some (.vbfi (FV3.unpack w))
  | 0x17 => some (.vmovi (FVI.unpack w))
  | 0x18 => some (.vaddi (FVI.unpack w))
  | 0x19 => some (.vandi (FVI.unpack w))
  | 0x1A => some (.vori (FVI.unpack w))
  | 0x1B => some (.vxori (FVI.unpack w))
  | 0x1C => some (.vshli (FVI.unpack w))
  | 0x1D => some (.vshri (FVI.unpack w))
  | 0x1E => some (.vsrai (FVI.unpack w))
  | 0x1F => some (.vcmpi (FVI.unpack w))
  | _ => none

/-- Group 0x4, lane exchange, by minor number. -/
def parse4 (minor : Nat) (w : W64) : Option Instr :=
  match minor with
  | 0x00 => some (.vperm (FV2.unpack w))
  | 0x01 => some (.vshfl (FV2.unpack w))
  | 0x02 => some (.vbcast (FV2.unpack w))
  | 0x03 => some (.vred (FV2.unpack w))
  | 0x04 => some (.vfred (FV2.unpack w))
  | 0x05 => some (.vscan (FV2.unpack w))
  | 0x06 => some (.vmatch (FV2.unpack w))
  | 0x07 => some (.vmovx (FV2.unpack w))
  | 0x08 => some (.vmovxw (FV2.unpack w))
  | 0x09 => some (.vcomp (FV2.unpack w))
  | 0x0A => some (.vexpd (FV2.unpack w))
  | _ => none

/-- Group 0x5, float arithmetic, by minor number. -/
def parse5 (minor : Nat) (w : W64) : Option Instr :=
  match minor with
  | 0x00 => some (.vfadd (FV2.unpack w))
  | 0x01 => some (.vfsub (FV2.unpack w))
  | 0x02 => some (.vfmul (FV2.unpack w))
  | 0x03 => some (.vfmin (FV2.unpack w))
  | 0x04 => some (.vfmax (FV2.unpack w))
  | 0x05 => some (.vfminm (FV2.unpack w))
  | 0x06 => some (.vfmaxm (FV2.unpack w))
  | 0x07 => some (.vfcmp (FV2.unpack w))
  | 0x08 => some (.vfclass (FV2.unpack w))
  | 0x09 => some (.vfrnd (FV2.unpack w))
  | 0x0A => some (.vfldx (FV2.unpack w))
  | 0x0B => some (.vfmaF32 (FV3.unpack w))
  | 0x0C => some (.vfmaBf16x2 (FV3.unpack w))
  | 0x0D => some (.vfdot2 (FV3.unpack w))
  | _ => none

/-- Group 0x6, conversion and special functions, by minor number. -/
def parse6 (minor : Nat) (w : W64) : Option Instr :=
  match minor with
  | 0x00 => some (.vrcp (FV2.unpack w))
  | 0x01 => some (.vrsq (FV2.unpack w))
  | 0x02 => some (.vsqrt (FV2.unpack w))
  | 0x03 => some (.vexp2 (FV2.unpack w))
  | 0x04 => some (.vlog2 (FV2.unpack w))
  | 0x05 => some (.vsin (FV2.unpack w))
  | 0x06 => some (.vcos (FV2.unpack w))
  | 0x07 => some (.vtanh (FV2.unpack w))
  | 0x08 => some (.vcvt (FV2.unpack w))
  | 0x09 => some (.vqnt (FV2.unpack w))
  | 0x0A => some (.vdqnt (FV2.unpack w))
  | 0x0B => some (.vscl (FV2.unpack w))
  | 0x0C => some (.vrand (FV2.unpack w))
  | 0x0D => some (.vpack (FV2.unpack w))
  | 0x0E => some (.vunpk (FV2.unpack w))
  | _ => none

/-- Group 0x7, memory, by minor number. -/
def parse7 (minor : Nat) (w : W64) : Option Instr :=
  match minor with
  | 0x00 => some (.ld (FM.unpack w))
  | 0x01 => some (.st (FM.unpack w))
  | 0x02 => some (.ldpk (FM.unpack w))
  | 0x03 => some (.stpk (FM.unpack w))
  | 0x04 => some (.pref (FM.unpack w))
  | 0x05 => some (.disc (FM.unpack w))
  | 0x06 => some (.flush (FM.unpack w))
  | 0x07 => some (.lmap (FM.unpack w))
  | 0x08 => some (.lunmap (FM.unpack w))
  | 0x09 => some (.atom (FM.unpack w))
  | 0x0A => some (.atomr (FM.unpack w))
  | 0x0B => some (.acas (FM.unpack w))
  | 0x0C => some (.acasw (FM.unpack w))
  | _ => none

/-- Group 0x8, ordering, by minor number. -/
def parse8 (minor : Nat) (w : W64) : Option Instr :=
  match minor with
  | 0x00 => some (.fence (FB.unpack w))
  | 0x01 => some (.gwct (FB.unpack w))
  | 0x02 => some (.twait (FB.unpack w))
  | _ => none

/-- Group 0x9, rows and runahead, by minor number. -/
def parse9 (minor : Nat) (w : W64) : Option Instr :=
  match minor with
  | 0x00 => some (.ropen (FY.unpack w))
  | 0x01 => some (.rrenew (FY.unpack w))
  | 0x02 => some (.rrel (FY.unpack w))
  | 0x03 => some (.ldrow (FM.unpack w))
  | 0x04 => some (.strow (FM.unpack w))
  | 0x05 => some (.rstat (FY.unpack w))
  | 0x06 => some (.ractl (FY.unpack w))
  | 0x07 => some (.rastat (FY.unpack w))
  | _ => none

/-- Group 0xA, copy, sync and access, by minor number. -/
def parseA (minor : Nat) (w : W64) : Option Instr :=
  match minor with
  | 0x00 => some (.copy (FS.unpack w))
  | 0x01 => some (.copy2d (FS.unpack w))
  | 0x02 => some (.syncinit (FS.unpack w))
  | 0x03 => some (.syncwait (FS.unpack w))
  | 0x04 => some (.syncrd (FS.unpack w))
  | 0x05 => some (.qld (FM.unpack w))
  | 0x06 => some (.qldrow (FM.unpack w))
  | 0x07 => some (.aeloop (FS.unpack w))
  | 0x08 => some (.aeend (FS.unpack w))
  | 0x09 => some (.qdrop (FS.unpack w))
  | _ => none

/-- Group 0xB, tensor, by minor number. -/
def parseB (minor : Nat) (w : W64) : Option Instr :=
  match minor with
  | 0x00 => some (.rloadbQ4 (FT.unpack w))
  | 0x01 => some (.rloadbE4m3 (FT.unpack w))
  | 0x02 => some (.rloadbE5m2 (FT.unpack w))
  | 0x03 => some (.rloadbE3m2 (FT.unpack w))
  | 0x04 => some (.rloadbE2m3 (FT.unpack w))
  | 0x05 => some (.rloadbI8 (FT.unpack w))
  | 0x06 => some (.rloadbBf16 (FT.unpack w))
  | 0x07 => some (.rcode (FT.unpack w))
  | 0x08 => some (.rmacI8 (FT.unpack w))
  | 0x09 => some (.rmacE4m3 (FT.unpack w))
  | 0x0A => some (.rmacE5m2 (FT.unpack w))
  | 0x0B => some (.rmacBf16 (FT.unpack w))
  | 0x0C => some (.rmacpI8 (FT.unpack w))
  | 0x0D => some (.rmacpE4m3 (FT.unpack w))
  | 0x0E => some (.rmacpE5m2 (FT.unpack w))
  | 0x0F => some (.rmacpBf16 (FT.unpack w))
  | 0x10 => some (.rfence (FT.unpack w))
  | 0x11 => some (.rdrain (FT.unpack w))
  | 0x12 => some (.rpair (FT.unpack w))
  | 0x13 => some (.rstatReef (FT.unpack w))
  | _ => none

/-- Group 0xC, tide, power and launch, by minor number. -/
def parseC (minor : Nat) (w : W64) : Option Instr :=
  match minor with
  | 0x00 => some (.beat (FY.unpack w))
  | 0x01 => some (.tset (FY.unpack w))
  | 0x02 => some (.tread (FY.unpack w))
  | 0x03 => some (.pclass (FY.unpack w))
  | 0x04 => some (.launch (FY.unpack w))
  | 0x05 => some (.lwait (FY.unpack w))
  | 0x06 => some (.mbrecv (FY.unpack w))
  | 0x07 => some (.mbsend (FY.unpack w))
  | 0x08 => some (.evwait (FY.unpack w))
  | _ => none

/-- Group 0xD, system and trap, by minor number. -/
def parseD (minor : Nat) (w : W64) : Option Instr :=
  match minor with
  | 0x00 => some (.trap (FY.unpack w))
  | 0x01 => some (.eret (FY.unpack w))
  | 0x02 => some (.csrr (FY.unpack w))
  | 0x03 => some (.csrw (FY.unpack w))
  | 0x04 => some (.dbgrd (FY.unpack w))
  | 0x05 => some (.dbgwr (FY.unpack w))
  | 0x06 => some (.tlbi (FY.unpack w))
  | 0x07 => some (.cntrd (FY.unpack w))
  | 0x08 => some (.cntcfg (FY.unpack w))
  | 0x09 => some (.freeze (FY.unpack w))
  | 0x0A => some (.halt (FY.unpack w))
  | _ => none

/-- The instruction of an opcode point and a word's fields, whatever its reserved fields hold. `ext` is the word after
it, which only `SLI` takes. -/
def parseAt (group minor : Nat) (w ext : W64) : Option Instr :=
  match group with
  | 0x0 => parse0 minor w
  | 0x1 => parse1 minor w ext
  | 0x2 => parse2 minor w
  | 0x3 => parse3 minor w
  | 0x4 => parse4 minor w
  | 0x5 => parse5 minor w
  | 0x6 => parse6 minor w
  | 0x7 => parse7 minor w
  | 0x8 => parse8 minor w
  | 0x9 => parse9 minor w
  | 0xA => parseA minor w
  | 0xB => parseB minor w
  | 0xC => parseC minor w
  | 0xD => parseD minor w
  | _ => none

/-- The instruction that a word's opcode and fields name (R52): the group at bits 63:60, the minor at bits 59:54. -/
def parse (w ext : W64) : Option Instr := parseAt (w.extractLsb' 60 4).toNat (w.extractLsb' 54 6).toNat w ext

/-- The words of an instruction; a step of the device has none. -/
def encode : Instr → List W64
  | .nop f => [f.pack 0x000]
  | .bra f => [f.pack 0x001]
  | .brc f => [f.pack 0x002]
  | .bru f => [f.pack 0x003]
  | .brx f => [f.pack 0x004]
  | .call f => [f.pack 0x005]
  | .ret f => [f.pack 0x006]
  | .enrol f => [f.pack 0x007]
  | .await f => [f.pack 0x008]
  | .exit f => [f.pack 0x009]
  | .yield f => [f.pack 0x00A]
  | .rep f => [f.pack 0x00B]
  | .wait f => [f.pack 0x00C]
  | .sleep f => [f.pack 0x00D]
  | .bar f => [f.pack 0x00E]
  | .bara f => [f.pack 0x00F]
  | .barw f => [f.pack 0x010]
  | .sadd f => [f.pack 0x040]
  | .ssub f => [f.pack 0x041]
  | .smul f => [f.pack 0x042]
  | .smulh f => [f.pack 0x043]
  | .smulhn f => [f.pack 0x044]
  | .sdiv f => [f.pack 0x045]
  | .sdivn f => [f.pack 0x046]
  | .srem f => [f.pack 0x047]
  | .sremn f => [f.pack 0x048]
  | .sand f => [f.pack 0x049]
  | .sor f => [f.pack 0x04A]
  | .sxor f => [f.pack 0x04B]
  | .sshl f => [f.pack 0x04C]
  | .sshr f => [f.pack 0x04D]
  | .ssra f => [f.pack 0x04E]
  | .smin f => [f.pack 0x04F]
  | .sminn f => [f.pack 0x050]
  | .smax f => [f.pack 0x051]
  | .smaxn f => [f.pack 0x052]
  | .sseq f => [f.pack 0x053]
  | .ssne f => [f.pack 0x054]
  | .sslt f => [f.pack 0x055]
  | .ssle f => [f.pack 0x056]
  | .ssltn f => [f.pack 0x057]
  | .sslen f => [f.pack 0x058]
  | .spopc f => [f.pack 0x059]
  | .sclz f => [f.pack 0x05A]
  | .ssel f => [f.pack 0x05B]
  | .sli f => [f.first.pack 0x05C, f.ext]
  | .sld f => [f.pack 0x080]
  | .sst f => [f.pack 0x081]
  | .sget f => [f.pack 0x082]
  | .vget f => [f.pack 0x083]
  | .slane f => [f.pack 0x084]
  | .vsplat f => [f.pack 0x085]
  | .mand f => [f.pack 0x086]
  | .mor f => [f.pack 0x087]
  | .mxor f => [f.pack 0x088]
  | .mandn f => [f.pack 0x089]
  | .mpopc f => [f.pack 0x08A]
  | .mfind f => [f.pack 0x08B]
  | .mfroms f => [f.pack 0x08C]
  | .mtos f => [f.pack 0x08D]
  | .vadd f => [f.pack 0x0C0]
  | .vsub f => [f.pack 0x0C1]
  | .vmul f => [f.pack 0x0C2]
  | .vmulh f => [f.pack 0x0C3]
  | .vmin f => [f.pack 0x0C4]
  | .vmax f => [f.pack 0x0C5]
  | .vand f => [f.pack 0x0C6]
  | .vor f => [f.pack 0x0C7]
  | .vxor f => [f.pack 0x0C8]
  | .vandn f => [f.pack 0x0C9]
  | .vshl f => [f.pack 0x0CA]
  | .vshr f => [f.pack 0x0CB]
  | .vsra f => [f.pack 0x0CC]
  | .vpopc f => [f.pack 0x0CD]
  | .vclz f => [f.pack 0x0CE]
  | .vbrev f => [f.pack 0x0CF]
  | .vabsd f => [f.pack 0x0D0]
  | .vcmp f => [f.pack 0x0D1]
  | .vmov f => [f.pack 0x0D2]
  | .vmad f => [f.pack 0x0D3]
  | .vsel f => [f.pack 0x0D4]
  | .vbfx f => [f.pack 0x0D5]
  | .vbfi f => [f.pack 0x0D6]
  | .vmovi f => [f.pack 0x0D7]
  | .vaddi f => [f.pack 0x0D8]
  | .vandi f => [f.pack 0x0D9]
  | .vori f => [f.pack 0x0DA]
  | .vxori f => [f.pack 0x0DB]
  | .vshli f => [f.pack 0x0DC]
  | .vshri f => [f.pack 0x0DD]
  | .vsrai f => [f.pack 0x0DE]
  | .vcmpi f => [f.pack 0x0DF]
  | .vperm f => [f.pack 0x100]
  | .vshfl f => [f.pack 0x101]
  | .vbcast f => [f.pack 0x102]
  | .vred f => [f.pack 0x103]
  | .vfred f => [f.pack 0x104]
  | .vscan f => [f.pack 0x105]
  | .vmatch f => [f.pack 0x106]
  | .vmovx f => [f.pack 0x107]
  | .vmovxw f => [f.pack 0x108]
  | .vcomp f => [f.pack 0x109]
  | .vexpd f => [f.pack 0x10A]
  | .vfadd f => [f.pack 0x140]
  | .vfsub f => [f.pack 0x141]
  | .vfmul f => [f.pack 0x142]
  | .vfmin f => [f.pack 0x143]
  | .vfmax f => [f.pack 0x144]
  | .vfminm f => [f.pack 0x145]
  | .vfmaxm f => [f.pack 0x146]
  | .vfcmp f => [f.pack 0x147]
  | .vfclass f => [f.pack 0x148]
  | .vfrnd f => [f.pack 0x149]
  | .vfldx f => [f.pack 0x14A]
  | .vfmaF32 f => [f.pack 0x14B]
  | .vfmaBf16x2 f => [f.pack 0x14C]
  | .vfdot2 f => [f.pack 0x14D]
  | .vrcp f => [f.pack 0x180]
  | .vrsq f => [f.pack 0x181]
  | .vsqrt f => [f.pack 0x182]
  | .vexp2 f => [f.pack 0x183]
  | .vlog2 f => [f.pack 0x184]
  | .vsin f => [f.pack 0x185]
  | .vcos f => [f.pack 0x186]
  | .vtanh f => [f.pack 0x187]
  | .vcvt f => [f.pack 0x188]
  | .vqnt f => [f.pack 0x189]
  | .vdqnt f => [f.pack 0x18A]
  | .vscl f => [f.pack 0x18B]
  | .vrand f => [f.pack 0x18C]
  | .vpack f => [f.pack 0x18D]
  | .vunpk f => [f.pack 0x18E]
  | .ld f => [f.pack 0x1C0]
  | .st f => [f.pack 0x1C1]
  | .ldpk f => [f.pack 0x1C2]
  | .stpk f => [f.pack 0x1C3]
  | .pref f => [f.pack 0x1C4]
  | .disc f => [f.pack 0x1C5]
  | .flush f => [f.pack 0x1C6]
  | .lmap f => [f.pack 0x1C7]
  | .lunmap f => [f.pack 0x1C8]
  | .atom f => [f.pack 0x1C9]
  | .atomr f => [f.pack 0x1CA]
  | .acas f => [f.pack 0x1CB]
  | .acasw f => [f.pack 0x1CC]
  | .fence f => [f.pack 0x200]
  | .gwct f => [f.pack 0x201]
  | .twait f => [f.pack 0x202]
  | .ropen f => [f.pack 0x240]
  | .rrenew f => [f.pack 0x241]
  | .rrel f => [f.pack 0x242]
  | .ldrow f => [f.pack 0x243]
  | .strow f => [f.pack 0x244]
  | .rstat f => [f.pack 0x245]
  | .ractl f => [f.pack 0x246]
  | .rastat f => [f.pack 0x247]
  | .copy f => [f.pack 0x280]
  | .copy2d f => [f.pack 0x281]
  | .syncinit f => [f.pack 0x282]
  | .syncwait f => [f.pack 0x283]
  | .syncrd f => [f.pack 0x284]
  | .qld f => [f.pack 0x285]
  | .qldrow f => [f.pack 0x286]
  | .aeloop f => [f.pack 0x287]
  | .aeend f => [f.pack 0x288]
  | .qdrop f => [f.pack 0x289]
  | .rloadbQ4 f => [f.pack 0x2C0]
  | .rloadbE4m3 f => [f.pack 0x2C1]
  | .rloadbE5m2 f => [f.pack 0x2C2]
  | .rloadbE3m2 f => [f.pack 0x2C3]
  | .rloadbE2m3 f => [f.pack 0x2C4]
  | .rloadbI8 f => [f.pack 0x2C5]
  | .rloadbBf16 f => [f.pack 0x2C6]
  | .rcode f => [f.pack 0x2C7]
  | .rmacI8 f => [f.pack 0x2C8]
  | .rmacE4m3 f => [f.pack 0x2C9]
  | .rmacE5m2 f => [f.pack 0x2CA]
  | .rmacBf16 f => [f.pack 0x2CB]
  | .rmacpI8 f => [f.pack 0x2CC]
  | .rmacpE4m3 f => [f.pack 0x2CD]
  | .rmacpE5m2 f => [f.pack 0x2CE]
  | .rmacpBf16 f => [f.pack 0x2CF]
  | .rfence f => [f.pack 0x2D0]
  | .rdrain f => [f.pack 0x2D1]
  | .rpair f => [f.pack 0x2D2]
  | .rstatReef f => [f.pack 0x2D3]
  | .beat f => [f.pack 0x300]
  | .tset f => [f.pack 0x301]
  | .tread f => [f.pack 0x302]
  | .pclass f => [f.pack 0x303]
  | .launch f => [f.pack 0x304]
  | .lwait f => [f.pack 0x305]
  | .mbrecv f => [f.pack 0x306]
  | .mbsend f => [f.pack 0x307]
  | .evwait f => [f.pack 0x308]
  | .trap f => [f.pack 0x340]
  | .eret f => [f.pack 0x341]
  | .csrr f => [f.pack 0x342]
  | .csrw f => [f.pack 0x343]
  | .dbgrd f => [f.pack 0x344]
  | .dbgwr f => [f.pack 0x345]
  | .tlbi f => [f.pack 0x346]
  | .cntrd f => [f.pack 0x347]
  | .cntcfg f => [f.pack 0x348]
  | .freeze f => [f.pack 0x349]
  | .halt f => [f.pack 0x34A]
  | .starvationForce _ _ | .yieldExclusionEnd _ _ | .joinRelease _ _ | .barrierPhaseComplete _
  | .sleepWake _ _ | .waitRelease _ _ | .fenceRelease _ _ | .twaitRelease _ _ | .loadComplete _
  | .storeComplete _ | .sliceLineRequest _ _ | .sliceStore _ | .sliceAtomic _ | .atomicHighHalf _
  | .sliceDiscard _ | .tlbWalk _ _ _ | .secondStageService _ _ | .peerHomeFault _ _ | .trapDelivery _
  | .regionFill _ _ _ | .peerAck _ _ | .peerRequest _ | .hostBarAccess _ _ _ _ | .runaheadEntry _ _
  | .runaheadExit _ | .rowHoldLapse _ _ | .rowClose _ | .subarrayRefresh _ _ | .patrolScrub _ _
  | .copyAccept _ | .copyPieceCount _ _ | .copyPageFault _ _ | .copyComplete _ | .syncwaitRelease _ _
  | .queueEntryFill _ | .reefSerialPhase _ | .reefAccumulatorWrite _ | .reefSlotWrite _
  | .reefCodebookWrite _ | .workgroupPlacement _ | .warpStart _ | .warpSlotRelease _ | .lwaitRelease _
  | .evwaitRelease _ | .mbrecvDelivery _ | .inboundMessage _ _ _ | .payloadCopy _ _ | .outciWrite _ _ _
  | .istatClear _ _ | .imaskWrite _ _ | .registerWrite _ _ | .periodEnd _ | .jobMinimum _ _ _
  | .mergeDeadline _ _ | .tideUpdate _ | .slewApply _ | .clockRelockEnd _ | .sliceEnd _
  | .preemptionRequest _ | .contextSave _ | .preemptionDeadline _ | .saveWatchdog _ | .freezeCut _
  | .supplySagTrip _ | .supplySagClear _ | .throttleStep _ _ _ | .tcritTrip _ | .clusterGate _
  | .clusterUngate _ | .tokenIntervalEnd _ | .tokenGrant _ | .tokenFallback | .pageMigration _
  | .oldFrameFree _ | .optimisticMigration _ | .retirementRequest _ | .channelMove _ | .channelRetired _
  | .fabricPortFailure _ | .softErrorCorrected _ | .uncorrectableError _ | .pairMismatch _
  | .livenessTimeout _ | .watchdogKick _ | .tthreshWrite _ _ | .htimerExpiry _ _ | .harbourInterrupt _ _ _
  | .atollCreate | .atollDestroy | .ctxCreate | .ctxDestroy | .ctxPreempt | .ctxRestore | .ctxReset
  | .stewardStart | .ctxImage | .warpKill | .resetAtoll | .resetDie | .resetPackageWarm
  | .resetPackageCold | .powerOn _ | .coreReset _ | .clusterReset _ | .reply | .migrate | .tokens
  | .grants | .queryDeviceIdentifiers | .getFirmwareParameters | .requestUpdate | .passComponentTable
  | .updateComponent | .requestFirmwareData _ _ | .transferComplete | .verifyComplete _ | .applyComplete
  | .activateFirmware | .getStatus | .cancelUpdateComponent | .cancelUpdate | .dieHandover _
  | .handoverFailure _ | .updateCommit | .getVersion | .getCapabilities | .negotiateAlgorithms
  | .getDigests | .getCertificate _ _ _ | .challenge _ | .getMeasurements | .keyExchange | .finish
  | .endSession | .sensorThresholdEvent _ | .unassignedOpcode _ | .l1Eviction _ _ _ | .tlbEviction _ _ _
  | .frciWrite _ _ | .svrciWrite _ | .unknownOp | .pairRestartEnd _ | .selfRefreshEntry _ | .tokenOffer _ => []

/-- The instruction of a word, `ext` being the word after it: its opcode is assigned, its reserved fields
are zero, and its fields are well formed. -/
def decode (w ext : W64) : Option Instr :=
  match parse w ext with
  | some i => if (encode i).head? = some w ∧ i.wellFormed then some i else none
  | none => none

/-- How many bytes an instruction takes (R28). -/
def Instr.length (i : Instr) : Nat := 8 * (encode i).length

/-! ### Bytes (R27) -/

/-- A number from bytes, the first the least significant. -/
def ofBytes : List Byte → Nat
  | [] => 0
  | b :: bs => b.toNat + 256 * ofBytes bs

/-- The first `n` bytes of a number, least significant first. -/
def toBytes : Nat → Nat → List Byte
  | 0, _ => []
  | n + 1, x => BitVec.ofNat 8 x :: toBytes n (x / 256)

/-- The instruction that bytes in memory hold, the word after it included. -/
def decodeBytes (bs : List Byte) : Option Instr :=
  decode (BitVec.ofNat 64 (ofBytes (bs.take 8))) (BitVec.ofNat 64 (ofBytes ((bs.drop 8).take 8)))

/-- The instruction of a row of the opcode table whose bits are `w`, the first word lowest. -/
def decodeTableWord (nbits w : Nat) : Option Instr := decodeBytes (toBytes 16 (w % 2 ^ nbits))

/-! ### Stepping under `REP` (R85) -/

/-- The fields that `REP` may step in an instruction: bit 0 d or acc, 1 a or vx, 2 b or sa, 3 c. A field
that the format does not step, or that the instruction leaves unused, has no bit. -/
def Instr.steps : Instr → Nat
  | .vmovi _ | .vrand _ | .qld _ | .qldrow _ | .rdrain _ => 1
  | .vmad _ | .vsel _ | .vbfi _ | .vfmaF32 _ | .vfmaBf16x2 _ | .vfdot2 _ => 15
  | .vpopc _ | .vclz _ | .vbrev _ | .vmov _ | .vaddi _ | .vandi _ | .vori _ | .vxori _ | .vshli _
  | .vshri _ | .vsrai _ | .vcmpi _ | .vred _ | .vfred _ | .vscan _ | .vmatch _ | .vfclass _ | .vrcp _
  | .vrsq _ | .vsqrt _ | .vexp2 _ | .vlog2 _ | .vsin _ | .vcos _ | .vtanh _ | .vscl _ => 3
  | .rloadbQ4 _ | .rloadbE4m3 _ | .rloadbE5m2 _ | .rloadbE3m2 _ | .rloadbE2m3 _ | .rloadbI8 _
  | .rloadbBf16 _ => 4
  | .vadd _ | .vsub _ | .vmul _ | .vmulh _ | .vmin _ | .vmax _ | .vand _ | .vor _ | .vxor _ | .vandn _
  | .vshl _ | .vshr _ | .vsra _ | .vabsd _ | .vcmp _ | .vbfx _ | .vperm _ | .vshfl _ | .vbcast _
  | .vmovx _ | .vmovxw _ | .vcomp _ | .vexpd _ | .vfadd _ | .vfsub _ | .vfmul _ | .vfmin _ | .vfmax _
  | .vfminm _ | .vfmaxm _ | .vfcmp _ | .vfrnd _ | .vfldx _ | .vqnt _ | .vdqnt _ | .vpack _ | .vunpk _
  | .rmacI8 _ | .rmacE4m3 _ | .rmacE5m2 _ | .rmacBf16 _ | .rmacpI8 _ | .rmacpE4m3 _ | .rmacpE5m2 _
  | .rmacpBf16 _ => 7
  | .pref f | .disc f | .flush f => if f.ix = 1 then 2 else 0
  | .ld f | .st f | .ldpk f | .stpk f | .atom f | .atomr f | .acas f | .acasw f | .ldrow f | .strow f => if f.ix = 1 then 3 else 1
  | .vcvt f => if f.t = 0 then 7 else 3
  | .nop _ | .bra _ | .brc _ | .bru _ | .brx _ | .call _ | .ret _ | .enrol _ | .await _ | .exit _
  | .yield _ | .rep _ | .wait _ | .sleep _ | .bar _ | .bara _ | .barw _ | .sadd _ | .ssub _ | .smul _
  | .smulh _ | .smulhn _ | .sdiv _ | .sdivn _ | .srem _ | .sremn _ | .sand _ | .sor _ | .sxor _ | .sshl _
  | .sshr _ | .ssra _ | .smin _ | .sminn _ | .smax _ | .smaxn _ | .sseq _ | .ssne _ | .sslt _ | .ssle _
  | .ssltn _ | .sslen _ | .spopc _ | .sclz _ | .ssel _ | .sli _ | .sld _ | .sst _ | .sget _ | .vget _
  | .slane _ | .vsplat _ | .mand _ | .mor _ | .mxor _ | .mandn _ | .mpopc _ | .mfind _ | .mfroms _
  | .mtos _ | .lmap _ | .lunmap _ | .fence _ | .gwct _ | .twait _ | .ropen _ | .rrenew _ | .rrel _
  | .rstat _ | .ractl _ | .rastat _ | .copy _ | .copy2d _ | .syncinit _ | .syncwait _ | .syncrd _
  | .aeloop _ | .aeend _ | .qdrop _ | .rcode _ | .rfence _ | .rpair _ | .rstatReef _ | .beat _ | .tset _
  | .tread _ | .pclass _ | .launch _ | .lwait _ | .mbrecv _ | .mbsend _ | .evwait _ | .trap _ | .eret _
  | .csrr _ | .csrw _ | .dbgrd _ | .dbgwr _ | .tlbi _ | .cntrd _ | .cntcfg _ | .freeze _ | .halt _
  | .starvationForce _ _ | .yieldExclusionEnd _ _ | .joinRelease _ _ | .barrierPhaseComplete _
  | .sleepWake _ _ | .waitRelease _ _ | .fenceRelease _ _ | .twaitRelease _ _ | .loadComplete _
  | .storeComplete _ | .sliceLineRequest _ _ | .sliceStore _ | .sliceAtomic _ | .atomicHighHalf _
  | .sliceDiscard _ | .tlbWalk _ _ _ | .secondStageService _ _ | .peerHomeFault _ _ | .trapDelivery _
  | .regionFill _ _ _ | .peerAck _ _ | .peerRequest _ | .hostBarAccess _ _ _ _ | .runaheadEntry _ _
  | .runaheadExit _ | .rowHoldLapse _ _ | .rowClose _ | .subarrayRefresh _ _ | .patrolScrub _ _
  | .copyAccept _ | .copyPieceCount _ _ | .copyPageFault _ _ | .copyComplete _ | .syncwaitRelease _ _
  | .queueEntryFill _ | .reefSerialPhase _ | .reefAccumulatorWrite _ | .reefSlotWrite _
  | .reefCodebookWrite _ | .workgroupPlacement _ | .warpStart _ | .warpSlotRelease _ | .lwaitRelease _
  | .evwaitRelease _ | .mbrecvDelivery _ | .inboundMessage _ _ _ | .payloadCopy _ _ | .outciWrite _ _ _
  | .istatClear _ _ | .imaskWrite _ _ | .registerWrite _ _ | .periodEnd _ | .jobMinimum _ _ _
  | .mergeDeadline _ _ | .tideUpdate _ | .slewApply _ | .clockRelockEnd _ | .sliceEnd _
  | .preemptionRequest _ | .contextSave _ | .preemptionDeadline _ | .saveWatchdog _ | .freezeCut _
  | .supplySagTrip _ | .supplySagClear _ | .throttleStep _ _ _ | .tcritTrip _ | .clusterGate _
  | .clusterUngate _ | .tokenIntervalEnd _ | .tokenGrant _ | .tokenFallback | .pageMigration _
  | .oldFrameFree _ | .optimisticMigration _ | .retirementRequest _ | .channelMove _ | .channelRetired _
  | .fabricPortFailure _ | .softErrorCorrected _ | .uncorrectableError _ | .pairMismatch _
  | .livenessTimeout _ | .watchdogKick _ | .tthreshWrite _ _ | .htimerExpiry _ _ | .harbourInterrupt _ _ _
  | .atollCreate | .atollDestroy | .ctxCreate | .ctxDestroy | .ctxPreempt | .ctxRestore | .ctxReset
  | .stewardStart | .ctxImage | .warpKill | .resetAtoll | .resetDie | .resetPackageWarm
  | .resetPackageCold | .powerOn _ | .coreReset _ | .clusterReset _ | .reply | .migrate | .tokens
  | .grants | .queryDeviceIdentifiers | .getFirmwareParameters | .requestUpdate | .passComponentTable
  | .updateComponent | .requestFirmwareData _ _ | .transferComplete | .verifyComplete _ | .applyComplete
  | .activateFirmware | .getStatus | .cancelUpdateComponent | .cancelUpdate | .dieHandover _
  | .handoverFailure _ | .updateCommit | .getVersion | .getCapabilities | .negotiateAlgorithms
  | .getDigests | .getCertificate _ _ _ | .challenge _ | .getMeasurements | .keyExchange | .finish
  | .endSession | .sensorThresholdEvent _ | .unassignedOpcode _ | .l1Eviction _ _ _ | .tlbEviction _ _ _
  | .frciWrite _ _ | .svrciWrite _ | .unknownOp | .pairRestartEnd _ | .selfRefreshEntry _ | .tokenOffer _ => 0

/-- The low bit of the field that each step bit steps in a word (R85): d or acc, a (vx in format FM), b
or sa, c. -/
def stepPlaces (w : W64) : List Nat :=
  let op := (w.extractLsb' 54 10).toNat
  let isFm := op / 64 == 7 || op == 0x243 || op == 0x244 || op == 0x285 || op == 0x286
  [41, if isFm then 25 else 31, 21, 11]

/-- Adds `n` to the ten-bit field at bit `lo`; the field's unbounded value, and the word. -/
def stepAt (w : W64) (lo n : Nat) : Nat × W64 :=
  let old := (w.extractLsb' lo 10).toNat
  (old + n, w - (BitVec.ofNat 64 old <<< lo) + (BitVec.ofNat 64 ((old + n) % 1024) <<< lo))

/-- A word as execution `k` of a sequence sees it, with the stepped fields that pass v1023, by step
bit. -/
def stepWord (mask stride k : Nat) (w : W64) : W64 × List (Nat × Nat) :=
  (stepPlaces w).zipIdx.foldl (fun acc p =>
    if mask.testBit p.2 then
      let r := stepAt acc.1 p.1 (k * stride)
      (r.2, if 1024 ≤ r.1 then acc.2 ++ [(p.2, r.1)] else acc.2)
    else acc) (w, [])

end Sys2Proof
end

