-- ==== Sys2Proof/Machine/Control.lean ====
section
/-! DEFINITION. Group 0x0, control flow, and the releases of the lanes that its instructions hold (R74
to R100, R258, R259). -/

namespace Sys2Proof.Machine

/-! ### What the group shares -/

/-- The issuing thread is a scalar thread of an SCC or a Harbour core. -/
def onScalar (s : State) : Bool :=
  match s.cur with
  | some iss => (s.thread iss.thr).engine == .scc || (s.thread iss.thr).engine == .harbour
  | none => false

/-- The engines of the control instructions that scalar threads execute too (R50). -/
def ctlEngines : List Engine := [.core, .scc, .harbour]

/-- What a control instruction names; a guard on a scalar engine traps UNDEF (R89). -/
def ctlShape (s : State) (f : FB) (ssrc sdst : List Nat := []) : Shape :=
  { engines := ctlEngines, g := f.g.toNat, undef := onScalar s && f.g != 0, ssrc, sdst }

/-- NOP (R89). -/
def execNop (_ : FB) (s : State) : Host.Outcome State Fault Refusal :=
  issue { engines := ctlEngines } (fun iss _ => [fun _ => [moveOn iss]]) .perform (fun _ _ => true) s

/-- The word after an instruction lies in the same block for every lane of the group (R28, R97). -/
def hasNextWord (s : State) (iss : Issue) : Bool :=
  let t := s.thread iss.thr
  (lanesOf iss.lanes).all fun l =>
    let x := t.lane l
    decide ((iss.pc - x.header).toNat + 8 ≤ 8 * field x.word 57 48)

/-! ### Transfers (R91, R92) -/

/-- A lane's transfer: the address it goes to, or none when it moves on. `never` is a lane that must
trap BADTARGET whatever stands at the address (`BRA.rj` with rcv zero). -/
structure Jump where
  target : Nat
  never  : Bool := false
  deriving DecidableEq, Repr

/-- The verdict of a lane that takes a transfer (R27, R30). -/
def jumpVerdict (s : State) (t : Thread) (j : Jump) : Option Bad :=
  let a := BitVec.ofNat 56 j.target
  let bad := Bad.trap .badTarget (a.setWidth 64)
  if j.never || a.toNat % 8 != 0 then some bad
  else
    match fetch s t a with
    | .error b => some b
    | .ok w => if headerShaped w then none else some bad

/-- A scalar register is marked invalid in the warp's episode. -/
def invalidS (s : State) (iss : Issue) (r : Nat) : Bool :=
  match (s.thread iss.thr).episode with
  | some e => e.badS.contains r
  | none => false

/-- A lane's bit of a mask register is marked invalid in the warp's episode. -/
def invalidM (s : State) (iss : Issue) (m l : Nat) : Bool :=
  match (s.thread iss.thr).episode with
  | some e => e.badM.contains (64 * m + l)
  | none => false

/-- The operation that the transfers share (R91); the lanes that transfer may issue again `far` fc later (R90). In an
episode a lane whose guard bit is invalid falls through (R258). -/
def transfer (far g : Nat) (jump : State → Issue → Nat → Option Jump) (link : State → Issue → List Micro)
    (iss : Issue) (s : State) : List Phase :=
  let t := s.thread iss.thr
  let act := active s iss g
  let sure := (lanesOf act).filter fun l => g = 0 || !invalidM s iss g l
  let jumps := sure.filterMap fun l => (jump s iss l).map fun j => (l, j)
  let vs := jumps.filterMap fun e => (jumpVerdict s t e.2).map fun b => (e.1, b)
  let struck := setOf (vs.map Prod.fst)
  let gone := jumps.filter fun e => !has struck e.1
  let stay := without iss.lanes (setOf (jumps.map Prod.fst))
  [fun s => (if act = 0 then [] else link s iss) ++ strike s iss.thr iss.pc iss.lanes vs
      ++ [.thread iss.thr fun t =>
            (gone.foldl (fun t e => t.updLane e.1 (Lane.transfer (BitVec.ofNat 56 e.2.target))) t).rest s
              (setOf (gone.map Prod.fst)) far,
          moveLanes iss stay]]

/-- The target of a relative transfer (R46). -/
def relative (iss : Issue) (f : FB) : Nat := ((iss.pc.toNat + 8 * f.off.toInt) % 2 ^ 56).toNat

/-- No link is written. -/
def noLink : State → Issue → List Micro := fun _ _ => []

/-- BRA and BRA.rj (R91). The reconvergence offset is that of each lane's own block (R32). -/
def execBra (f : FB) (s : State) : Host.Outcome State Fault Refusal :=
  let jump := fun (s : State) (iss : Issue) (l : Nat) =>
    if f.n = 0 then some { target := relative iss f }
    else
      let x := (s.thread iss.thr).lane l
      let rcv := (BitVec.ofNat 12 (field x.word 15 4)).toInt
      some ({ target := ((x.header.toNat + 8 * rcv) % 2 ^ 56).toNat, never := rcv == 0 } : Jump)
  issue (ctlShape s f) (transfer 3 f.g.toNat jump noLink) .perform (fun _ _ => true) s

/-- BRC (R91); an invalid mask bit falls through (R258). -/
def execBrc (f : FB) : State → Host.Outcome State Fault Refusal :=
  let m := f.m.toNat
  let jump := fun (s : State) (iss : Issue) (l : Nat) =>
    if !invalidM s iss m l && (maskReg s iss m).toNat.testBit l == (f.cc == 0) then
      some ({ target := relative iss f } : Jump)
    else none
  issue { g := f.g.toNat, msrc := [m] } (transfer 3 f.g.toNat jump noLink)

/-- The condition of `BRU` on a signed value (R92). -/
def bruHolds (cc : Nat) (x : W64) : Bool :=
  match cc with
  | 0 => x == 0
  | 1 => x != 0
  | 2 => decide (x.toInt < 0)
  | 3 => decide (0 ≤ x.toInt)
  | 4 => decide (x.toInt ≤ 0)
  | _ => decide (0 < x.toInt)

/-- BRU (R92). -/
def execBru (f : FB) (s : State) : Host.Outcome State Fault Refusal :=
  let r := f.s.toNat
  let jump := fun (s : State) (iss : Issue) (_ : Nat) =>
    if !invalidS s iss r && bruHolds f.cc.toNat (scalar s iss r) then some ({ target := relative iss f } : Jump) else none
  issue (ctlShape s f [r]) (transfer 3 f.g.toNat jump noLink) .perform (fun _ _ => true) s

/-- A transfer to the value of a scalar register. -/
def indirect (r : Nat) (s : State) (iss : Issue) (_ : Nat) : Option Jump :=
  if invalidS s iss r then none else some { target := (scalar s iss r).toNat % 2 ^ 56 }

/-- BRX (R91). -/
def execBrx (f : FB) (s : State) : Host.Outcome State Fault Refusal :=
  issue (ctlShape s f [f.s.toNat]) (transfer 5 f.g.toNat (indirect f.s.toNat) noLink) .perform (fun _ _ => true) s

/-- RET (R91). -/
def execRet (f : FB) (s : State) : Host.Outcome State Fault Refusal :=
  issue (ctlShape s f [f.s.toNat]) (transfer 5 f.g.toNat (indirect f.s.toNat) noLink) .perform (fun _ _ => true) s

/-- CALL (R91): the link is the word after it; in an episode the link write is marked invalid
(R258). -/
def execCall (f : FB) (s : State) : Host.Outcome State Fault Refusal :=
  let r := f.s.toNat
  let jump := fun (_ : State) (iss : Issue) (_ : Nat) => some ({ target := relative iss f } : Jump)
  let link := fun (_ : State) (iss : Issue) => [writeS iss.thr r ((iss.pc + 8).setWidth 64)]
  let badLink := fun (_ : State) (iss : Issue) =>
    if r = 0 then [] else
    [Micro.thread iss.thr fun t =>
      { t with episode := t.episode.map fun (e : Episode) => { e with badS := insertOnce r e.badS } }]
  issue (ctlShape s f [] [r]) (transfer 3 f.g.toNat jump link)
    (.own fun iss s => some (transfer 3 f.g.toNat jump badLink iss s)) (fun _ _ => true) s

/-! ### Joins (R81, R82, R93, R94) -/

/-- A rejoin register as an issue reads it: for the second instruction of an fc as it stood before, less the lanes
that have exited in that fc (R77, R95). -/
def sourceJ (s : State) (iss : Issue) (j : Nat) : W64 :=
  let old := sourceRegs s iss
  old.getJ j &&& ~~~(old.em &&& ~~~(s.thread iss.thr).regs.em)

/-- ENROL (R93); with an empty Active(g) nothing is written (R88). -/
def execEnrol (f : FB) : State → Host.Outcome State Fault Refusal :=
  let m := f.m.toNat
  let j := f.j.toNat
  issue { g := f.g.toNat, msrc := if m = 0 then [] else [m] }
    (fun iss s =>
      let act := active s iss f.g.toNat
      let e := if m = 0 then act else act &&& (maskReg s iss m).toNat
      [fun s => (if act = 0 then []
          else [.thread iss.thr fun t => t.updRegs fun r => r.setJ j (sourceJ s iss j ||| BitVec.ofNat 64 e)]) ++ [moveOn iss]])
    .skip

/-- AWAIT (R94). In an episode it ends the episode, unless no lane would be held (R259). -/
def execAwait (f : FB) : State → Host.Outcome State Fault Refusal :=
  let j := f.j.toNat
  let held := fun (iss : Issue) (s : State) => active s iss f.g.toNat &&& (sourceJ s iss j).toNat
  issue { g := f.g.toNat }
    (fun iss s =>
      [fun _ => [.thread iss.thr fun t => t.updLanes (held iss s) fun l => { l with state := .joining j, hold := .none },
                 moveLanes iss (without iss.lanes (held iss s))]])
    (.own fun iss s =>
      let set := (sourceJ s iss j).toNat
      if held iss s = 0 then some [fun _ => [moveOn iss]]
      else if held iss s = set then
        some [fun _ => [.thread iss.thr fun t => t.updRegs fun r => r.setJ j 0, moveOn iss]]
      else none)

/-- JOIN_RELEASE (R82): the enrolled lanes run on after their `AWAIT`, their bits cleared, 2 fc after the arrival or exit
that releases them (R90). -/
def execJoinRelease (thr j : Nat) (s : State) : Host.Outcome State Fault Refusal :=
  .next <|
    if joinDue s thr j then
      runThread thr [fun s =>
        let set := ((s.thread thr).regs.getJ j).toNat
        [.thread thr fun t =>
          ((t.updLanes set fun l => { Lane.advance 8 l with state := .running }).updRegs fun r => r.setJ j 0).rest s set 2]] s
    else s

/-! ### EXIT (R95) -/

/-- What `EXIT` does for a scalar thread: a steward ends; a handler ends and the lanes of its record end
with it; a firmware thread ends. -/
def scalarExit (k : Nat) (s : State) : List Phase :=
  let t := s.thread k
  match t.level with
  | .handler =>
    [fun s => exitRecord s (t.record - 1), dueReleases (s.trap (t.record - 1)).thr, fun s => dropThread s k]
  | .harbour => [fun s => dropThread s k]
  | _ => [fun s => dropThread s k ++ [.ctx t.ctx fun c => { c with steward := none }]]

/-- EXIT (R95); with an empty Active(g) the group moves on. A lane that would exit ends an episode
(R259). -/
def execExit (f : FB) (s : State) : Host.Outcome State Fault Refusal :=
  issue (ctlShape s f)
    (fun iss s =>
      let act := active s iss f.g.toNat
      if (s.thread iss.thr).engine == .core then
        [fun _ => [.thread iss.thr (Thread.exitLanes act), moveLanes iss (without iss.lanes act)]]
      else scalarExit iss.thr s)
    (.own fun iss s => if active s iss f.g.toNat = 0 then some [fun _ => [moveOn iss]] else none)
    (fun _ _ => true) s

/-! ### YIELD, REP, WAIT, SLEEP -/

/-- YIELD (R96). -/
def execYield (f : FB) (s : State) : Host.Outcome State Fault Refusal :=
  issue (ctlShape s f)
    (fun iss s =>
      let mask := if active s iss f.g.toNat = 0 then 0 else iss.lanes
      [fun _ => [moveOn iss, .thread iss.thr fun t => t.updLanes mask fun l => { l with excluded := 65 }]])
    .skip (fun _ _ => true) s

/-- YIELD_EXCLUSION_END (R96): the exclusion of a lane's group that has run its 64 fc is over, and leaves no mark. -/
def execYieldExclusionEnd (thr lane : Nat) (s : State) : Host.Outcome State Fault Refusal :=
  .next <|
    let t := s.thread thr
    let group := t.laneSet fun l => l.state == .running && l.pc == (t.lane lane).pc
    if (lanesOf group).all fun l => decide ((t.lane l).excluded ≤ 1) then
      run [fun _ => [.thread thr fun t => t.updLanes group fun l => { l with excluded := 0 }]] s
    else s

/-- What stops a `REP` (R85, R97, R290): a trap UNDEF, or the fault of fetching the word after it. -/
def repFail (s : State) (iss : Issue) (mask : Nat) : Option Bad :=
  let t := s.thread iss.thr
  let undef := some (Bad.trap .undef 0)
  if !hasNextWord s iss then undef
  else
    match fetch s t (iss.pc + 8) with
    | .error b => some b
    | .ok w =>
      let op := field w 63 54
      match parse w 0 with
      | none => undef
      | some i =>
        let port := decide (0x2C8 ≤ op) && decide (op ≤ 0x2CF) && (portOf (hasPorts s t) (field w 40 31)).isSome
        if op / 64 == 0 || op == 0x05C || without mask i.steps != 0 || (has mask 1 && port) then undef else none

/-- REP (R97): starts a sequence of the instruction after it. -/
def execRep (f : FB) : State → Host.Outcome State Fault Refusal :=
  let off := f.off.toNat
  issue { engines := ctlEngines }
    (fun iss s =>
      match repFail s iss (off / 64 % 16) with
      | some b => [fun s => strike s iss.thr iss.pc iss.lanes ((lanesOf iss.lanes).map fun l => (l, b))]
      | none =>
        [fun _ => [moveOn iss, .thread iss.thr fun t =>
          { t with seq := some { pc := iss.pc + 8, mask := off / 64 % 16, stride := off / 1024 % 4 + 1
                                 count := off % 64 + 1, lanes := iss.lanes } }]])
    .perform (fun iss s => (s.thread iss.thr).seq.isNone)

/-- The counter condition of a `WAIT` (R98). -/
def Thread.waitHolds (t : Thread) (l s c tt : Nat) : Bool :=
  decide (t.cntL ≤ l) && decide (t.cntS ≤ s) && decide (t.cntC ≤ c) && decide (t.cntT ≤ tt)

/-- Lanes that pass a `WAIT` move on; one with t limit 0 ends the in-use time of tensor registers
(R301). -/
def passWait (k : Nat) (pc : Addr) (mask t : Nat) : Micro :=
  .thread k fun x =>
    let x := x.moveOn pc mask 8
    if t = 0 then { x with reefUse := [] } else x

/-- WAIT (R98). -/
def execWait (f : FB) : State → Host.Outcome State Fault Refusal :=
  let l := f.off.toNat / 2 ^ 18 % 64
  let sc := f.off.toNat / 2 ^ 12 % 64
  let c := f.off.toNat / 2 ^ 6 % 64
  let t := f.off.toNat % 64
  issue { engines := ctlEngines }
    (fun iss s =>
      [fun _ => [if (s.thread iss.thr).waitHolds l sc c t then passWait iss.thr iss.pc iss.lanes t
                 else holdLanes iss iss.lanes (.counters l sc c t)]])
    .skip

/-- The running lanes of a thread that stand where a lane stands, held as it is. -/
def heldGroup (t : Thread) (lane : Nat) : Nat :=
  let x := t.lane lane
  t.laneSet fun l => l.state == .running && l.pc == x.pc && l.hold == x.hold

/-- A lane of a live thread runs and may be released: its warp is in no episode (R256), and its context is active, as
that of any code that executes is (R352). -/
def releasable (s : State) (thr lane : Nat) : Bool :=
  let t := s.thread thr
  t.live && t.episode.isNone && (t.lane lane).live && (t.lane lane).state == .running && (s.ctx t.ctx).active

/-- WAIT_RELEASE (R98): at the latest the next fc finds the condition (R90). -/
def execWaitRelease (thr lane : Nat) (s : State) : Host.Outcome State Fault Refusal :=
  .next <|
    let t := s.thread thr
    let x := t.lane lane
    match x.hold with
    | .counters l sc c tt =>
      if releasable s thr lane && t.waitHolds l sc c tt then
        runThread thr [fun _ => [passWait thr x.pc (heldGroup t lane) tt]] s
      else s
    | _ => s

/-- SLEEP (R99). In an episode it ends the episode, unless no lane would sleep (R259). -/
def execSleep (f : FB) (s : State) : Host.Outcome State Fault Refusal :=
  issue (ctlShape s f)
    (fun iss s =>
      let act := active s iss f.g.toNat
      let wake := dtOf s (s.thread iss.thr) + f.off.toNat
      [fun _ => [.thread iss.thr fun t => t.updLanes act fun l => { l with state := .sleeping wake, hold := .none },
                 moveLanes iss (without iss.lanes act)]])
    (.own fun iss s => if active s iss f.g.toNat = 0 then some [fun _ => [moveOn iss]] else none)
    (fun _ _ => true) s

/-- SLEEP_WAKE (R99): a sleeping lane whose time has come runs on after its `SLEEP`. -/
def execSleepWake (thr lane : Nat) (s : State) : Host.Outcome State Fault Refusal :=
  .next <|
    let t := s.thread thr
    match (t.lane lane).state with
    | .sleeping wake =>
      if t.episode.isNone && decide (wake ≤ dtOf s t) then
        runThread thr [fun _ => [.thread thr fun t => t.updLane lane fun l => { Lane.advance 8 l with state := .running }]] s
      else s
    | _ => s

/-! ### Barriers (R100) -/

/-- Lanes arrive at the barrier: BARA (`op` 1) moves on, BAR (0) and BARW (2) wait. -/
def arriveLanes (k mask op : Nat) (mem : Bool) : Micro :=
  .thread k fun t => t.updLanes mask fun l =>
    if op = 1 then { Lane.advance 8 l with arrived := true }
    else { l with arrived := true, state := .atBarrier mem, hold := .none }

/-- Lanes of a group that have arrived in this phase. -/
def arrivedSet (t : Thread) (mask : Nat) : Nat := t.laneSet (·.arrived) &&& mask

/-- What a barrier instruction does (R100): a .mem form's arrival waits for its release fence. -/
def barrierBody (g op : Nat) (mem : Bool) (iss : Issue) (s : State) : List Phase :=
  let act := active s iss g
  let before := arrivedSet (s.thread iss.thr) act
  let fresh := without act before
  [fun _ =>
    [moveLanes iss (without iss.lanes act),
     .thread iss.thr fun t => t.updLanes before fun l =>
       if op = 1 then Lane.advance 8 l else { l with state := .atBarrier mem, hold := .none },
     if mem then holdLanes iss fresh (.fence .rel 1 iss.start (.arrive op mem)) else arriveLanes iss.thr fresh op mem]]

/-- A barrier instruction in an episode: one that would hold a lane ends it (R257, R259). -/
def barrierAhead (g op : Nat) (iss : Issue) (s : State) : Option (List Phase) :=
  let t := s.thread iss.thr
  let act := active s iss g
  let others := (wgLanes s t.wg).filter fun l => !(l.1 == iss.thr) && !l.2.arrived
  let mine := t.laneSet fun l => l.state != .exited && !l.arrived
  if act = 0 || op = 1 || (others.isEmpty && without mine act == 0) then some [fun _ => [moveOn iss]] else none

/-- BAR (R100). -/
def execBar (f : FB) : State → Host.Outcome State Fault Refusal :=
  issue { g := f.g.toNat } (barrierBody f.g.toNat 0 (f.cc == 1)) (.own (barrierAhead f.g.toNat 0))

/-- BARA (R100). -/
def execBara (f : FB) : State → Host.Outcome State Fault Refusal :=
  issue { g := f.g.toNat } (barrierBody f.g.toNat 1 (f.cc == 1)) (.own (barrierAhead f.g.toNat 1))

/-- BARW (R100). -/
def execBarw (f : FB) : State → Host.Outcome State Fault Refusal :=
  issue { g := f.g.toNat } (barrierBody f.g.toNat 2 (f.cc == 1)) (.own (barrierAhead f.g.toNat 2))

/-- A phase is complete for one warp: arrivals cleared, waiting lanes run on, after an acquire at
workgroup scope in a .mem form (R100). -/
def releaseBarrier (s : State) (t : Thread) : Thread :=
  let waits := t.laneSet fun x => match x.state with | .atBarrier _ => true | _ => false
  Thread.rest s waits 4 <| (members t.width (t.laneSet fun _ => true)).foldl (fun t l =>
    t.updLane l fun x =>
      match x.state with
      | .atBarrier true => { x with arrived := false, state := .running, hold := .fence .acq 1 s.fl.next .done }
      | .atBarrier false => { Lane.advance 8 x with arrived := false, state := .running }
      | _ => { x with arrived := false }) t

/-- BARRIER_PHASE_COMPLETE (R100): what waits may issue again 4 fc after the arrival or exit that completes the phase (R90). -/
def execBarrierPhaseComplete (w : Nat) (s : State) : Host.Outcome State Fault Refusal :=
  .next <|
    if barrierDue s w then
      ((s.wg w).warps).foldl (fun s k => runThread k [fun s => [.thread k (releaseBarrier s)]] s) s
    else s

end Sys2Proof.Machine
end

