-- ==== Sys2Proof/Machine/Scalar.lean ====
section
/-! DEFINITION. Group 0x1, scalar integer (R101 to R108), and group 0x2, scalar memory, system values
and masks (R109 to R114). -/

namespace Sys2Proof.Machine

/-! ### Operands of FS (R47, R104) -/

/-- The engines of group 0x1 (R50). -/
def allEngines : List Engine := [.core, .scc, .harbour, .access]

/-- The second source: imm sign-extended, or register sb. -/
def fsY (f : FS) (s : State) (iss : Issue) : W64 :=
  if f.i = 1 then f.imm.signExtend 64 else scalar s iss f.sb.toNat

/-- The scalar registers that an FS form reads. -/
def fsReads (f : FS) : List Nat := f.sa.toNat :: (if f.i = 1 then [] else [f.sb.toNat])

/-- Applies an operation to 64-bit operands, or under w to their low halves, the result sign-extended
(R104). -/
def sized (w : BitVec 1) (op : (n : Nat) → BitVec n → BitVec n → BitVec n) (x y : W64) : W64 :=
  if w = 1 then (op 32 (x.setWidth 32) (y.setWidth 32)).signExtend 64 else op 64 x y

/-- An instruction of group 0x1: one result, written once (R102). -/
def scalarOp (f : FS) (op : (n : Nat) → BitVec n → BitVec n → BitVec n) : State → Host.Outcome State Fault Refusal :=
  issue { engines := allEngines, ssrc := fsReads f, sdst := [f.sd.toNat] } fun iss s =>
    [fun _ => [writeS iss.thr f.sd.toNat (sized f.w op (scalar s iss f.sa.toNat) (fsY f s iss)), moveOn iss]]

/-- A relation as the number 1 or 0. -/
def truth (n : Nat) (b : Bool) : BitVec n := if b then 1 else 0

/-- The count of leading zeros. -/
def leadingZeros (n : Nat) (x : BitVec n) : Nat := if x.toNat = 0 then n else n - 1 - x.toNat.log2

/-- The count of set bits. -/
def setBits (n : Nat) (x : BitVec n) : Nat := ((List.range n).filter fun i => x.toNat.testBit i).length

/-- The high half of a signed product. -/
def highSigned (n : Nat) (x y : BitVec n) : BitVec n := BitVec.ofInt n (x.toInt * y.toInt / 2 ^ n)

/-- The high half of an unsigned product. -/
def highUnsigned (n : Nat) (x y : BitVec n) : BitVec n := BitVec.ofNat n (x.toNat * y.toNat / 2 ^ n)

/-- Signed division truncated towards zero, −1 by zero (R106). -/
def divSigned (n : Nat) (x y : BitVec n) : BitVec n := if y = 0 then BitVec.allOnes n else x.sdiv y

/-- Unsigned division, all ones by zero (R106). -/
def divUnsigned (n : Nat) (x y : BitVec n) : BitVec n := if y = 0 then BitVec.allOnes n else x / y

/-- A shift amount: the low six bits, five under w (R105). -/
def shiftAmount (n : Nat) (y : BitVec n) : Nat := y.toNat % n

/-! ### The operations of R105 -/

/-- SADD. -/
def execSadd (f : FS) : State → Host.Outcome State Fault Refusal := scalarOp f fun _ x y => x + y
/-- SSUB. -/
def execSsub (f : FS) : State → Host.Outcome State Fault Refusal := scalarOp f fun _ x y => x - y
/-- SMUL. -/
def execSmul (f : FS) : State → Host.Outcome State Fault Refusal := scalarOp f fun _ x y => x * y
/-- SMULH. -/
def execSmulh (f : FS) : State → Host.Outcome State Fault Refusal := scalarOp f highSigned
/-- SMULHN. -/
def execSmulhn (f : FS) : State → Host.Outcome State Fault Refusal := scalarOp f highUnsigned
/-- SDIV (R106). -/
def execSdiv (f : FS) : State → Host.Outcome State Fault Refusal := scalarOp f divSigned
/-- SDIVN (R106). -/
def execSdivn (f : FS) : State → Host.Outcome State Fault Refusal := scalarOp f divUnsigned
/-- SREM: the sign of x, x by zero (R106). -/
def execSrem (f : FS) : State → Host.Outcome State Fault Refusal := scalarOp f fun _ x y => if y = 0 then x else x.srem y
/-- SREMN: x by zero (R106). -/
def execSremn (f : FS) : State → Host.Outcome State Fault Refusal := scalarOp f fun _ x y => if y = 0 then x else x % y
/-- SAND. -/
def execSand (f : FS) : State → Host.Outcome State Fault Refusal := scalarOp f fun _ x y => x &&& y
/-- SOR. -/
def execSor (f : FS) : State → Host.Outcome State Fault Refusal := scalarOp f fun _ x y => x ||| y
/-- SXOR. -/
def execSxor (f : FS) : State → Host.Outcome State Fault Refusal := scalarOp f fun _ x y => x ^^^ y
/-- SSHL. -/
def execSshl (f : FS) : State → Host.Outcome State Fault Refusal := scalarOp f fun n x y => x <<< shiftAmount n y
/-- SSHR. -/
def execSshr (f : FS) : State → Host.Outcome State Fault Refusal := scalarOp f fun n x y => x >>> shiftAmount n y
/-- SSRA. -/
def execSsra (f : FS) : State → Host.Outcome State Fault Refusal := scalarOp f fun n x y => x.sshiftRight (shiftAmount n y)
/-- SMIN. -/
def execSmin (f : FS) : State → Host.Outcome State Fault Refusal := scalarOp f fun _ x y => if y.slt x then y else x
/-- SMINN. -/
def execSminn (f : FS) : State → Host.Outcome State Fault Refusal := scalarOp f fun _ x y => if y.ult x then y else x
/-- SMAX. -/
def execSmax (f : FS) : State → Host.Outcome State Fault Refusal := scalarOp f fun _ x y => if x.slt y then y else x
/-- SMAXN. -/
def execSmaxn (f : FS) : State → Host.Outcome State Fault Refusal := scalarOp f fun _ x y => if x.ult y then y else x
/-- SSEQ. -/
def execSseq (f : FS) : State → Host.Outcome State Fault Refusal := scalarOp f fun n x y => truth n (x == y)
/-- SSNE. -/
def execSsne (f : FS) : State → Host.Outcome State Fault Refusal := scalarOp f fun n x y => truth n (x != y)
/-- SSLT. -/
def execSslt (f : FS) : State → Host.Outcome State Fault Refusal := scalarOp f fun n x y => truth n (x.slt y)
/-- SSLE. -/
def execSsle (f : FS) : State → Host.Outcome State Fault Refusal := scalarOp f fun n x y => truth n (x.sle y)
/-- SSLTN. -/
def execSsltn (f : FS) : State → Host.Outcome State Fault Refusal := scalarOp f fun n x y => truth n (x.ult y)
/-- SSLEN. -/
def execSslen (f : FS) : State → Host.Outcome State Fault Refusal := scalarOp f fun n x y => truth n (x.ule y)
/-- SPOPC. -/
def execSpopc (f : FS) : State → Host.Outcome State Fault Refusal := scalarOp f fun n x _ => BitVec.ofNat n (setBits n x)
/-- SCLZ. -/
def execSclz (f : FS) : State → Host.Outcome State Fault Refusal := scalarOp f fun n x _ => BitVec.ofNat n (leadingZeros n x)

/-- SSEL: the whole of the old sd chooses (R105). -/
def execSsel (f : FS) : State → Host.Outcome State Fault Refusal :=
  let d := f.sd.toNat
  issue { engines := allEngines, ssrc := d :: fsReads f, sdst := [d] } fun iss s =>
    let pick := scalar s iss d
    [fun _ => [writeS iss.thr d (sized f.w (fun _ x y => if pick = 0 then y else x) (scalar s iss f.sa.toNat) (fsY f s iss)), moveOn iss]]

/-- `SLI` is the last word of its block, which traps UNDEF (R28). -/
def sliLast (s : State) : Bool :=
  match s.cur with
  | some iss => !hasNextWord s iss
  | none => false

/-- SLI (R28, R107): the extension word is fetched as the word after it. -/
def execSli (f : FSL) (s : State) : Host.Outcome State Fault Refusal :=
  issue { engines := allEngines, sdst := [f.first.sd.toNat], undef := sliLast s }
    (fun iss s =>
      let t := s.thread iss.thr
      match fetch s t (iss.pc + 8) with
      | .error b => [fun s => strike s iss.thr iss.pc iss.lanes ((lanesOf iss.lanes).map fun l => (l, b))]
      | .ok _ =>
        [fun s => touch s (whoOf t) (iss.pc + 8).toNat false,
         fun _ => [writeS iss.thr f.first.sd.toNat f.ext, moveOn iss 16]])
    .perform (fun _ _ => true) s

/-! ### Scalar memory (R109) -/

/-- The address of `SLD` and `SST`. -/
def fsAddress (f : FS) (s : State) (iss : Issue) : Nat := (scalar s iss f.sa.toNat + fsY f s iss).toNat % 2 ^ 56

/-- The access of `SLD` and `SST`: 8 bytes, or 4 under w. -/
def scalarAccess (f : FS) (iss : Issue) (s : State) : List LaneAccess :=
  let a := fsAddress f s iss
  [{ lane := (lanesOf iss.lanes).headD 0, addr := a,
     pieces := [{ lane := 0, dst := .s f.sd.toNat, bit := 8 * a, width := if f.w = 1 then 32 else 64
                  value := (scalar s iss f.sd.toNat).toNat, sext := f.w == 1 }] }]

/-- The rules of a scalar access. -/
def scalarRules (f : FS) (a : Access) : Rules := { align := if f.w = 1 then 4 else 8, access := a }

/-- A scalar access strikes the whole group, or is sent (R103, R109). -/
def scalarBody (sh : Shape) (r : Rules) (loads : Bool) (as : List LaneAccess) (iss : Issue) (s : State)
    (sending : State → List Micro) : List Phase :=
  let who := whoOf (s.thread iss.thr)
  match ((as.findSome? (judge s who r none)).or (lostBad s iss sh)).or
      (as.findSome? (judge s who r (if loads then some iss.thr else none))) with
  | some b => [fun s => strike s iss.thr iss.pc iss.lanes ((lanesOf iss.lanes).map fun l => (l, b))]
  | none => touchAll who r.access.needW (touched (unitsOf s who r as)) ++ [fun _ => [moveOn iss], sending]

/-- SLD (R109). -/
def execSld (f : FS) : State → Host.Outcome State Fault Refusal :=
  let sh : Shape := { engines := ctlEngines, ssrc := fsReads f, sdst := [f.sd.toNat], cls := .l, late := true }
  let r := scalarRules f .read
  issue sh
    (fun iss s => scalarBody sh r true (scalarAccess f iss s) iss s fun s =>
      sendLoad s iss r (scalarAccess f iss s) { cls := .l, lanes := iss.lanes } false)
    (.own fun iss s => some (aheadLoads s iss sh r (scalarAccess f iss s)))
    (accessReady r (scalarAccess f))

/-- SST (R109). -/
def execSst (f : FS) : State → Host.Outcome State Fault Refusal :=
  let sh : Shape := { engines := ctlEngines, ssrc := f.sd.toNat :: fsReads f, cls := .s, late := true }
  let r := scalarRules f .write
  issue sh
    (fun iss s => scalarBody sh r false (scalarAccess f iss s) iss s fun s' =>
      sendStore s' iss r (scalarAccess f iss s) { cls := .s, lanes := iss.lanes } .store)
    .skip (accessReady r (scalarAccess f))

/-! ### System values (R110) -/

/-- The Lagoon window's first address (R172). -/
def lagoonBase : Nat := 0x00FFFFFFC0000000

/-- One operand word of a launch (R339). -/
def Launch.operand (e : Launch) (i : Nat) : W64 := e.ops.getD i 0

/-- The index-space extents of a launch. -/
def Launch.gx (e : Launch) : Nat := field (e.operand 2) 31 0
def Launch.gy (e : Launch) : Nat := field (e.operand 2) 63 32
def Launch.gz (e : Launch) : Nat := field (e.operand 3) 31 0
/-- The launch rectangle in the layout of `SGET #0x17`. -/
def Launch.rect (e : Launch) : Nat := field (e.operand 3) 63 32
/-- The shape word's fields. -/
def Launch.width (e : Launch) : Nat := field (e.operand 4) 7 0
def Launch.budget (e : Launch) : Nat := field (e.operand 4) 18 8
def Launch.warps (e : Launch) : Nat := field (e.operand 4) 24 20
def Launch.ifp (e : Launch) : Bool := has (e.operand 4).toNat 28
def Launch.lagoon (e : Launch) : Nat := field (e.operand 4) 55 32

/-- Coordinates of a workgroup (R342): N = x + gx × (y + gy × z). -/
def Launch.coords (e : Launch) (n : Nat) : Nat × Nat × Nat := (n % e.gx, n / e.gx % e.gy, n / e.gx / e.gy)

/-- The Lagoon-window address of a workgroup's allocation; all ones without one (R110). -/
def lagoonAddress (w : Wg) : W64 :=
  if w.bytes = 0 then BitVec.allOnes 64
  else BitVec.ofNat 64 (lagoonBase + clusterOf w.core * 2 ^ 24 + w.lagoon)

/-- The address of a workgroup's Lagoon allocation by its launch, as `SGET #0x10` and an access thread
see it. -/
def launchLagoon (s : State) (t : Thread) : W64 :=
  if ((s.ctx t.ctx).launch t.launch).lagoon = 0 then BitVec.allOnes 64 else lagoonAddress (s.wg t.wg)

/-- System value `n` (R110). Values without a meaning on the engine read all ones. -/
def systemValue (s : State) (iss : Issue) (n : Nat) : W64 :=
  let t := s.thread iss.thr
  let e := (s.ctx t.ctx).launch t.launch
  let w := s.wg t.wg
  let c := e.coords w.index
  let cl := s.cluster t.cluster
  let ones := BitVec.allOnes 64
  let num := fun (x : Nat) => BitVec.ofNat 64 x
  let warp := t.engine == .core
  let har := t.engine == .harbour
  let mine := fun (x : W64) => if warp then x else ones
  match n with
  | 0x00 => num (dtOf s t)
  | 0x01 => if warp then num t.core else ones
  | 0x02 => if har then ones else num t.slot
  | 0x03 => if har then ones else num t.cluster
  | 0x04 => num t.die
  | 0x05 => num t.width
  | 0x06 => mine (num t.budget)
  | 0x07 => mine (num c.1)
  | 0x08 => mine (num c.2.1)
  | 0x09 => mine (num c.2.2)
  | 0x0A => mine (num t.warp)
  | 0x0B => mine (num e.gx)
  | 0x0C => mine (num e.gy)
  | 0x0D => mine (num e.gz)
  | 0x0E => mine (num e.warps)
  | 0x0F => mine (e.operand 5)
  | 0x10 => mine (launchLagoon s t)
  | 0x11 => mine (num e.lagoon)
  | 0x12 => mine (num t.launch)
  | 0x13 => if har then ones else num t.ctx
  | 0x14 => if har then ones else num (s.ctx t.ctx).atoll
  | 0x15 => if warp then (sourceRegs s iss).em else 1
  | 0x16 => num iss.lanes
  | 0x17 => mine (num e.rect)
  | _ => if har then ones else num (cl.step % 16 + cl.ratio % 4 * 2 ^ 8)

/-- SGET (R110). -/
def execSget (f : FS) : State → Host.Outcome State Fault Refusal :=
  issue { engines := ctlEngines, sdst := [f.sd.toNat] } fun iss s =>
    [fun _ => [writeS iss.thr f.sd.toNat (systemValue s iss f.imm.toNat), moveOn iss]]

/-! ### The bridge to the lanes (R111, R112) -/

/-- The vector register in imm bits 31:22. -/
def fsVreg (f : FS) : Nat := f.imm.toNat / 2 ^ 22

/-- VGET (R111). -/
def execVget (f : FS) : State → Host.Outcome State Fault Refusal :=
  let d := fsVreg f
  issue { vdst := [d] } fun iss s =>
    let t := s.thread iss.thr
    let value := fun (l : Nat) => match f.imm.toNat % 256 with
      | 0 => l
      | 1 => t.warp * t.width + l
      | _ => if has t.regs.em.toNat l then 1 else 0
    [fun s => writeVec s iss d ((lanesOf iss.lanes).map fun l => (l, BitVec.ofNat 32 (value l))) ++ [moveOn iss]]

/-- `SLANE` names a lane at or above the warp width (R112). -/
def laneBeyond (s : State) (lane : Nat) : Bool :=
  match s.cur with
  | some iss => decide ((s.thread iss.thr).width ≤ lane)
  | none => false

/-- Marks of an instruction in an episode whose scalar result comes from one lane (R117). -/
def markScalar (iss : Issue) (d : Nat) (bad : Bool) : Micro :=
  if d = 0 then .fresh 0 else
  .thread iss.thr fun t =>
    { t with episode := t.episode.map fun (e : Episode) => { e with badS := mark bad d e.badS } }

/-- SLANE (R112). -/
def execSlane (f : FS) (s : State) : Host.Outcome State Fault Refusal :=
  let lane := f.imm.toNat % 64
  let d := f.sd.toNat
  let sh : Shape := { vsrc := [fsVreg f], sdst := [d], wide := true, undef := laneBeyond s lane }
  let body := fun (iss : Issue) (s : State) =>
    [fun (_ : State) => [writeS iss.thr d ((operand s iss sh 0 lane).setWidth 64), moveOn iss]]
  issue sh
    (fun iss s =>
      if poisonedLane s iss sh lane then [fun s => trapGroup s iss .poison] else body iss s)
    (.own fun iss s =>
      let t := s.thread iss.thr
      let e : Episode := t.episode.getD {}
      let bad := (portOf (hasPorts s t) (fsVreg f)).isSome || e.badV.contains (64 * fsVreg f + lane)
      some (andThen (body iss s) fun _ => [markScalar iss d bad]))
    (fun _ _ => true) s

/-- VSPLAT (R112). -/
def execVsplat (f : FS) : State → Host.Outcome State Fault Refusal :=
  let d := fsVreg f
  issue { vdst := [d], ssrc := [f.sa.toNat] } fun iss s =>
    let x := (scalar s iss f.sa.toNat).setWidth 32
    [fun s => writeVec s iss d ((lanesOf iss.lanes).map fun l => (l, x)) ++ [moveOn iss]]

/-! ### Masks (R113, R114) -/

/-- The lanes below the warp width, as a word. -/
def widthMask (t : Thread) : W64 := BitVec.ofNat 64 (firstLanes t.width)

/-- A source mask: a mask register, or the lanes of the group for field 0 (R113). -/
def maskSource (s : State) (iss : Issue) (n : Nat) : W64 :=
  if n = 0 then BitVec.ofNat 64 iss.lanes else maskReg s iss n

/-- Writes a mask register, bits at or above the width zero (R113). -/
def writeM (k n : Nat) (v : W64) : Micro := .thread k fun t => t.updRegs fun r => r.setM n (v &&& widthMask t)

/-- The mask registers among mask fields. -/
def maskFields (l : List Nat) : List Nat := l.filter (· != 0)

/-- A binary mask instruction. -/
def maskOp (f : FS) (op : W64 → W64 → W64) : State → Host.Outcome State Fault Refusal :=
  issue { engines := ctlEngines, msrc := maskFields (f.sa.toNat :: (if f.i = 1 then [] else [f.sb.toNat])), mdst := [f.sd.toNat] }
    fun iss s =>
      let y := if f.i = 1 then f.imm.signExtend 64 else maskSource s iss f.sb.toNat
      [fun _ => [writeM iss.thr f.sd.toNat (op (maskSource s iss f.sa.toNat) y), moveOn iss]]

/-- MAND. -/
def execMand (f : FS) : State → Host.Outcome State Fault Refusal := maskOp f fun a y => a &&& y
/-- MOR. -/
def execMor (f : FS) : State → Host.Outcome State Fault Refusal := maskOp f fun a y => a ||| y
/-- MXOR. -/
def execMxor (f : FS) : State → Host.Outcome State Fault Refusal := maskOp f fun a y => a ^^^ y
/-- MANDN. -/
def execMandn (f : FS) : State → Host.Outcome State Fault Refusal := maskOp f fun a y => a &&& ~~~y

/-- A mask instruction with a scalar result. -/
def maskRead (f : FS) (ssrc : List Nat) (value : Issue → State → W64) : State → Host.Outcome State Fault Refusal :=
  issue { engines := ctlEngines, msrc := maskFields [f.sa.toNat], ssrc, sdst := [f.sd.toNat] } fun iss s =>
    [fun _ => [writeS iss.thr f.sd.toNat (value iss s), moveOn iss]]

/-- MPOPC. -/
def execMpopc (f : FS) : State → Host.Outcome State Fault Refusal :=
  maskRead f [] fun iss s => BitVec.ofNat 64 (setBits 64 (maskSource s iss f.sa.toNat))

/-- The lowest set bit at or above `k`, or −1. -/
def findFrom (m : W64) (k : Nat) : W64 :=
  match (lanesOf m.toNat).find? fun i => decide (k ≤ i) with
  | some i => BitVec.ofNat 64 i
  | none => BitVec.allOnes 64

/-- MFIND. -/
def execMfind (f : FS) : State → Host.Outcome State Fault Refusal :=
  maskRead f (if f.i = 1 then [] else [f.sb.toNat]) fun iss s =>
    findFrom (maskSource s iss f.sa.toNat) ((fsY f s iss).toNat % 64)

/-- MFROMS. -/
def execMfroms (f : FS) : State → Host.Outcome State Fault Refusal :=
  issue { engines := ctlEngines, ssrc := [f.sa.toNat], mdst := [f.sd.toNat] } fun iss s =>
    [fun _ => [writeM iss.thr f.sd.toNat (scalar s iss f.sa.toNat), moveOn iss]]

/-- MTOS. -/
def execMtos (f : FS) : State → Host.Outcome State Fault Refusal :=
  maskRead f [] fun iss s => maskSource s iss f.sa.toNat

end Sys2Proof.Machine
end

