-- ==== Sys2Proof/Machine/AccessEngine.lean ====
section
/-! DEFINITION. The access engine: the pushes and loops of access threads, the filling of queue entries, and
QDROP (R277 to R284). -/

namespace Sys2Proof.Machine

/-! ### Pushes (R278, R280) -/

/-- The warp that an access thread accompanies. -/
def accompanied (t : Thread) : Nat := warpKey t.core t.slot

/-- The port that a push names. -/
def portPushed (f : FM) : Nat := f.d.toNat - 1020

/-- The port has a place (R278). -/
def portRoom (f : FM) (iss : Issue) (s : State) : Bool :=
  decide (((s.thread (accompanied (s.thread iss.thr))).queue (portPushed f)).length < 16)

/-- The byte offset of a lane from the base of a push. -/
def pushOffset (f : FM) (l : Nat) : Int := f.off.toInt + (l * f.vx.toNat * szBytes f.sz : Nat)

/-- The lanes of the accompanied warp whose EM bit is set. -/
def pushLanes (s : State) (t : Thread) : List Nat :=
  let w := s.thread (accompanied t)
  members w.width w.regs.em.toNat

/-- The element of one lane. -/
def pushAccess (f : FM) (id addr l : Nat) : LaneAccess :=
  { lane := l, addr, pieces := [{ lane := l, dst := .q (portPushed f) id l, bit := 8 * addr, width := 8 * szBytes f.sz }] }

/-- The rank of what a lane met (R280, R361). -/
def Bad.rank : Bad → Nat
  | .trap c _ => c.rank
  | .miss _ => 7

/-- The one verdict of a push: the lowest rank, of its lowest lane (R280). -/
def worst : List Bad → Option Bad
  | [] => none
  | b :: bs =>
    match worst bs with
    | some x => if x.rank < b.rank then some x else some b
    | none => some b

/-- Reserves an entry and sends its loads; the thread moves on. -/
def pushEntry (f : FM) (iss : Issue) (units : State → List UnitAt) (as : Nat → List LaneAccess) (acq : Bool) : Phase := fun s =>
  let id := s.fl.next
  let p := portPushed f
  .thread (accompanied (s.thread iss.thr)) (fun t =>
      { t with queues := (List.range 4).map fun q => if q = p then t.queue q ++ [{ id }] else t.queue q })
    :: sendLoadOf s iss (units s) ((as id).flatMap LaneAccess.pieces) { cls := .q, lanes := 1 } acq
    ++ [moveOn iss]

/-- The thread meets a push's verdict. -/
def pushStruck (iss : Issue) (b : Bad) : Phase := fun s => strike s iss.thr iss.pc iss.lanes [(0, b)]

/-- The rules of a push's element (R280): a load of size S at warp scope, plain. -/
def pushRules (f : FM) : Rules :=
  { align := szBytes f.sz, allowed := fun p => p != .mmio || f.sz == 2 }

/-- A push of elements at virtual addresses. -/
def pushBody (f : FM) (iss : Issue) (as : Nat → List LaneAccess) (s : State) : List Phase :=
  let who := whoOf (s.thread iss.thr)
  let r := pushRules f
  match worst ((as 0).filterMap (judge s who r none)) with
  | some b => [pushStruck iss b]
  | none =>
    let units := fun (s : State) => unitsOf s who r (as 0)
    touchAll who false (if (as 0).isEmpty then [] else touched (units s))
      ++ [pushEntry f iss units as false]

/-- The accesses of a `QLD`. -/
def qldAccesses (f : FM) (iss : Issue) (s : State) (id : Nat) : List LaneAccess :=
  let base : Int := (scalar s iss f.sb.toNat).toNat
  (pushLanes s (s.thread iss.thr)).map fun l => pushAccess f id (((base + pushOffset f l) % 2 ^ 56).toNat) l

/-- QLD (R280). -/
def execQld (f : FM) : State → Host.Outcome State Fault Refusal :=
  issue { engines := [.access], ssrc := [f.sb.toNat] } (fun iss s => pushBody f iss (qldAccesses f iss s) s) .perform
    (fun iss s => portRoom f iss s && accessReady (pushRules f) (fun iss s => qldAccesses f iss s 0) iss s)

/-- The accesses of a `QLDROW` through a row-table entry, with their offsets. -/
def qldrowAccesses (f : FM) (iss : Issue) (s : State) (r : Row) (id : Nat) : List RowAccess :=
  (pushLanes s (s.thread iss.thr)).map fun l =>
    let q := pushOffset f l
    { q, a := pushAccess f id ((((r.va : Int) + q) % 2 ^ 56).toNat) l }

/-- QLDROW (R244, R251, R280). -/
def execQldrow (f : FM) : State → Host.Outcome State Fault Refusal :=
  let size := szBytes f.sz
  issue { engines := [.access], ssrc := [f.sb.toNat] }
    (fun iss s =>
      let t := s.thread iss.thr
      match handleOf s iss f.sb.toNat with
      | none => [badRow f.sb.toNat iss]
      | some h =>
        let who := whoOf t
        let r := rowNow s t.ctx h
        let xs := qldrowAccesses f iss s r 0
        let inRange := fun (x : RowAccess) => (rowRange x.q size size x.a.addr).isNone
        let verdict := fun (x : RowAccess) =>
          (rowRange x.q size size x.a.addr).or (if r.state == .held then none else judge s who (pushRules f) none x.a)
        let stale := if r.state != .held && xs.any inRange then [fun (_ : State) => [staleUse (accompanied t)]] else []
        match worst (xs.filterMap verdict) with
        | some b => stale ++ [pushStruck iss b]
        | none =>
          let as := fun id => (qldrowAccesses f iss s r id).map RowAccess.a
          if r.state == .held then
            [pushEntry f iss (fun _ => rowUnits r (as 0)) as true]
          else
            let units := fun (s : State) => unitsOf s who (pushRules f) (as 0)
            stale ++ touchAll who false (if (as 0).isEmpty then [] else touched (units s))
              ++ [pushEntry f iss units as false])
    .perform (fun iss s => portRoom f iss s)

/-- The values of an entry whose data has arrived. -/
def entryValues (o : Op) (id : Nat) : Sparse W32 :=
  o.elems.foldl (fun m e => match e.dst with
    | .q _ n l => if n = id then put 0 m l ((elemValue o e).setWidth 32) else m
    | _ => m) []

/-- QUEUE_ENTRY_FILL (R278): every element of a reserved entry has arrived. -/
def execQueueEntryFill (n : Nat) (s : State) : Host.Outcome State Fault Refusal :=
  .next <|
    let o := s.op n
    if o.live && o.cls == .q && (reqsOf s n).all fun r => r.2.done then
      run [fun s =>
        .thread (accompanied (s.thread o.thr)) (fun t =>
            { t with queues := t.queues.map fun q => q.map fun (e : Entry) =>
                if e.id == n && !e.filled then { e with filled := true, values := entryValues o n, poison := o.poison } else e })
          :: dropOp s n] s
    else s

/-! ### Loops (R281) -/

/-- The lane goes back to the word after an `AELOOP`; past the end of its block it meets the word there. -/
def Lane.backTo (p : Loop) (l : Lane) : Lane :=
  let past := decide (8 * field p.word 57 48 < (p.back - p.header).toNat)
  { l with pc := p.back, header := p.header, word := p.word, need := if past then .fall else .none, hold := .none
           rewritten := false }

/-- The count of an `AELOOP`. -/
def loopCount (f : FS) (s : State) (iss : Issue) : Int :=
  if f.i = 1 then f.imm.toInt else ((scalar s iss f.sb.toNat).setWidth 32).toInt

/-- AELOOP (R281). -/
def execAeloop (f : FS) : State → Host.Outcome State Fault Refusal :=
  issue { engines := [.access], ssrc := if f.i = 1 then [] else [f.sb.toNat] } fun iss s =>
    let n := loopCount f s iss
    let t := s.thread iss.thr
    if n ≤ 0 then [fun _ => [.thread iss.thr fun t => { t with skip := 1 }, moveOn iss]]
    else if 4 ≤ t.loops.length then [fun s => trapGroup s iss .undef]
    else
      let l := t.lane 0
      [fun _ => [.thread iss.thr fun t =>
          { t with loops := { count := n.toNat, sd := f.sd.toNat, sa := f.sa.toNat, back := iss.pc + 8
                              header := l.header, word := l.word } :: t.loops },
        moveOn iss]]

/-- AEEND (R281): the thread ends, or its innermost loop steps. -/
def execAeend (_ : FS) : State → Host.Outcome State Fault Refusal :=
  issue { engines := [.access] } fun iss s =>
    match (s.thread iss.thr).loops with
    | [] => [fun _ => [.thread iss.thr Thread.endAccess]]
    | p :: rest =>
      let step := Micro.thread iss.thr fun t => t.updRegs fun r => r.setS p.sd (r.getS p.sd + r.getS p.sa)
      if 1 < p.count then
        [fun _ => [step, .thread iss.thr fun t =>
          { t.updLane 0 (Lane.backTo p) with loops := { p with count := p.count - 1 } :: rest }]]
      else [fun _ => [step, .thread iss.thr (fun t => { t with loops := rest }), moveOn iss]]

/-! ### QDROP (R282) -/

/-- The issuing warp has no access slice. -/
def noPorts (s : State) : Bool :=
  match s.cur with
  | some iss => !hasPorts s (s.thread iss.thr)
  | none => false

/-- QDROP (R282). -/
def execQdrop (f : FS) (s : State) : Host.Outcome State Fault Refusal :=
  let p := f.imm.toNat % 4
  let k := f.imm.toNat / 256 + 1
  issue { undef := noPorts s }
    (fun iss _ => [fun _ => [.thread iss.thr (fun t =>
        { t with queues := (List.range 4).map fun q => if q = p then (t.queue q).drop k else t.queue q }), moveOn iss]])
    .skip
    (fun iss s =>
      let t := s.thread iss.thr
      let q := t.queue p
      (s.thread (accessKey t.core t.slot)).ended || (decide (k ≤ q.length) && (q.take k).all fun e => e.filled))
    s

end Sys2Proof.Machine
end

