-- ==== Sys2Proof/Machine/Copy.lean ====
section
/-! DEFINITION. The copy engine and the sync words of group 0xA (R264 to R276). -/

namespace Sys2Proof.Machine

/-! ### Sync words (R272, R273) -/

/-- Key of the first byte of a sync word. -/
def syncKey (a : Nat) : Nat := lagoonKey (lagoonCluster a) (a % 2 ^ 24)

/-- The address checks of a sync word, in order (R268, R274). -/
def syncBad (s : State) (ctx a : Nat) : Option Bad :=
  if a % 16 ≠ 0 then some (.trap .align (BitVec.ofNat 64 a))
  else if !inLagoon a || !lagoonOk s ctx a then some (.trap .badAddr (BitVec.ofNat 64 a))
  else none

/-- The sync word as the slice holds it, and its fields. -/
def syncWord (s : State) (a : Nat) : Nat := readNat s (syncKey a) 16
def syncTarget (w : Nat) : Nat := w % 2 ^ 32
def syncCount (w : Nat) : Nat := w / 2 ^ 32 % 2 ^ 32
def syncGen (w : Nat) : Nat := w / 2 ^ 64 % 2 ^ 32
def syncFlags (w : Nat) : Nat := w / 2 ^ 96 % 2 ^ 32

/-- A sync word from its fields. -/
def makeSync (target count gen flags : Nat) : Nat :=
  target % 2 ^ 32 + count % 2 ^ 32 * 2 ^ 32 + gen % 2 ^ 32 * 2 ^ 64 + flags % 2 ^ 32 * 2 ^ 96

/-- Changes a sync word in one step at its slice. -/
def updSync (s : State) (ctx a : Nat) (f : Nat → Nat) : List Micro :=
  storeAt s .lagoon ctx (syncKey a) 16 (allBits 16) (f (syncWord s a))

/-- Counts `b` bytes (R273): OVERSHOOT is bit 96. -/
def countSync (b w : Nat) : Nat :=
  let count := (syncCount w + b) % 2 ^ 32
  let target := syncTarget w
  if target = 0 then makeSync target count (syncGen w) (syncFlags w)
  else
    let adv := count / target
    let rest := count % target
    makeSync target rest (syncGen w + adv) (if 0 < adv ∧ rest ≠ 0 then syncFlags w ||| 1 else syncFlags w)

/-- Sets a flag: 97 FAULTED, 98 POISONED, 99 ABANDONED (R272). -/
def flagSync (bit w : Nat) : Nat := w ||| 2 ^ bit

/-! ### The bytes of a copy (R266, R267) -/

/-- How many bytes a copy moves. -/
def Copy.total (c : Copy) : Nat := c.rows * c.len

/-- The address of row `r`. -/
def rowStart (base : Nat) (pitch : Int) (r : Nat) : Nat := (((base : Int) + r * pitch) % 2 ^ 56).toNat

/-- Source and destination address of byte `i`. -/
def Copy.srcOf (c : Copy) (i : Nat) : Nat := (rowStart c.src c.spitch (i / c.len) + i % c.len) % 2 ^ 56
def Copy.dstOf (c : Copy) (i : Nat) : Nat := (rowStart c.dst c.dpitch (i / c.len) + i % c.len) % 2 ^ 56

/-- The bytes of a row of `len` bytes from `a` that lie in `size` bytes from `u`: first offset, count. -/
def rowPart (a len u size : Nat) : Nat × Nat :=
  let above := (a + 2 ^ 56 - u) % 2 ^ 56
  if above < size then (0, min len (size - above))
  else
    let k := (u + 2 ^ 56 - a) % 2 ^ 56
    if k < len then (k, min size (len - k)) else (0, 0)

/-- The numbers of a copy's bytes that lie in `size` bytes from `u`. -/
def numbersIn (base : Nat) (pitch : Int) (rows len u size : Nat) : List Nat :=
  (List.range rows).flatMap fun r =>
    let p := rowPart (rowStart base pitch r) len u size
    (List.range p.2).map fun j => r * len + p.1 + j

/-- An address lies in one of the rows of a range. -/
def inRows (base : Nat) (pitch : Int) (rows len a : Nat) : Bool :=
  (List.range rows).any fun r => decide ((a + 2 ^ 56 - rowStart base pitch r) % 2 ^ 56 < len)

/-- Source and destination of a copy overlap (R269). -/
def Copy.overlaps (c : Copy) : Bool :=
  (List.range c.rows).any fun r => (List.range c.rows).any fun q =>
    let a := rowStart c.src c.spitch r
    let b := rowStart c.dst c.dpitch q
    decide ((a + 2 ^ 56 - b) % 2 ^ 56 < c.len) || decide ((b + 2 ^ 56 - a) % 2 ^ 56 < c.len)

/-- Who makes a copy's accesses. -/
def Copy.who (c : Copy) : Who := 
  { ctx := c.ctx, cluster := c.cluster, die := dieOfCluster c.cluster, phys := c.ctx == 64, launch := c.launch }

/-- What stops the engine at an address: a fault of its translation or of its granule's fill, or MMIO. -/
def engineBad (s : State) (who : Who) (write : Bool) (va : Nat) : Option Bad :=
  match translate s who (if write then .write else .read) va with
  | .error m => some (.miss m)
  | .ok p => if p.space == .mmio then some (.trap .memType (BitVec.ofNat 64 va)) else fillVerdict s va

/-! ### Acceptance (R265, R268) -/

/-- The lowest byte of a range in the Lagoon window that fails R172. Validity is the same over aligned
4 MiB. -/
def windowBad (s : State) (ctx a len : Nat) : Option Nat :=
  let first := (List.range (len / 2 ^ 22 + 2)).filterMap fun j =>
    let b := if j = 0 then a else (a / 2 ^ 22 + j) * 2 ^ 22
    if b < a + len && inLagoon b && !lagoonOk s ctx b then some (b % 2 ^ 56) else none
  first.head?

/-- The lowest byte of a copy's ranges that fails R172. -/
def Copy.windowBad (s : State) (c : Copy) : Option Nat :=
  let ranges := (List.range c.rows).flatMap fun r =>
    [Machine.windowBad s c.ctx (rowStart c.src c.spitch r) c.len, Machine.windowBad s c.ctx (rowStart c.dst c.dpitch r) c.len]
  (ranges.filterMap id).foldl (fun m a => match m with | none => some a | some x => some (min x a)) none

/-- The first cause that stops the acceptance of a copy (R268). -/
def copyBad (s : State) (c : Copy) : Option Bad :=
  let detail := fun (a : Nat) => BitVec.ofNat 64 a
  if 2 ^ 32 ≤ c.total then some (.trap .badAddr (detail c.dst))
  else if c.sync ≠ 0 ∧ (syncBad s c.ctx c.sync).isSome then syncBad s c.ctx c.sync
  else if c.total = 0 then none
  else
    match c.windowBad s with
    | some a => some (.trap .badAddr (detail a))
    | none =>
      match translate s c.who .read (c.srcOf 0), translate s c.who .write (c.dstOf 0) with
      | .error m, _ => some (.miss m)
      | _, .error m => some (.miss m)
      | .ok p, .ok q =>
        if p.space == .mmio || q.space == .mmio then
          let low := if p.space != .mmio then c.dstOf 0 else if q.space != .mmio then c.srcOf 0 else min (c.srcOf 0) (c.dstOf 0)
          some (.trap .memType (detail low))
        else none

/-- The copy that a `COPY` or `COPY2D` asks for. -/
def copyOf (two : Bool) (n : Nat) (iss : Issue) (s : State) : Copy :=
  let t := s.thread iss.thr
  let r := fun i => scalar s iss (n + i)
  let a := fun i => (r i).toNat % 2 ^ 56
  { live := true, thr := iss.thr, lanes := iss.lanes, slot := t.slot, pc := iss.pc, ctx := t.ctx, launch := t.launch, cluster := t.cluster
    dst := a 0, src := a 1
    rows := if two then field (r 2) 63 32 else 1
    len := if two then field (r 2) 31 0 else (r 2).toNat
    dpitch := if two then (r 3).toInt else 0
    spitch := if two then (r 4).toInt else 0
    sync := if two then a 5 else a 3 }

/-- The engine's queue has a place (R265). -/
def copyRoom (s : State) (cluster : Nat) : Bool := decide ((s.cluster cluster).queue.length < 32)

/-- `COPY` and `COPY2D` hand their copy to the engine and hold the group until it is accepted (R265). In an
episode they are not performed (R257). -/
def copyForm (f : FS) (two : Bool) : State → Host.Outcome State Fault Refusal :=
  let n := f.sa.toNat
  let regs := (List.range (if two then 6 else 4)).map (n + ·)
  issue { engines := ctlEngines, ssrc := regs, cls := .c, late := true }
    (fun iss s =>
      let lost := lostBad s iss { ssrc := regs }
      if (s.thread iss.thr).episode.isSome || lost.isSome then
        [fun s => match (copyBad s (copyOf two n iss s)).or lost with
          | some b => strikeAll s iss b
          | none => []]
      else
        [fun s => [.bump 1, .copy s.fl.next (fun _ => copyOf two n iss s), .thread iss.thr (Thread.bumpCounter .c),
                   holdLanes iss iss.lanes (.copy s.fl.next)]])
    .skip (fun iss s => copyRoom s (s.thread iss.thr).cluster)

/-- COPY (R266). -/
def execCopy (f : FS) : State → Host.Outcome State Fault Refusal := copyForm f false

/-- COPY2D (R267). -/
def execCopy2d (f : FS) : State → Host.Outcome State Fault Refusal := copyForm f true

/-- COPY_ACCEPT (R265, R268): the copy of a held group is checked; it is queued and the group moves on, or
the group traps or parks and the copy is given up. -/
def execCopyAccept (n : Nat) (s : State) : Host.Outcome State Fault Refusal :=
  .next <|
    let c := s.copy n
    let t := s.thread c.thr
    let earlier := s.fl.copies.any fun x => decide (x.1 < n) && x.2.live && !x.2.accepted && x.2.thr == c.thr
    if c.live && !c.accepted && c.owner == .thread && copyRoom s c.cluster && t.live && t.episode.isNone && !earlier then
      match copyBad s c with
      | some b =>
        runThread c.thr
          [fun s => strike s c.thr c.pc c.lanes ((lanesOf c.lanes).map fun l => (l, b)),
           fun _ => [.copy n fun _ => {}, .thread c.thr (Thread.dropCounter .c)]] s
      | none =>
        runThread c.thr
          ((if c.total = 0 then [] else
              [fun s => touch s c.who (c.srcOf 0) false, fun s => touch s c.who (c.dstOf 0) true])
            ++ [fun _ => [.copy n fun c => { c with accepted := true },
                          .cluster c.cluster fun x => { x with queue := x.queue ++ [n] },
                          .thread c.thr fun t => t.moveOn c.pc c.lanes 8]]) s
    else s

/-! ### Moving bytes (R229, R269) -/

/-- The engine works on a copy. -/
def Copy.runs (c : Copy) : Bool := c.live && c.accepted && !c.abandoned && c.stalled.isNone

/-- The sync word that a copy names is served: its granule, in a region, is filled (R272). -/
def syncServed (s : State) (c : Copy) : Bool := c.sync == 0 || (unfilled s c.sync).isNone

/-- Byte `i` may be read: nothing stops the engine there and its granule is filled. -/
def Copy.mayRead (s : State) (c : Copy) (i : Nat) : Bool :=
  c.runs && decide (i < c.total) && !c.got.contains i && (engineBad s c.who false (c.srcOf i)).isNone
    && (unfilled s (c.srcOf i)).isNone
    && match unitAt s c.who .read (c.srcOf i) with
       | some u => linkClear s u false
       | none => false

/-- Reads the source unit of byte `i` whole (R229); `dram` says that it missed in L2. -/
def readPiece (n i : Nat) (dram : Bool) : List Phase :=
  [fun s => touch s (s.copy n).who ((s.copy n).srcOf i) false,
   fun s =>
    let c := s.copy n
    match unitAt s c.who .read (c.srcOf i) with
    | none => []
    | some u =>
      let nums := (numbersIn c.src c.spitch c.rows c.len u.va u.size).filter fun j => !c.got.contains j
      let key := forward s u.space u.key
      let bad := poisoned s u.space key u.size
      let bytes := nums.map fun j => (j, s.byte (key + (c.srcOf j - u.va)))
      [.copy n fun c =>
        { c with buf := arrive bytes c.buf, got := nums ++ c.got, spoiled := (if bad then nums else []) ++ c.spoiled }]
        ++ countLine s c.ctx c.launch u.space key dram ++ [.fresh 2]]

/-- Bytes that a copy has written. -/
def Copy.written (c : Copy) : List Nat := c.moved.flatMap Moved.nums

/-- The bytes of a destination unit, written in one store (R269). -/
def Copy.batch (c : Copy) (u : UnitAt) : List Nat := numbersIn c.dst c.dpitch c.rows c.len u.va u.size

/-- Byte `i` may be written: the bytes of its unit have been read, of an overlapping copy all (R269);
nothing stops the engine there, and no migration holds writes to the page. -/
def Copy.mayWrite (s : State) (c : Copy) (i : Nat) : Bool :=
  c.runs && decide (i < c.total) && !c.written.contains i && (engineBad s c.who true (c.dstOf i)).isNone
    && (unfilled s (c.dstOf i)).isNone && syncServed s c
    && match unitAt s c.who .write (c.dstOf i) with
       | none => false
       | some u =>
         (if c.overlaps then c.got.length == c.total else (c.batch u).all fun j => c.got.contains j)
           && linkClear s u true && match u.space, migrationOf s u.key with
              | .dev, some (_, m) => !m.held
              | _, _ => true

/-- The GWCT of a write at its point of coherence (R207); the host returns none, a peer later. -/
def gwctOf (s : State) (sp : Space) (key : Nat) : Nat :=
  match sp with
  | .dev =>
    let now := s.dtAt (dieOfKey .dev key)
    if atRowBuffer s key then now + 2 else max now (look 0 s.ca.leases (key / 256)) + 2
  | .lagoon => s.dtAt (dieOfKey .lagoon key) + 2
  | .mmio => s.dtAt (dieOfKey .mmio key) + 2
  | .host | .peer => 0

/-- The free value of an overlapped destination byte (R269). -/
def spoiltByte (s : State) (j : Nat) : Byte := (Config.freeValue (s.fresh + j)).setWidth 8

/-- Writes the destination unit of byte `i` in one store, under a mask where the copy covers it in part (R269). Where
rows overlap in it, which of their bytes stands is open: no order of a copy's bytes is fixed (R265). -/
def writePiece (n i : Nat) : List Phase :=
  [fun s => touch s (s.copy n).who ((s.copy n).dstOf i) true,
   fun s =>
    let c := s.copy n
    match unitAt s c.who .write (c.dstOf i) with
    | none => []
    | some u =>
      let all := c.batch u
      let cut := (Config.freeValue (s.fresh + 2)).toNat % (all.length + 1)
      let nums := all.drop cut ++ all.take cut
      let key := forward s u.space u.key
      let value := fun j =>
        if c.overlaps && inRows c.src c.spitch c.rows c.len (c.dstOf j) then spoiltByte s (3 + j) else look 0 c.buf j
      let md := nums.foldl (fun (md : Nat × Nat) j =>
        let k := 256 ^ (c.dstOf j - u.va)
        (md.1 ||| 255 * k, without md.2 (255 * k) ||| (value j).toNat * k)) (0, 0)
      let bad := nums.any fun j => c.spoiled.contains j
      let peer := u.space == .peer
      storeAt s u.space c.ctx key u.size md.1 md.2
        ++ (if bad then [spoil u.space key] else [])
        ++ (if bad && c.sync != 0 then updSync s c.ctx c.sync (flagSync 98) else [])
        ++ (if peer then
              [.bump 1, .req s.fl.next fun _ =>
                { live := true, thr := orphanKey n, ctx := c.ctx, kind := .store, space := .peer, key := u.key, va := u.va
                  size := u.size, mask := md.1, data := md.2, done := true, acked := false, copy := some n }]
            else [])
        ++ [.copy n (fun c =>
              { c with moved := c.moved ++ [{ nums, gwct := gwctOf s u.space key, req := if peer then some s.fl.next else none }] }),
            .fresh (3 + (if c.overlaps then c.total else 0))]
        ++ countLine s c.ctx c.launch u.space key (guessMiss s)]

/-! ### Counting and completion (R230, R268, R270, R273) -/

/-- Device time where a copy's bytes are counted: at the sync word's slice. -/
def countTime (s : State) (c : Copy) : Nat :=
  if c.sync = 0 then s.dtAt c.who.die else s.dtAt (dieOfKey .lagoon (syncKey c.sync))

/-- The bytes of a copy in one aligned 256-byte block of the destination, a piece (R273). -/
def Copy.piece (c : Copy) (block : Nat) : List Nat := numbersIn c.dst c.dpitch c.rows c.len (256 * block) 256

/-- A written byte may be counted (R230). -/
def Copy.countable (s : State) (c : Copy) (j : Nat) : Bool :=
  c.moved.any fun m => m.nums.contains j && m.req.isNone && decide (m.gwct ≤ countTime s c)

/-- COPY_PIECE_COUNT (R230, R273). -/
def execCopyPieceCount (n block : Nat) (s : State) : Host.Outcome State Fault Refusal :=
  .next <|
    let c := s.copy n
    let piece := c.piece block
    if c.live && c.accepted && !c.abandoned && decide (block < 2 ^ 48) && !piece.isEmpty && !c.pieces.contains block && syncServed s c
        && piece.all (c.countable s) then
      run [fun s =>
        (if c.sync = 0 then [] else updSync s c.ctx c.sync (countSync piece.length))
          ++ [.copy n fun c => { c with pieces := block :: c.pieces, counted := c.counted + piece.length }]
          ++ count s c.ctx 0x0B piece.length (s.thread c.thr).launch] s
    else s

/-- What stops the engine at byte `i`, still to be read or written. -/
def Copy.stopAt (s : State) (c : Copy) (i : Nat) : Option Bad :=
  if !c.got.contains i && (engineBad s c.who false (c.srcOf i)).isSome then engineBad s c.who false (c.srcOf i)
  else if !c.written.contains i then engineBad s c.who true (c.dstOf i)
  else none

/-- A fault of an engine is recorded and routed by its stage (R371, R405). -/
def routeFault (s : State) (id ctx : Nat) (f : FaultRec) : List Micro :=
  .fault id (fun _ => f)
    :: (if f.miss.home then []
        else if f.miss.stage2 then
          askService s id ctx f.die f.miss
        else
          [.ctx ctx fun c => { c with frwait := c.frwait ++ [id] },
           .die f.die fun d => { d with faultSeq := (d.faultSeq + 1) % 2 ^ 32 }])

/-- The record of an engine's fault (R373): AGENT 3 is a copy engine, 4 a map unit. -/
def engineFault (s : State) (who : Parked) (w : Who) (agent slot : Nat) (m : Miss) : FaultRec :=
  { live := true, who, ctx := w.ctx, die := w.die, miss := m, agent, slot, seq := (s.die w.die).faultSeq }

/-- A copy stalls on a fault, which its sync word shows (R268). -/
def stallCopy (s : State) (n : Nat) (c : Copy) (m : Miss) : List Micro :=
  .bump 1 :: routeFault s s.fl.next c.ctx (engineFault s (.copy n) c.who 3 c.slot m)
    ++ [.copy n fun c => { c with stalled := some s.fl.next }]
    ++ (if c.sync = 0 then [] else updSync s c.ctx c.sync (flagSync 97))

/-- COPY_PAGE_FAULT (R268): a page met on the way faults and the copy stalls, or it is MMIO and the copy is
abandoned. -/
def execCopyPageFault (n i : Nat) (s : State) : Host.Outcome State Fault Refusal :=
  .next <|
    let c := s.copy n
    if c.runs && decide (i < c.total) && syncServed s c then
      match c.stopAt s i with
      | some (.miss m) =>
        run [fun s => stallCopy s n c m ++ (if (tlbFind s c.who m.va).isNone then count s c.ctx 0x0E 1 c.launch else []),
             serveRing c.ctx] s
      | some (.trap _ _) => run [fun _ => [.copy n fun c => { c with abandoned := true }]] s
      | none => s
    else s

/-- The message of an index names a payload (R395). -/
def Ring.wantsPayload (r : Ring) (i : Nat) : Bool :=
  let w := look 0 r.kept (8 * (i % 64))
  field w 63 56 == 0 && has w.toNat 48

/-- Completed messages become deliverable, in order, up to the first that names a payload (R338). -/
def Ring.advance (r : Ring) : Nat → Ring
  | 0 => r
  | fuel + 1 => if r.ready = r.pi || r.wantsPayload r.ready then r else { r with ready := (r.ready + 1) % 2 ^ 32 }.advance fuel

/-- The worker that serves a context's mailboxes is in a handover. -/
def workerAway (s : State) (ctx : Nat) : Bool := (s.die (dieOfCluster (s.ctx ctx).home)).handover

/-- The bytes of a payload that a failed copy has written hold undefined values (R395). -/
def losePayload (s : State) (c : Copy) : List Micro :=
  match c.owner with
  | .payload _ _ =>
    [.bytes ((c.moved.flatMap Moved.nums).filterMap fun j =>
      match translate s c.who .write (c.dstOf j) with
      | .ok p => some (forward s p.space p.key, spoiltByte s j)
      | .error _ => none), .fresh c.len]
  | _ => []

/-- What follows a copy's completion, by what it was run for (R270, R344, R395). -/
def copyDone (c : Copy) : List Micro :=
  match c.owner with
  | .thread => [.thread c.thr (Thread.dropCounter .c)]
  | .init w => [.wg w fun w => { w with init := none }]
  | .payload ctx box =>
    [.ctx ctx fun x => x.updIn box fun r =>
      { r with fetch := none, ready := (r.ready + 1) % 2 ^ 32
               failed := if c.abandoned then r.failed ++ [r.ready] else r.failed }.advance 64]

/-- COPY_COMPLETE (R270): every byte is counted, or the copy is abandoned. -/
def execCopyComplete (n : Nat) (s : State) : Host.Outcome State Fault Refusal :=
  .next <|
    let c := s.copy n
    let away := match c.owner with
      | .payload ctx _ => workerAway s ctx
      | _ => false
    if c.live && c.accepted && (c.abandoned || c.counted == c.total) && (syncServed s c || c.total == 0) && !away then
      run [fun s =>
        (if c.abandoned then losePayload s c else []) ++ (if c.abandoned && c.sync != 0 then updSync s c.ctx c.sync (flagSync 99) else [])
          ++ [.copy n (fun _ => {}), .cluster c.cluster fun x => { x with queue := x.queue.filter (· != n) }]
          ++ copyDone c] s
    else s

/-! ### The sync instructions (R274 to R276) -/

/-- The word that a sync instruction names. -/
def syncAddr (f : FS) (s : State) (iss : Issue) : Nat := (scalar s iss f.sa.toNat).toNat % 2 ^ 56

/-- The 16 bytes of a sync word as an access. -/
def syncAccess (f : FS) (iss : Issue) (s : State) : List LaneAccess :=
  let a := syncAddr f s iss
  [{ lane := 0, addr := a, pieces := [{ lane := 0, dst := .s f.sd.toNat, bit := 8 * a, width := 128 }] }]

/-- The first check that a sync instruction fails (R274). -/
def syncVerdict (f : FS) (reader : Option Nat) (iss : Issue) (s : State) : Option Bad :=
  let t := s.thread iss.thr
  (syncBad s t.ctx (syncAddr f s iss)).or ((syncAccess f iss s).findSome? (judge s (whoOf t) { align := 16 } reader))

/-- No fill of the word's granule is awaited (R272). -/
def syncReady (f : FS) (iss : Issue) (s : State) : Bool :=
  (syncVerdict f none iss s).isSome || (unfilled s (syncAddr f s iss)).isNone

/-- A thread's accesses to a sync word are judged, and the group is struck or goes on. -/
def syncForm (f : FS) (sh : Shape) (loads : Bool) (act : Issue → State → List Micro) : State → Host.Outcome State Fault Refusal :=
  issue { sh with engines := ctlEngines, late := true }
    (fun iss s => match ((syncVerdict f none iss s).or (lostBad s iss sh)).or
        (syncVerdict f (if loads then some iss.thr else none) iss s) with
      | some b => [fun s => strikeAll s iss b]
      | none => [act iss])
    .skip (syncReady f)

/-- SYNCINIT (R274). -/
def execSyncinit (f : FS) : State → Host.Outcome State Fault Refusal :=
  syncForm f { ssrc := fsReads f, cls := .s } false fun iss s =>
    let t := s.thread iss.thr
    let a := syncAddr f s iss
    let id := s.fl.next
    [.bump 2,
     .op id fun _ => { live := true, thr := iss.thr, cls := .s, lanes := iss.lanes, pc := iss.pc, ctx := t.ctx, core := t.core },
     .req (id + 1) fun _ => { live := true, op := id, thr := iss.thr, ctx := t.ctx, launch := t.launch, kind := .syncInit
                              space := .lagoon, key := syncKey a, va := a, size := 16, data := (fsY f s iss).toNat % 2 ^ 32 },
     .thread iss.thr (Thread.bumpCounter .s), moveOn iss]

/-- SYNCWAIT (R275): the group is held until the word's generation differs from bits 31:0 of sb. -/
def execSyncwait (f : FS) : State → Host.Outcome State Fault Refusal :=
  syncForm f { ssrc := [f.sa.toNat, f.sb.toNat], sdst := [f.sd.toNat] } false fun iss s =>
    [holdLanes iss iss.lanes (.sync f.sd.toNat (syncAddr f s iss) ((scalar s iss f.sb.toNat).toNat % 2 ^ 32))]

/-- SYNCRD (R276): a load of the word at its slice. -/
def execSyncrd (f : FS) : State → Host.Outcome State Fault Refusal :=
  syncForm f { ssrc := [f.sa.toNat], sdst := [f.sd.toNat], cls := .l } true fun iss s =>
    let a := syncAddr f s iss
    let p : Piece1 := { lane := 0, dst := .s f.sd.toNat, bit := if f.imm = 0 then 8 * a + 32 else 8 * a, width := 64 }
    let us := unitsOf s (whoOf (s.thread iss.thr)) {} (syncAccess f iss s)
    moveOn iss :: sendLoadOf s iss us [p] { cls := .l, lanes := iss.lanes, sync := some f.imm.toNat } true

/-- SYNCWAIT_RELEASE (R275): the generation has changed; it is written to sd, and the group goes on as after
an acquire at device scope (R230). -/
def execSyncwaitRelease (thr lane : Nat) (s : State) : Host.Outcome State Fault Refusal :=
  .next <|
    let t := s.thread thr
    let x := t.lane lane
    match x.hold with
    | .sync sd a gen =>
      let seen := syncGen (syncWord s a)
      if releasable s thr lane && (unfilled s a).isNone && seen != gen then
        runThread thr [fun s =>
          [writeS thr sd (BitVec.ofNat 64 seen),
           .thread thr fun t => t.updLanes (heldGroup t lane) fun l => { l with hold := .fence .acq 5 s.fl.next .done }]] s
      else s
    | _ => s

end Sys2Proof.Machine
end

