-- ==== Sys2Proof/Machine/Flags.lean ====
section
/-! DEFINITION. Number formats, the one rounding and its flags, clamps and scales (R41, R42, R134 to R150). -/

namespace Sys2Proof.Machine

/-! ### Formats (R134) -/

/-- A floating format: field widths, bias, the code of the largest finite value, infinities, and the
canonical NaN where there is one. -/
structure Format where
  ebits : Nat
  mbits : Nat
  bias  : Nat
  top   : Nat
  inf   : Bool
  nan   : Option Nat
  deriving DecidableEq, Repr

def fp32 : Format := { ebits := 8, mbits := 23, bias := 127, top := 0x7F7FFFFF, inf := true, nan := some 0x7FC00000 }
def bf16 : Format := { ebits := 8, mbits := 7, bias := 127, top := 0x7F7F, inf := true, nan := some 0x7FC0 }
def e4m3 : Format := { ebits := 4, mbits := 3, bias := 7, top := 0x7E, inf := false, nan := some 0x7F }
def e5m2 : Format := { ebits := 5, mbits := 2, bias := 15, top := 0x7B, inf := true, nan := some 0x7F }
def e3m2 : Format := { ebits := 3, mbits := 2, bias := 3, top := 0x1F, inf := false, nan := none }
def e2m3 : Format := { ebits := 2, mbits := 3, bias := 1, top := 0x1F, inf := false, nan := none }

namespace Format

/-- The sign bit's place. -/
def signBit (f : Format) : Nat := f.ebits + f.mbits

/-- FP32 and BF16, on which FTZ acts (R141). -/
def wide (f : Format) : Bool := f.ebits == 8

/-- The exponent of the smallest normal value. -/
def emin (f : Format) : Int := 1 - f.bias

/-- The exponent of the lowest mantissa bit of subnormal values. -/
def qmin (f : Format) : Int := f.emin - f.mbits

/-- The code of a NaN result; the largest finite value where the format has no NaN (R135). -/
def nanCode (f : Format) : Nat := f.nan.getD f.top

/-- The code of an infinity. -/
def infCode (f : Format) : Nat := (2 ^ f.ebits - 1) * 2 ^ f.mbits

end Format

/-- A value: (−1)^neg × m × 2^e when finite. `quiet` is false for a signalling NaN. -/
inductive Val
  | nan (quiet : Bool)
  | inf (neg : Bool)
  | fin (neg : Bool) (m : Nat) (e : Int)
  deriving DecidableEq, Repr

/-- The value of a code (R134, R135). -/
def valueOf (f : Format) (code : Nat) : Val :=
  let neg := code.testBit f.signBit
  let exp := code / 2 ^ f.mbits % 2 ^ f.ebits
  let m := code % 2 ^ f.mbits
  if f.inf && exp == 2 ^ f.ebits - 1 then
    if m = 0 then .inf neg else .nan (!f.wide || m.testBit (f.mbits - 1))
  else if f.nan == some (code % 2 ^ f.signBit) then .nan true
  else if exp = 0 then .fin neg m f.qmin
  else .fin neg (m + 2 ^ f.mbits) ((exp : Int) - f.bias - f.mbits)

/-! ### FPCTL and the flags (R145, R146) -/

def flagNV : Nat := 1
def flagDZ : Nat := 2
def flagOF : Nat := 4
def flagUF : Nat := 8
def flagNX : Nat := 16

/-- How a rounding is made: mode, flushing, saturation, and the 24 bits drawn under stochastic rounding. -/
structure Rounding where
  mode : Nat := 0
  ftz  : Bool := false
  sat  : Bool := false
  draw : Option Nat := none
  deriving DecidableEq, Repr

/-- The rounding of arithmetic under FPCTL: SATFP and SR do not act (R140, R144). -/
def arith (ctl : W32) : Rounding := { mode := ctl.toNat % 4, ftz := ctl.toNat.testBit 2 }

/-- The rounding of conversions under FPCTL, with a draw. -/
def converting (ctl : W32) (draw : Option Nat) : Rounding :=
  { mode := ctl.toNat % 4, ftz := ctl.toNat.testBit 2, sat := ctl.toNat.testBit 3, draw }

/-- The enable bits of FPCTL in the places of the flags. -/
def enables (ctl : W32) : Nat := ctl.toNat / 2 ^ 8 % 2 ^ 5

/-! ### Rounding (R139 to R144) -/

/-- An exact result: (−1)^neg × num / den × 2^e when finite. -/
inductive Exact
  | nan
  | inf (neg : Bool)
  | fin (neg : Bool) (num den : Nat) (e : Int)
  deriving DecidableEq, Repr

/-- The exponent of the leading bit of num / den. -/
def leading (num den : Nat) : Int :=
  let k : Int := (num.log2 : Int) - den.log2
  if num * 2 ^ (-k).toNat < den * 2 ^ k.toNat then k - 1 else k

/-- num / den × 2^e in units of 2^q: whole part, remainder, divisor. -/
def inUnits (num den : Nat) (e q : Int) : Nat × Nat × Nat :=
  let n := num * 2 ^ (e - q).toNat
  let d := den * 2 ^ (q - e).toNat
  (n / d, n % d, d)

/-- The magnitude i + r / d rounded to a whole number in a mode (R139). -/
def roundUnits (mode : Nat) (neg : Bool) (i r d : Nat) : Nat :=
  let up := match mode with
    | 0 => decide (d < 2 * r) || (2 * r == d && i % 2 == 1)
    | 1 => false
    | 2 => !neg && r != 0
    | _ => neg && r != 0
  if up then i + 1 else i

/-- a × 2^ea is greater than b × 2^eb. -/
def greater (a : Nat) (ea : Int) (b : Nat) (eb : Int) : Bool :=
  decide (b * 2 ^ (eb - ea).toNat < a * 2 ^ (ea - eb).toNat)

/-- A code with its sign. -/
def signed (f : Format) (neg : Bool) (code : Nat) : Nat := if neg then code + 2 ^ f.signBit else code

/-- The value of an overflowed result (R140). FP6 is always saturating. -/
def overflowCode (f : Format) (c : Rounding) (neg : Bool) : Nat :=
  let mode := if c.draw.isSome then 0 else c.mode
  let away := match mode with
    | 0 => true
    | 1 => false
    | 2 => !neg
    | _ => neg
  if c.sat || !away || f.nan.isNone then signed f neg f.top
  else if f.inf then signed f neg f.infCode
  else f.nanCode

/-- The largest finite value, as a whole number and its unit. -/
def largest (f : Format) : Nat × Int :=
  (f.top % 2 ^ f.mbits + 2 ^ f.mbits, ((f.top / 2 ^ f.mbits % 2 ^ f.ebits : Nat) : Int) - f.bias - f.mbits)

/-- Rounds a nonzero value once to a format (R139 to R141, R144): the code and the flags. -/
def roundNonzero (f : Format) (c : Rounding) (neg : Bool) (num den : Nat) (e : Int) : Nat × Nat :=
  let top := leading num den + e
  let q := max (top - f.mbits) f.qmin
  let (i, r, d) := inUnits num den e q
  let n := match c.draw with
    | none => roundUnits c.mode neg i r d
    | some g => if r ≠ 0 ∧ g < r * 2 ^ 24 / d then i + 1 else i
  let tiny :=
    match c.draw with
    | some _ => decide (n < 2 ^ f.mbits) && q == f.qmin
    | none =>
      let free := top - f.mbits
      let (j, r2, d2) := inUnits num den e free
      greater 1 f.emin (roundUnits c.mode neg j r2 d2) free
  let inexact := if r = 0 then 0 else flagNX
  if tiny && c.ftz && f.wide then (signed f neg 0, flagUF + flagNX)
  else if greater n q (largest f).1 (largest f).2 then (overflowCode f c neg, flagOF + flagNX)
  else
    (signed f neg ((q - f.qmin).toNat * 2 ^ f.mbits + n), inexact + (if tiny && r != 0 then flagUF else 0))

/-- Rounds an exact result to a format: the code and the flags (R139 to R142). -/
def roundTo (f : Format) (c : Rounding) : Exact → Nat × Nat
  | .nan => (f.nanCode, if f.nan.isNone then flagNV else 0)
  | .inf neg => if f.inf then (signed f neg f.infCode, 0) else (overflowCode f c neg, flagOF + flagNX)
  | .fin neg num den e => if num = 0 then (signed f neg 0, 0) else roundNonzero f c neg num den e

/-! ### Exact arithmetic (R156) -/

/-- A value as an exact result. -/
def Val.exact : Val → Exact
  | .nan _ => .nan
  | .inf neg => .inf neg
  | .fin neg m e => .fin neg m 1 e

/-- Multiplied by a power of two. -/
def Exact.scale (k : Int) : Exact → Exact
  | .fin neg num den e => .fin neg num den (e + k)
  | x => x

/-- A product; true with it when zero meets infinity. -/
def mulVal : Val → Val → Val × Bool
  | .nan _, _ => (.nan true, false)
  | _, .nan _ => (.nan true, false)
  | .inf a, .inf b => (.inf (a != b), false)
  | .inf a, .fin b m _ => if m = 0 then (.nan true, true) else (.inf (a != b), false)
  | .fin a m _, .inf b => if m = 0 then (.nan true, true) else (.inf (a != b), false)
  | .fin a m e, .fin b n g => (.fin (a != b) (m * n) (e + g), false)

/-- A value is a NaN. -/
def Val.isNan : Val → Bool
  | .nan _ => true
  | _ => false

/-- A value is a signalling NaN. -/
def Val.signals : Val → Bool
  | .nan quiet => !quiet
  | _ => false

/-- A value is the infinity of a sign. -/
def Val.isInf (neg : Bool) : Val → Bool
  | .inf n => n == neg
  | _ => false

/-- A value is a zero of a sign. -/
def Val.isZero (neg : Bool) : Val → Bool
  | .fin n m _ => n == neg && m == 0
  | _ => false

/-- The exact sum of finite values, in units of 2^q. -/
def sumUnits (q : Int) : List Val → Int
  | [] => 0
  | .fin neg m e :: vs =>
    let x : Int := m * 2 ^ (e - q).toNat
    (if neg then -x else x) + sumUnits q vs
  | _ :: vs => sumUnits q vs

/-- The lowest exponent among nonzero finite values, and zero. -/
def lowestExp (vs : List Val) : Int :=
  vs.foldl (fun q v => match v with | .fin _ m e => if m = 0 then q else min q e | _ => q) 0

/-- The exact sum of values, and whether infinities of opposite sign meet (R156). -/
def sumVals (mode : Nat) (vs : List Val) : Exact × Bool :=
  let clash := vs.any (Val.isInf true) && vs.any (Val.isInf false)
  if clash || vs.any Val.isNan then (.nan, clash)
  else if vs.any (Val.isInf true) then (.inf true, false)
  else if vs.any (Val.isInf false) then (.inf false, false)
  else
    let q := lowestExp vs
    let x := sumUnits q vs
    if x ≠ 0 then (.fin (x < 0) x.natAbs 1 q, false)
    else if vs.all (Val.isZero true) then (.fin true 0 1 0, false)
    else if vs.all (Val.isZero false) then (.fin false 0 1 0, false)
    else (.fin (mode == 3) 0 1 0, false)

/-! ### Operands (R41, R141) -/

/-- FTZ reads a subnormal FP32 or BF16 code as zero of its sign. -/
def flushCode (f : Format) (ftz : Bool) (code : Nat) : Nat :=
  if ftz && f.wide && code / 2 ^ f.mbits % 2 ^ f.ebits == 0 then code / 2 ^ f.signBit * 2 ^ f.signBit else code

/-- Absolute value, then negation, on the sign bit. -/
def modCode (f : Format) (n x : BitVec 1) (code : Nat) : Nat :=
  let mag := code % 2 ^ f.signBit
  let neg := (code.testBit f.signBit && x == 0) != (n == 1)
  signed f neg mag

/-- An operand code after flushing and modifiers. -/
def operandCode (f : Format) (ctl : W32) (n x : BitVec 1) (code : Nat) : Nat :=
  modCode f n x (flushCode f (ctl.toNat.testBit 2) code)

/-! ### The float clamp (R42) -/

/-- Orders the codes of numbers: −0 lies just below +0. -/
def keyOf (f : Format) (code : Nat) : Int :=
  let mag : Int := (code % 2 ^ f.signBit : Nat)
  if code.testBit f.signBit then -mag - 1 else mag

/-- The code of 1.0. -/
def oneCode (f : Format) : Nat := f.bias * 2 ^ f.mbits

/-- The destination clamp on a code. -/
def clampCode (f : Format) (cl : BitVec 2) (code : Nat) : Nat :=
  let nan := (valueOf f code).isNan
  match cl.toNat with
  | 0 => code
  | 3 =>
    if nan then f.nanCode
    else match valueOf f code with
      | .inf neg => signed f neg f.top
      | _ => code
  | k =>
    if nan then 0
    else if keyOf f (oneCode f) < keyOf f code then oneCode f
    else if k = 1 then (if keyOf f code < -1 then 0 else code)
    else if keyOf f code < keyOf f (signed f true (oneCode f)) then signed f true (oneCode f)
    else code

/-! ### The generator (R143) -/

/-- Advance(G). -/
def advanceGen (g : W32) : W32 :=
  let g := g ^^^ (g <<< 13)
  let g := g ^^^ (g >>> 17)
  g ^^^ (g <<< 5)

/-- The seed of a lane. -/
def seedGen (thread index : Nat) : W32 :=
  let g := BitVec.ofNat 32 (thread * 0x9E3779B9 + index * 0x85EBCA6B + 0x6A09E667)
  if g = 0 then 1 else g

/-! ### Block scales (R137, R150) -/

/-- A scale as a whole number and its unit; none for a NaN. -/
def scaleOf (code : Nat) : Option (Nat × Int) :=
  let e := code / 4 % 256
  if e = 255 then none else some (4 + code % 4, (e : Int) - 129)

/-- E8F2Ceil for the largest magnitude of a block; none when a NaN or an infinity is among it. -/
def scaleFor (f : Format) (amax : Option (Nat × Int)) : Nat :=
  match amax with
  | none => 0x3FC
  | some (m, e) =>
    if m = 0 then 0x1FC
    else
      let enough := fun code =>
        match scaleOf code with
        | some (s, g) => !greater m e (s * (largest f).1) (g + (largest f).2)
        | none => false
      ((List.range 1020).find? enough).getD 0x3FB

/-- The larger of two magnitudes. -/
def maxMag (a b : Nat × Int) : Nat × Int := if greater b.1 b.2 a.1 a.2 then b else a

/-- The largest magnitude among values; none when one is a NaN or an infinity. -/
def amaxOf : List Val → Option (Nat × Int)
  | [] => some (0, 0)
  | .fin _ m e :: vs => (amaxOf vs).map (maxMag (m, e))
  | _ :: _ => none

/-- x / s exactly. -/
def Exact.scaledDown (s : Nat × Int) : Exact → Exact
  | .fin neg num den e => .fin neg num (den * s.1) (e - s.2)
  | x => x

/-- x × s exactly. -/
def Exact.times (s : Nat × Int) : Exact → Exact
  | .fin neg num den e => .fin neg (num * s.1) den (e + s.2)
  | x => x

end Sys2Proof.Machine
end

