-- ==== Sys2Proof/Machine/Grants.lean ====
section
/-! DEFINITION. Launch rectangles, the core stage of a grant and the granted cores (R320, R340). -/

namespace Sys2Proof.Machine

/-- A rectangle of cores (R340). -/
structure Rect where
  x : Nat
  y : Nat
  w : Nat
  h : Nat
  deriving DecidableEq, Repr

/-- The rectangle in the layout of `SGET #0x17` (R339). -/
def Rect.ofWord (r : Nat) : Rect := { x := r % 256, y := r / 256 % 256, w := r / 65536 % 256, h := r / 2 ^ 24 % 256 }

/-- A core lies in a rectangle. -/
def Rect.contains (r : Rect) (core : Nat) : Bool :=
  let x := core % 32
  let y := core / 32
  decide (r.x ≤ x) && decide (x < r.x + r.w) && decide (r.y ≤ y) && decide (y < r.y + r.h)

/-- The cores of a rectangle in row-major order. -/
def Rect.cores (r : Rect) : List Nat :=
  (List.range r.h).flatMap fun j => (List.range r.w).map fun i => coreAt (r.x + i) (r.y + j)

/-- Halving `k` of a rectangle (R320). -/
def Rect.halve (r : Rect) (k : Nat) : Rect :=
  if 1 < r.w ∧ (k % 2 = 0 ∨ r.h = 1) then { r with w := r.w / 2 }
  else if 1 < r.h then { r with h := r.h / 2 }
  else { r with w := 1 }

/-- The sub-rectangle of core-chain index `c` under a core stage of length `kc` (R320). -/
def Rect.chain (r : Rect) (kc c : Nat) : Rect := (List.range (kc - c)).foldl Rect.halve r

/-- The rectangle of a launch. -/
def Launch.rectangle (e : Launch) : Rect := Rect.ofWord e.rect

/-- The granted cores of a launch, in row-major order (R320). -/
def grantedCores (c : Ctx) (e : Launch) : List Nat :=
  (e.rectangle.chain c.tide.kc (c.tide.grant.getD 1 0)).cores

/-- The incomplete launches of a context. -/
def Ctx.openLaunches (c : Ctx) : List Launch := (c.launches.map Prod.snd).filter fun e => e.live && e.open_

/-- The granted cores of a context. -/
def Ctx.cores (c : Ctx) : List Nat := distinct (c.openLaunches.flatMap (grantedCores c))

end Sys2Proof.Machine
end

