-- ==== Sys2Proof/Machine/Reef.lean ====
section
/-! DEFINITION. The Reef array: group 0xB and the steps of accepted operations (R286 to R311). -/

namespace Sys2Proof.Machine

/-! ### What the group shares (R286, R288, R303) -/

/-- The issuing warp has a width other than 64 (R303). -/
def narrowWarp (s : State) : Bool :=
  match s.cur with
  | some iss => (s.thread iss.thr).width != 64
  | none => false

/-- What a tensor instruction names besides its operands. -/
def reefShape (s : State) (f : FT) : Shape := { undef := narrowWarp s, g := f.g.toNat }

/-- `n` registers from `r` upwards. -/
def regsFrom (r n : Nat) : List Nat := (List.range n).map (r + ·)

/-- The launch that a thread runs in, as context and number. -/
def Thread.launchOf (t : Thread) : Nat × Nat := (t.ctx, t.launch)

/-- Another launch owns an array (R286). -/
def ownedByOther (s : State) (t : Thread) (core : Nat) : Bool :=
  match (s.core core).owner with
  | some o => o != t.launchOf
  | none => false

/-- The array has room for one more accepted operation (R288). -/
def queueRoom (s : State) (core : Nat) : Bool := decide ((s.core core).queue.length < 4)

/-- The launch becomes the owner of an unowned array, whose slots are then empty (R286, R287). -/
def claim (t : Thread) (core : Nat) : Micro :=
  .core core fun c => if c.owner.isNone then { c with owner := some t.launchOf, slots := [] } else c

/-- The core leads a pair. -/
def leads (s : State) (core : Nat) : Bool := (s.core core).bind == .leader

/-- The arrays that an operation uses: a pair operation's two, else one. -/
def ReefOp.arrays (r : ReefOp) : List Nat := if r.kind == .macPair then [r.core, r.core + 1] else [r.core]

/-! ### Hazards (R300, R301, R306) -/

/-- Two lists share a member. -/
def meet (a b : List Nat) : Bool := a.any b.contains

/-- Registers that an operation reads hold, or may hold, other than what it needs: a write is pending without
an `RFENCE` (R300), they are accumulators in use (R301), or accumulators of its own (R306). -/
def readsClash (s : State) (k : Nat) (reads acc : List Nat) : Bool :=
  let t := s.thread k
  meet reads (pendingV s k ++ t.vpend.filter fun r => t.owed [r] (2 ^ 64 - 1) (tickOf s t)) || reads.any t.reefAcc || meet reads acc

/-- A new accumulator range overlaps one in use without being equal (R301). -/
def rangesClash (t : Thread) (acc : List Nat) : Bool := t.reefUse.any fun u => u.acc != acc && meet u.acc acc

/-- The outcome for operations in use when a new operation writes accumulators (R301). -/
def clashEarlier (s : State) (k : Nat) (acc : List Nat) : List Micro :=
  (s.thread k).reefUse.flatMap fun u =>
    if meet u.src acc || (u.acc != acc && meet u.acc acc) then
      if (s.op u.op).live && (s.op u.op).reef.isSome then
        [.op u.op fun o => { o with reef := o.reef.map fun (r : ReefOp) => { r with clash := true } }]
      else [.thread k (loseRegs (s.fresh + 2 ^ 17) u.acc)]
    else []

/-- The values of a register by lane. -/
def regLanes (r : Regs) (n : Nat) : Sparse W32 :=
  (List.range 64).filterMap fun l => if r.getV n l = 0 then none else some (l, r.getV n l)

/-! ### Tiles in memory (R289, R304, R305, R308) -/

/-- The smaller of two bounds, where there is one. -/
def lowest (l : List Nat) : Option Nat := l.foldl (fun m a => match m with | none => some a | some x => some (min x a)) none

/-- What stops an access to byte ranges, in order: the window, translation, a granule's fill, MMIO (R304). -/
def tileVerdict (s : State) (t : Thread) (a : Access) (ranges : List (Nat × Nat)) : Option Bad :=
  let who := whoOf t
  let pages := ranges.flatMap fun r => pagesOf r.1 r.2
  match lowest (ranges.filterMap fun r => windowBad s t.ctx r.1 r.2) with
  | some x => some (.trap .badAddr (BitVec.ofNat 64 x))
  | none =>
    match pages.findSome? fun p => match translate s who a p with | .error m => some (Bad.miss m) | .ok _ => none with
    | some b => some b
    | none =>
      match pages.findSome? (fillVerdict s) with
      | some b => some b
      | none =>
        (lowest (pages.filter fun p => match translate s who a p with | .ok x => x.space == .mmio | .error _ => false)).map
          fun x => .trap .memType (BitVec.ofNat 64 (x % 2 ^ 56))

/-- No granule of the ranges awaits its fill (R176). -/
def tileFilled (s : State) (ranges : List (Nat × Nat)) : Bool :=
  (ranges.flatMap fun r => pagesOf r.1 r.2).all fun p => (unfilled s (p % 2 ^ 56)).isNone

/-- The bytes of a row as one element, with the value stored. -/
def rowPiece (a len value : Nat) : Piece1 := { lane := 0, dst := .s 0, bit := 8 * (a % 2 ^ 56), width := 8 * len, value }

/-- The ranges of pieces. -/
def rangesOf (ps : List Piece1) : List (Nat × Nat) := ps.map Piece1.span

/-- The units of pieces. -/
def pieceUnits (s : State) (t : Thread) (a : Access) (ps : List Piece1) : List UnitAt :=
  unitsOf s (whoOf t) { access := a } [{ lane := 0, addr := 0, pieces := ps }]

/-! ### RLOADB and RCODE (R304, R305) -/

/-- The bits of an element of a B tile, by minor. -/
def tileBits (fmt : Nat) : Nat :=
  match fmt with
  | 0 => 4
  | 3 | 4 => 6
  | 6 => 16
  | _ => 8

/-- The bytes of a packed row of 64 elements. -/
def rowBytes (fmt : Nat) : Nat := 8 * tileBits fmt

/-- The tile address, pitch and row length of an `RLOADB` (minor 0 to 6) or an `RCODE` (7). -/
def tileAt (f : FT) (fmt : Nat) (s : State) (iss : Issue) : Nat × Nat × Nat :=
  let len := if fmt = 7 then 32 else rowBytes fmt
  ((scalar s iss f.sx.toNat).toNat % 2 ^ 56,
   if f.sp = 0 ∨ fmt = 7 then len else field (scalar s iss f.sp.toNat) 31 0, len)

/-- The rows that are read. -/
def tilePieces (f : FT) (fmt : Nat) (s : State) (iss : Issue) : List Piece1 :=
  let a := tileAt f fmt s iss
  (List.range (if fmt = 7 then 1 else 64)).map fun k => rowPiece (a.1 + k * a.2.1) a.2.2 0

/-- What stops a slot load. -/
def loadVerdict (f : FT) (fmt : Nat) (s : State) (iss : Issue) : Option Bad :=
  let t := s.thread iss.thr
  let a := tileAt f fmt s iss
  if f.f = 1 ∧ !leads s t.core then some (.trap .pairLess 5)
  else if 6 ≤ fmt ∧ (a.1 % 2 ≠ 0 ∨ a.2.1 % 2 ≠ 0) then some (.trap .align (BitVec.ofNat 64 a.1))
  else tileVerdict s t .read (rangesOf (tilePieces f fmt s iss))

/-- A slot load may issue: the arrays are not another launch's and have room; granules that it reads are
filled. -/
def loadReady (f : FT) (fmt : Nat) (iss : Issue) (s : State) : Bool :=
  let c := (s.thread iss.thr).core
  active s iss f.g.toNat == 0
    || (!ownedByOther s (s.thread iss.thr) c && queueRoom s c && (f.f == 0 || !leads s c || queueRoom s (c + 1))
        && ((loadVerdict f fmt s iss).isSome || tileFilled s (rangesOf (tilePieces f fmt s iss))))

/-- The registers whose scales an `RLOADB` copies. -/
def loadScales (f : FT) (fmt : Nat) : List Nat := if fmt = 7 then [] else regsFrom f.sa.toNat 2

/-- The slot load that is sent. -/
def loadOp (f : FT) (fmt : Nat) (s : State) (iss : Issue) : ReefOp :=
  let c := (s.thread iss.thr).core
  let a := tileAt f fmt s iss
  { kind := if fmt = 7 then .code else .loadB, fmt, slot := f.slot.toNat, bs := f.bs.toNat
    core := if f.f = 1 then c + 1 else c, scales := (loadScales f fmt).map (regLanes (sourceRegs s iss))
    x := a.1, pitch := a.2.1, clash := readsClash s iss.thr (loadScales f fmt) [] }

/-- `RLOADB` and `RCODE`: the checks, the loads of the warp, and the group held for their bytes. -/
def slotLoad (f : FT) (fmt : Nat) (s : State) : Host.Outcome State Fault Refusal :=
  let scales := loadScales f fmt
  let sh := { reefShape s f with
    vmore := scales, cls := .t, tensor := true, late := true
    ssrc := f.sx.toNat :: (if f.sp = 0 ∨ fmt = 7 then [] else [f.sp.toNat]) }
  issue sh
    (fun iss s =>
      let t := s.thread iss.thr
      if active s iss f.g.toNat = 0 then [fun _ => [moveOn iss]]
      else
        match (loadVerdict f fmt s iss).or (if scales.any t.lostReg then some (.trap .poison 0) else lostBad s iss sh) with
        | some b => [fun s => strikeAll s iss b]
        | none =>
          let ps := tilePieces f fmt s iss
          touchAll (whoOf t) false (touched (pieceUnits s t .read ps))
            ++ [fun s =>
              let us := pieceUnits s t .read ps
              [claim t t.core, holdLanes iss iss.lanes (.tile s.fl.next)]
                ++ sendLoadOf s iss us []
                    { cls := .t, lanes := iss.lanes, reef := some (loadOp f fmt s iss) } false
                ++ (if scales.isEmpty then [] else
                    [.thread iss.thr fun t => { t with reefUse := { op := s.fl.next, src := scales } :: t.reefUse }])])
    .skip (loadReady f fmt) s

/-- RLOADB_Q4. -/
def execRloadbQ4 (f : FT) : State → Host.Outcome State Fault Refusal := slotLoad f 0
/-- RLOADB_E4M3. -/
def execRloadbE4m3 (f : FT) : State → Host.Outcome State Fault Refusal := slotLoad f 1
/-- RLOADB_E5M2. -/
def execRloadbE5m2 (f : FT) : State → Host.Outcome State Fault Refusal := slotLoad f 2
/-- RLOADB_E3M2. -/
def execRloadbE3m2 (f : FT) : State → Host.Outcome State Fault Refusal := slotLoad f 3
/-- RLOADB_E2M3. -/
def execRloadbE2m3 (f : FT) : State → Host.Outcome State Fault Refusal := slotLoad f 4
/-- RLOADB_I8. -/
def execRloadbI8 (f : FT) : State → Host.Outcome State Fault Refusal := slotLoad f 5
/-- RLOADB_BF16. -/
def execRloadbBf16 (f : FT) : State → Host.Outcome State Fault Refusal := slotLoad f 6
/-- RCODE (R305). -/
def execRcode (f : FT) : State → Host.Outcome State Fault Refusal := slotLoad f 7

/-- A slot load that an array has not accepted yet was issued before flight key `id`: a later operation awaits its
acceptance (R288). -/
def loadsAhead (s : State) (core id : Nat) : Bool :=
  s.fl.ops.any fun o => decide (o.1 < id) && o.2.live && match o.2.reef with
    | some r => (r.kind == .loadB || r.kind == .code) && r.core == core && !r.accepted
    | none => false

/-- The bytes of a slot load have arrived (R304): poison traps its group, else the array accepts it and the
group moves on, when it has room and its turn has come (R288). LOAD_COMPLETE brings it about. -/
def acceptLoad (id : Nat) (s : State) : State :=
  let o := s.op id
  let r := reefOf s id
  let t := s.thread o.thr
  let held := t.laneSet fun l => l.state == .running && l.hold == Hold.tile id
  if !t.live || t.episode.isSome || r.accepted then s
  else if o.poison ≠ 0 then
    runThread o.thr [fun s =>
      dropOp s id
        ++ [.thread o.thr fun t => { t.dropCounter .t with reefUse := t.reefUse.filter fun u => u.op != id }]
        ++ strike s o.thr o.pc held ((lanesOf held).map fun l => (l, .trap .poison (BitVec.ofNat 64 r.x)))] s
  else if queueRoom s r.core && !loadsAhead s r.core id then
    runThread o.thr [fun s =>
      (reqsOf s id).map (fun q => .req q.1 fun _ => {})
        ++ [.op id fun o => { o with reef := o.reef.map fun (r : ReefOp) => { r with accepted := true } },
            .core r.core fun c => { c with queue := c.queue ++ [id] },
            .thread o.thr fun t => t.moveOn o.pc held 8]] s
  else s

/-! ### RMAC and RMACP (R290, R306) -/

/-- How many A registers a format takes: formats 0 i8, 1 e4m3, 2 e5m2, 3 bf16. -/
def aCount (fmt : Nat) : Nat := if fmt = 3 then 8 else 4

/-- The port that a multiplication's a field names. -/
def macPort (f : FT) (s : State) (k : Nat) : Option Nat := portOf (hasPorts s (s.thread k)) f.a.toNat

/-- The accumulator registers. -/
def macAcc (f : FT) (pair : Bool) : List Nat := regsFrom f.acc.toNat (if pair then 32 else 16)

/-- The A registers, when no port is named, and the scale register. -/
def macReads (f : FT) (fmt : Nat) (s : State) (k : Nat) : List Nat :=
  (if (macPort f s k).isSome then [] else regsFrom f.a.toNat (aCount fmt)) ++ [f.sa.toNat]

/-- The entries that a multiplication pops. -/
def macEntries (f : FT) (fmt : Nat) (s : State) (k : Nat) : List Entry :=
  match macPort f s k with
  | some p => ((s.thread k).queue p).take (aCount fmt)
  | none => []

/-- A multiplication traps before it pops: it needs a pair and has none (R299), or an operand is lost or
marked poisoned (R279, R379). -/
def macStop (f : FT) (fmt : Nat) (pair : Bool) (s : State) (k : Nat) : Option Bad :=
  let t := s.thread k
  if pair ∧ !leads s t.core then some (.trap .pairLess 5)
  else if (macReads f fmt s k ++ macAcc f pair).any t.lostReg || (macEntries f fmt s k).any fun e => e.poison != 0 then
    some (.trap .poison 0)
  else none

/-- It would pop nothing, since it traps for an active lane. -/
def macHalted (f : FT) (fmt : Nat) (pair : Bool) (s : State) : Bool :=
  match s.cur with
  | some iss => active s iss f.g.toNat != 0 && (macStop f fmt pair s iss.thr).isSome
  | none => false

/-- What a multiplication names. -/
def macShape (f : FT) (fmt : Nat) (pair : Bool) (s : State) : Shape :=
  let k := match s.cur with | some iss => iss.thr | none => 0
  let pops := (macPort f s k).isSome && !macHalted f fmt pair s
  { reefShape s f with
    vsrc := if pops then List.replicate (aCount fmt) f.a.toNat else []
    vmore := macReads f fmt s k, vdst := macAcc f pair, cls := .t, tensor := true }

/-- A multiplication may issue (R286, R288, R298). -/
def macReady (f : FT) (pair : Bool) (iss : Issue) (s : State) : Bool :=
  let t := s.thread iss.thr
  active s iss f.g.toNat == 0
    || (!ownedByOther s t t.core && queueRoom s t.core && !loadsAhead s t.core s.fl.next
        && (!pair || !leads s t.core || (queueRoom s (t.core + 1) && !loadsAhead s (t.core + 1) s.fl.next)))

/-- The multiplication that is accepted. -/
def macOp (f : FT) (fmt : Nat) (pair : Bool) (s : State) (iss : Issue) : ReefOp :=
  let t := s.thread iss.thr
  let acc := macAcc f pair
  let reads := macReads f fmt s iss.thr
  let regs := regLanes (sourceRegs s iss)
  { kind := if pair then .macPair else .mac, fmt, acc := f.acc.toNat, slot := f.slot.toNat, bs := f.bs.toNat, core := t.core
    avals := if (macPort f s iss.thr).isSome then (macEntries f fmt s iss.thr).map Entry.values
      else (regsFrom f.a.toNat (aCount fmt)).map regs
    scales := [regs f.sa.toNat], accepted := true
    clash := readsClash s iss.thr reads acc || rangesClash t acc, spoilt := acc.filter t.reefSrc }

/-- `RMAC` and `RMACP`: the operation enters its queues. -/
def multiply (f : FT) (fmt : Nat) (pair : Bool) (s : State) : Host.Outcome State Fault Refusal :=
  issue (macShape f fmt pair s)
    (fun iss s =>
      let t := s.thread iss.thr
      if active s iss f.g.toNat = 0 then [fun _ => [moveOn iss]]
      else
        match macStop f fmt pair s iss.thr with
        | some b => [fun s => strikeAll s iss b]
        | none =>
          [fun s =>
            let id := s.fl.next
            let r := macOp f fmt pair s iss
            let acc := macAcc f pair
            [.bump 1,
             .op id fun _ => { live := true, thr := iss.thr, cls := .t, lanes := iss.lanes, pc := iss.pc, ctx := t.ctx
                               core := t.core, reef := some r }]
              ++ r.arrays.flatMap (fun c => [claim t c, .core c fun c => { c with queue := c.queue ++ [id] }])
              ++ clashEarlier s iss.thr acc
              ++ [.thread iss.thr fun t =>
                    { t.bumpCounter .t with reefUse := { op := id, acc, src := macReads f fmt s iss.thr } :: t.reefUse },
                  moveOn iss]])
    .skip (macReady f pair) s

/-- RMAC_I8. -/
def execRmacI8 (f : FT) : State → Host.Outcome State Fault Refusal := multiply f 0 false
/-- RMAC_E4M3. -/
def execRmacE4m3 (f : FT) : State → Host.Outcome State Fault Refusal := multiply f 1 false
/-- RMAC_E5M2. -/
def execRmacE5m2 (f : FT) : State → Host.Outcome State Fault Refusal := multiply f 2 false
/-- RMAC_BF16. -/
def execRmacBf16 (f : FT) : State → Host.Outcome State Fault Refusal := multiply f 3 false
/-- RMACP_I8. -/
def execRmacpI8 (f : FT) : State → Host.Outcome State Fault Refusal := multiply f 0 true
/-- RMACP_E4M3. -/
def execRmacpE4m3 (f : FT) : State → Host.Outcome State Fault Refusal := multiply f 1 true
/-- RMACP_E5M2. -/
def execRmacpE5m2 (f : FT) : State → Host.Outcome State Fault Refusal := multiply f 2 true
/-- RMACP_BF16. -/
def execRmacpBf16 (f : FT) : State → Host.Outcome State Fault Refusal := multiply f 3 true

/-! ### The arithmetic (R293 to R296) -/

/-- The value of an 8-bit two's-complement integer. -/
def byteVal (x : Nat) : Val :=
  let v := (BitVec.ofNat 8 x).toInt
  .fin (v < 0) v.natAbs 0

/-- Element (r, k) of the A tile (R290). -/
def ReefOp.elemA (o : ReefOp) (r k : Nat) : Val :=
  let q := k / 16
  let i := k % 16
  let lane := 4 * r + q
  let reg := fun (j : Nat) => (look (0 : W32) (o.avals.getD j []) lane).toNat
  if o.fmt = 3 then valueOf bf16 (reg (i / 2) / 2 ^ (16 * (i % 2)) % 2 ^ 16)
  else
    let code := reg (i / 4) / 2 ^ (8 * (i % 4)) % 2 ^ 8
    match o.fmt with
    | 0 => byteVal code
    | 1 => valueOf e4m3 code
    | _ => valueOf e5m2 code

/-- Element (k, n) of a slot (R287, R293). -/
def Slot.elemB (t : Slot) (k n : Nat) : Val :=
  let code := look 0 t.store (64 * k + n)
  match t.tag with
  | 1 => valueOf bf16 (look 0 t.code code)
  | 2 => valueOf e4m3 code
  | 3 => valueOf e5m2 code
  | 4 => valueOf e3m2 code
  | 5 => valueOf e2m3 code
  | 7 => valueOf bf16 code
  | _ => byteVal code

/-- The A scale of row `r` and block `b` (R291). -/
def ReefOp.scaleA (o : ReefOp) (r b : Nat) : Nat :=
  (look (0 : W32) (o.scales.getD 0 []) (2 * r + b)).toNat / 2 ^ (8 * o.bs) % 2 ^ 10

/-- The B scale of block `b` and column `n`. -/
def Slot.scaleB (t : Slot) (b n : Nat) : Nat := (look 0 t.scales (2 * n + b) + 0x1FC) % 2 ^ 10

/-- The value is a number. -/
def Val.isFinite : Val → Bool
  | .fin _ _ _ => true
  | _ => false

/-- Where a slot's elements are struck by an uncorrectable error: elements by 64k + n, scales from 4,096,
codebook entries from 4,224 (R379). -/
def Slot.lostColumn (t : Slot) (n : Nat) : Bool :=
  t.bad.any fun e =>
    if e < 4096 then e % 64 == n
    else if e < 4224 then (e - 4096) / 2 == n
    else t.tag == 1 && (List.range 64).any fun k => look 0 t.store (64 * k + n) == e - 4224

/-- RowSpecial and ColSpecial (R295). -/
def ReefOp.rowSpecial (o : ReefOp) (r : Nat) : Bool :=
  ((List.range 64).any fun k => !(o.elemA r k).isFinite)
    || (List.range 2).any fun b => (scaleOf (o.scaleA r b)).isNone
def Slot.colSpecial (t : Slot) (n : Nat) : Bool :=
  ((List.range 64).any fun k => !(t.elemB k n).isFinite)
    || (List.range 2).any fun b => (scaleOf (t.scaleB b n)).isNone

/-- ⌊log2 |x|⌋ of a nonzero number (R293). -/
def exponentOf : Val → Option Int
  | .fin _ m e => if m = 0 then none else some (m.log2 + e)
  | _ => none

/-- The largest exponent among nonzero numbers. -/
def blockExponent (vs : List Val) : Option Int :=
  (vs.filterMap exponentOf).foldl (fun m e => match m with | none => some e | some x => some (max x e)) none

/-- x × 2^k truncated towards zero. -/
def truncated (k : Int) : Val → Val
  | .fin neg m e => .fin neg (m * 2 ^ (e + k).toNat / 2 ^ (-(e + k)).toNat) 0
  | v => v

/-- The exact product of two numbers. -/
def product (a b : Val) : Val := (mulVal a b).1

/-- The term of block `b` for row `r` and column `n`: S × f × scaleA × scaleB, none when it is zero
(R294). -/
def blockTerm (o : ReefOp) (t : Slot) (r n b : Nat) : Option Val :=
  let ks := (List.range 32).map (32 * b + ·)
  let as := ks.map (o.elemA r)
  let w : Int := if o.fmt = 3 then 16 else 8
  let split := if o.fmt = 0 then some (as, (0 : Int))
    else (blockExponent as).map fun ea => (as.map (truncated (w - 2 - ea)), ea - (w - 2))
  match split, scaleOf (o.scaleA r b), scaleOf (t.scaleB b n) with
  | some (ints, f), some sa, some sb =>
    let ps := (ints.zip ks).map fun x => product x.1 (t.elemB x.2 n)
    let q := lowestExp ps
    let sum := sumUnits q ps
    if sum = 0 then none else some (.fin (sum < 0) (sum.natAbs * sa.1 * sb.1) (q + f + sa.2 + sb.2))
  | _, _, _ => none

/-- The flags of a rounding as they stand in REEFST: NX, UF, OF (R296). -/
def reefFlags (f : Nat) : Nat :=
  (if f &&& flagNX = 0 then 0 else 1) ||| (if f &&& flagUF = 0 then 0 else 2) ||| (if f &&& flagOF = 0 then 0 else 4)

/-- Adds a block's term to an accumulator (R294). -/
def addTerm (acc : W32 × Nat) : Option Val → W32 × Nat
  | none => acc
  | some v =>
    let r := roundTo fp32 {} (sumVals 0 [valueOf fp32 acc.1.toNat, v]).1
    (BitVec.ofNat 32 r.1, acc.2 ||| reefFlags r.2)

/-- The whole-number value of an I8 or Q4-free element. -/
def Val.int : Val → Int
  | .fin neg m _ => if neg then -m else m
  | _ => 0

/-- The new value of accumulator (r, n) with the flags it raises (R294, R295, R379). -/
def macElement (o : ReefOp) (t : Slot) (r n : Nat) (acc : W32) : W32 × Nat :=
  let lost := t.lostColumn n
  let nan := (BitVec.ofNat 32 0x7FC00000, if lost || !(valueOf fp32 acc.toNat).isNan then 8 else 0)
  if lost then nan
  else if o.fmt = 0 ∧ (t.tag = 6 ∨ t.tag = 0) then
    let sum := (List.range 64).foldl (fun x k => x + (o.elemA r k).int * (t.elemB k n).int) (0 : Int)
    (acc + BitVec.ofInt 32 sum, 0)
  else if o.rowSpecial r || t.colSpecial n then nan
  else addTerm (addTerm (acc, 0) (blockTerm o t r n 0)) (blockTerm o t r n 1)

/-- The columns of an operation. -/
def ReefOp.columns (o : ReefOp) : Nat := if o.kind == .macPair then 128 else 64

/-- The register and lane of accumulator (r, n) (R292). -/
def accReg (acc r n : Nat) : Nat := acc + r + (if n < 64 then 0 else 16)

/-- One accumulator element is written, its flags gathered. -/
def macStep (o : ReefOp) (x : Regs × Nat) (r n : Nat) : Regs × Nat :=
  let reg := accReg o.acc r n
  let v := macElement o (o.tiles.getD (n / 64) {}) r (n % 64) (x.1.getV reg (n % 64))
  (x.1.setV reg (n % 64) v.1, x.2 ||| v.2)

/-- The effect of an operation on a register file, with the flags for REEFST. -/
def macRegs (o : ReefOp) (regs : Regs) : Regs × Nat :=
  (List.range 16).foldl (fun x r => (List.range o.columns).foldl (fun x n => macStep o x r n) x) (regs, 0)

/-- Registers take free values in every lane of a register file. -/
def loseLanes (base : Nat) (ds : List Nat) (r : Regs) : Regs :=
  ds.foldl (fun r d => r.setLanes d ((List.range 64).map fun l => (l, (Config.freeValue (base + 64 * d + l)).setWidth 32))) r

/-- The results of an operation as they are written: undefined ones are free values, and raise no flag (R4, R300, R301,
R306). -/
def macWritten (o : ReefOp) (base : Nat) (regs : Regs) : Regs × Nat :=
  let x := macRegs o regs
  let all := regsFrom o.acc (if o.kind == .macPair then 32 else 16)
  if o.clash then (loseLanes base all x.1, 0)
  else (loseLanes base o.spoilt x.1, x.2)

/-- Writes an operation's results; in an episode they go where the exit restores them (R256). -/
def Thread.takeMac (o : ReefOp) (base : Nat) (t : Thread) : Thread :=
  match t.episode with
  | some e =>
    let x := macWritten o base e.shadow
    { t with episode := some { e with shadow := x.1 }, reefst := t.reefst ||| BitVec.ofNat 32 x.2 }
  | none =>
    let x := macWritten o base t.regs
    { t with regs := x.1, reefst := t.reefst ||| BitVec.ofNat 32 x.2 }

/-! ### The steps of accepted operations (R288, R298) -/

/-- A multiplication may begin its serial phase in an array (R288): earlier ones have begun theirs, earlier
writes of its slot are done. -/
def serialMay (s : State) (core id : Nat) : Bool :=
  !coreFrozen s core && (before s core id).all fun e =>
    let r := reefOf s e
    if r.isMac then r.begun else r.slot != (reefOf s id).slot

/-- The next multiplication of an array. -/
def nextSerial (s : State) (core : Nat) : Option Nat :=
  (s.core core).queue.find? fun id => (reefOf s id).isMac && !(reefOf s id).begun

/-- A slot of an array. -/
def slotOf (s : State) (core n : Nat) : Slot := look {} (s.core core).slots n

/-- REEF_SERIAL_PHASE (R288, R298, R306): an array's next multiplication begins; the one before has ended. -/
def execReefSerialPhase (core : Nat) (s : State) : Host.Outcome State Fault Refusal :=
  .next <|
    match nextSerial s core with
    | none => s
    | some id =>
      let r := reefOf s id
      if r.arrays.all fun c => nextSerial s c == some id && serialMay s c id then
        run [fun s =>
          .op id (fun o => { o with reef := o.reef.map fun (r : ReefOp) =>
              { r with begun := true, tiles := r.arrays.map fun c => slotOf s c r.slot } })
            :: count s (s.op id).ctx 0x0A (if r.fmt = 3 then 16 else 8) (s.thread (s.op id).thr).launch] s
      else s

/-- A completed operation leaves its queues and T falls (R84, R288). -/
def finishReef (s : State) (id : Nat) : List Micro :=
  let r := reefOf s id
  r.arrays.map (fun c => .core c fun x => { x with queue := x.queue.filter (· != id) })
    ++ [.op id fun _ => {}, .thread (s.op id).thr fun t => if t.live then t.dropCounter .t else t]

/-- Ownership that an operation kept may end with it. -/
def settleArrays (r : ReefOp) : List Phase := r.arrays.map fun c s => endOwnership s c

/-- REEF_ACCUMULATOR_WRITE (R294): in the order of acceptance. -/
def execReefAccumulatorWrite (id : Nat) (s : State) : Host.Outcome State Fault Refusal :=
  .next <|
    let o := s.op id
    let r := reefOf s id
    let turn := r.arrays.all fun c => (s.core c).queue.contains id && !coreFrozen s c
      && (before s c id).all fun e => !(reefOf s e).isMac
    if o.live && r.isMac && r.begun && turn then
      run ((fun s => [.thread o.thr (Thread.takeMac r s.fresh), .fresh (2 ^ 17)]) :: (fun s => finishReef s id)
        :: settleArrays r) s
    else s

/-- A slot write may be made (R288): it is its turn, and the array's clocks run. -/
def writeMay (s : State) (id : Nat) : Bool := slotTurn s id && !coreFrozen s (reefOf s id).core

/-- A number less its default, modulo 2^10. -/
def lessOne (x : Nat) : Nat := (x + 2 ^ 10 - 0x1FC) % 2 ^ 10

/-- The scale of index `i` in the registers that an `RLOADB` read (R291). -/
def ReefOp.copied (r : ReefOp) (i : Nat) : Nat :=
  (look (0 : W32) (r.scales.getD (i / 64) []) (i % 64)).toNat / 2 ^ (8 * r.bs) % 2 ^ 10

/-- The tile of a slot load. -/
def ReefOp.tileStore (r : ReefOp) (bytes : Sparse Byte) : Sparse Nat :=
  let b := tileBits r.fmt
  (List.range 4096).filterMap fun i =>
    let c := bitsOf bytes (8 * ((r.x + i / 64 * r.pitch) % 2 ^ 56) + b * (i % 64)) b
    if c = 0 then none else some (i, c)

/-- REEF_SLOT_WRITE (R304). -/
def execReefSlotWrite (id : Nat) (s : State) : Host.Outcome State Fault Refusal :=
  .next <|
    let r := reefOf s id
    if r.kind == .loadB && writeMay s id then
      let scale := fun (i : Nat) => if r.clash then (Config.freeValue (s.fresh + i)).toNat % 2 ^ 10 else r.copied i
      let write := fun (t : Slot) =>
        { t with
          tag := r.fmt + 1, store := r.tileStore (s.op id).bytes, bad := t.bad.filter fun e => decide (4224 ≤ e)
          scales := (List.range 128).filterMap fun i => if lessOne (scale i) = 0 then none else some (i, lessOne (scale i)) }
      run ([fun s =>
        [.core r.core fun c => { c with slots := put {} c.slots r.slot (write (look {} c.slots r.slot)) }, .fresh 128]
          ++ finishReef s id] ++ settleArrays r) s
    else s

/-- REEF_CODEBOOK_WRITE (R305). -/
def execReefCodebookWrite (id : Nat) (s : State) : Host.Outcome State Fault Refusal :=
  .next <|
    let r := reefOf s id
    if r.kind == .code && writeMay s id then
      let code := (List.range 16).filterMap fun i =>
        let c := bitsOf (s.op id).bytes (8 * r.x + 16 * i) 16
        if c = 0 then none else some (i, c)
      run ([fun s =>
        [.core r.core fun c =>
          let t : Slot := look {} c.slots r.slot
          { c with slots := put {} c.slots r.slot { t with code, bad := t.bad.filter fun e => decide (e < 4224) } }]
          ++ finishReef s id] ++ settleArrays r) s
    else s

/-! ### RFENCE, RDRAIN, RPAIR, RSTAT.reef (R297, R307 to R309) -/

/-- RFENCE (R307): the group is held until earlier writes of vector registers have been made. -/
def execRfence (f : FT) (s : State) : Host.Outcome State Fault Refusal :=
  issue (reefShape s f)
    (fun iss s =>
      if active s iss f.g.toNat = 0 then [fun _ => [moveOn iss]]
      else [fun s => [.thread iss.thr fun t => { t with vpend := [] }, holdLanes iss iss.lanes (.written s.fl.next (s.thread iss.thr).lastDue)]])
    .skip (fun _ _ => true) s

/-- The operands of an `RDRAIN`. -/
structure Drain where
  x : Nat
  p : Nat
  y : Nat
  q : Nat
  z : Nat
  bf : Bool
  fmt : Nat            -- 0 none, 1 e4m3, 2 e5m2
  cols : Nat
  acc : Nat
  deriving DecidableEq, Repr

/-- The operands as they stand. -/
def drainOf (f : FT) (s : State) (iss : Issue) : Drain :=
  let r := fun i => scalar s iss (f.sx.toNat + i)
  let m := f.m.toNat
  { x := (r 0).toNat % 2 ^ 56, p := field (r 1) 31 0, y := (r 2).toNat % 2 ^ 56, q := field (r 3) 31 0
    z := (r 4).toNat % 2 ^ 56, bf := has m 0, fmt := m / 2 % 4, cols := if has m 3 then 128 else 64, acc := f.acc.toNat }

/-- The bytes of an element of the tile. -/
def Drain.size (d : Drain) : Nat := if d.bf then 2 else 4

/-- The pattern of accumulator (r, n). -/
def drainRead (s : State) (iss : Issue) (d : Drain) (r n : Nat) : Nat := (vreg s iss (accReg d.acc r n) (n % 64)).toNat

/-- RoundNE to BF16 under R140 with SATFP. -/
def drainBf16 (sat : Bool) (x : Nat) : Nat × Nat := roundTo bf16 { sat } (valueOf fp32 x).exact

/-- The tile element that is stored, with its flags. -/
def drainElem (d : Drain) (sat : Bool) (x : Nat) : Nat × Nat := if d.bf then drainBf16 sat x else (x, 0)

/-- The narrow format of the transposed copy. -/
def Drain.format (d : Drain) : Format := if d.fmt = 1 then e4m3 else e5m2

/-- The scale of a column (R150). -/
def drainScale (d : Drain) (xs : List Nat) : Nat := scaleFor d.format (amaxOf (xs.map (valueOf fp32)))

/-- The code of an element under a scale, with its flags. -/
def drainCode (d : Drain) (sat : Bool) (scale x : Nat) : Nat × Nat :=
  match scaleOf scale with
  | none => (d.format.nanCode, 0)
  | some s => roundTo d.format { sat } ((valueOf fp32 x).exact.scaledDown s)

/-- A number from elements of `size` bytes, the first the least significant. -/
def packElems (size : Nat) : List Nat → Nat
  | [] => 0
  | x :: xs => x % 256 ^ size + 256 ^ size * packElems size xs

/-- Everything that a drain stores, with the flags for REEFST (R308). -/
def drainStores (d : Drain) (sat : Bool) (read : Nat → Nat → Nat) : List Piece1 × Nat :=
  let tile := if d.x = 0 then [] else
    (List.range 16).map fun r => (r, (List.range d.cols).map fun n => drainElem d sat (read r n))
  let cols := if d.y = 0 then [] else
    (List.range d.cols).map fun n =>
      let xs := (List.range 16).map fun r => read r n
      let s := drainScale d xs
      (n, s, xs.map (drainCode d sat s))
  let flags := (tile.flatMap fun t => t.2.map fun e => reefFlags e.2)
    ++ cols.flatMap fun c => (if (scaleOf c.2.1).isNone then 8 else 0) :: c.2.2.map fun e => reefFlags e.2
  (tile.map (fun t => rowPiece (d.x + t.1 * d.p) (d.cols * d.size) (packElems d.size (t.2.map Prod.fst)))
    ++ cols.flatMap fun c =>
      [rowPiece (d.z + 2 * c.1) 2 c.2.1, rowPiece (d.y + c.1 * d.q) 16 (packElems 1 (c.2.2.map Prod.fst))],
   flags.foldl (· ||| ·) 0)

/-- What stops a drain (R308). -/
def drainVerdict (s : State) (t : Thread) (d : Drain) (ps : List Piece1) : Option Bad :=
  if d.fmt = 0 ∧ d.y ≠ 0 then some (.trap .undef 0)
  else if d.x ≠ 0 ∧ (d.x % d.size ≠ 0 ∨ d.p % d.size ≠ 0) then some (.trap .align (BitVec.ofNat 64 d.x))
  else if d.y ≠ 0 ∧ d.z % 2 ≠ 0 then some (.trap .align (BitVec.ofNat 64 d.z))
  else tileVerdict s t .write (rangesOf ps)

/-- SATFP in registers. -/
def satfp (r : Regs) : Bool := r.fpctl.toNat.testBit 3

/-- The stores of an issuing drain. -/
def drainNow (f : FT) (s : State) (iss : Issue) : List Piece1 × Nat :=
  let d := drainOf f s iss
  drainStores d (satfp (sourceRegs s iss)) (drainRead s iss d)

/-- The accumulator registers of a drain. -/
def drainRegs (f : FT) : List Nat := regsFrom f.acc.toNat (if has f.m.toNat 3 then 32 else 16)

/-- A list begun at its `n`-th member. -/
def turned (n : Nat) (l : List Piece1) : List Piece1 := l.drop n ++ l.take n

/-- A drain is judged by R37: not before its operands are there, where they may make it trap UNDEF, which ranks before
REGRANGE (R6, R308). -/
def drainRanged (f : FT) (s : State) : Bool :=
  match s.cur with
  | some iss =>
    let d := drainOf f s iss
    let regs := regsFrom f.sx.toNat 5
    d.fmt != 0 || active s iss f.g.toNat == 0 || regs.any (invalidS s iss)
      || (d.y == 0 && !(regs.any fun r => awaitsS (pendingDsts s iss) r)
            && !(s.thread iss.thr).owed (regs.map dueS) iss.lanes (tickOf s (s.thread iss.thr)))
  | none => true

/-- RDRAIN (R308): stores of the warp, in no fixed order where they overlap. -/
def execRdrain (f : FT) (s : State) : Host.Outcome State Fault Refusal :=
  let sh := { reefShape s f with
    vmore := if drainRanged f s then drainRegs f else [], ssrc := regsFrom f.sx.toNat 5, cls := .s, late := true }
  issue sh
    (fun iss s =>
      let t := s.thread iss.thr
      let d := drainOf f s iss
      let out := drainNow f s iss
      if active s iss f.g.toNat = 0 then [fun _ => [moveOn iss]]
      else
        match (drainVerdict s t d out.1).or (if (drainRegs f).any t.lostReg then some (.trap .poison 0) else lostBad s iss sh) with
        | some b => [fun s => strikeAll s iss b]
        | none =>
          let ps := turned ((Config.freeValue (s.fresh + 2 ^ 17)).toNat % (out.1.length + 1)) out.1
          if ps.isEmpty then [fun _ => [claim t t.core, moveOn iss]]
          else
            touchAll (whoOf t) true (touched (pieceUnits s t .write ps))
              ++ [fun s =>
                [claim t t.core, .thread iss.thr (fun t => { t with reefst := t.reefst ||| BitVec.ofNat 32 out.2 }),
                 moveOn iss, .fresh (2 ^ 18)]
                  ++ sendStoreOf s iss (pieceUnits s t .write ps) ps { cls := .s, lanes := iss.lanes, drain := true } .store])
    .skip
    (fun iss s =>
      let t := s.thread iss.thr
      let ps := (drainNow f s iss).1
      active s iss f.g.toNat == 0
        || (!ownedByOther s t t.core && ((drainVerdict s t (drainOf f s iss) ps).isSome || tileFilled s (rangesOf ps))))
    s

/-- The condition of R297 under which `RPAIR #1` fails, 1 to 4. -/
def pairFails (s : State) (t : Thread) : Option Nat :=
  let fol := t.core + 1
  let e := (s.ctx t.ctx).launch t.launch
  if t.core % 4 = 3 then some 1
  else if !e.rectangle.contains fol || !(grantedCores (s.ctx t.ctx) e).contains fol then some 2
  else if ownedByOther s t fol then some 3
  else if (s.core t.core).bind != .none || (s.core fol).bind != .none then some 4
  else none

/-- A pair operation of a leader's binding is accepted and not complete. -/
def pairBusy (s : State) (core : Nat) : Bool := (s.core core).queue.any fun id => (reefOf s id).kind == .macPair

/-- RPAIR (R297, R299). -/
def execRpair (f : FT) (s : State) : Host.Outcome State Fault Refusal :=
  let set := has f.m.toNat 0
  issue (reefShape s f)
    (fun iss s =>
      let t := s.thread iss.thr
      let c := s.core t.core
      if active s iss f.g.toNat = 0 then [fun _ => [moveOn iss]]
      else if c.bind == .follower then [fun s => trapGroup s iss .pairLess 6]
      else if !set then
        [fun s => unbind s t.core ++ [moveOn iss], fun s => endOwnership s (t.core + 1)]
      else if c.bind == .leader then [fun _ => [moveOn iss]]
      else
        match pairFails s t with
        | some n => [fun s => trapGroup s iss .pairLess (BitVec.ofNat 64 n)]
        | none =>
          [fun _ => [claim t t.core, claim t (t.core + 1), .core t.core fun c => { c with bind := .leader },
                     .core (t.core + 1) fun c => { c with bind := .follower }, moveOn iss]])
    .skip
    (fun iss s =>
      let t := s.thread iss.thr
      active s iss f.g.toNat == 0 || (!ownedByOther s t t.core && (set || !pairBusy s t.core)))
    s

/-- The state of a core's array as `RSTAT.reef` reports it (R309). -/
def arrayStatus (s : State) (t : Thread) : Nat :=
  let c := s.core t.core
  let owned := c.owner == some t.launchOf
  let tag := fun i => if owned then (slotOf s t.core i).tag * 2 ^ (3 * i) else 0
  tag 0 + tag 1 + tag 2 + tag 3 + (if c.bind == .leader then 2 ^ 12 else 0) + (if c.bind == .follower then 2 ^ 13 else 0)
    + (if owned then 2 ^ 14 else 0)

/-- RSTAT_REEF (R309). -/
def execRstatReef (f : FT) (s : State) : Host.Outcome State Fault Refusal :=
  let sel := f.m.toNat % 4
  issue { reefShape s f with sdst := [f.sx.toNat] }
    (fun iss s =>
      let t := s.thread iss.thr
      if active s iss f.g.toNat = 0 then [fun _ => [moveOn iss]]
      else
        let v := if sel = 0 then t.reefst.toNat else arrayStatus s t
        [fun _ => [writeS iss.thr f.sx.toNat (BitVec.ofNat 64 v),
                   .thread iss.thr (fun t => if has f.m.toNat 2 then { t with reefst := 0 } else t), moveOn iss]])
    .skip
    (fun iss s => active s iss f.g.toNat == 0 || (opsOf s iss.thr).all fun o => o.2.reef.isNone && !o.2.drain)
    s

end Sys2Proof.Machine
end

