-- ==== Sys2Proof/Machine/Runahead.lean ====
section
/-! DEFINITION. Runahead: RACTL and RASTAT, and the beginning and end of an episode (R255 to R263). -/

namespace Sys2Proof.Machine

/-- RACTL (R261). -/
def execRactl (f : FY) : State → Host.Outcome State Fault Refusal :=
  issue { sdst := [f.sd.toNat] }
    (fun iss s =>
      let old := (s.thread iss.thr).regs.raen
      [fun _ => [writeS iss.thr f.sd.toNat (if old then 1 else 0),
                 .thread iss.thr fun t => t.updRegs fun r => { r with raen := f.imm.toNat % 2 == 1 }, moveOn iss]])
    .skip

/-- A runahead counter of a warp (R262). -/
def Thread.raCounter (t : Thread) (sel : Nat) : Nat :=
  match sel with
  | 0 => t.episodes
  | 1 => t.prefetches
  | 2 => t.useful
  | _ => t.rainsts

/-- Zeroes a runahead counter. -/
def Thread.zeroRaCounter (t : Thread) (sel : Nat) : Thread :=
  match sel with
  | 0 => { t with episodes := 0 }
  | 1 => { t with prefetches := 0 }
  | 2 => { t with useful := 0 }
  | _ => { t with rainsts := 0 }

/-- RASTAT (R262). -/
def execRastat (f : FY) : State → Host.Outcome State Fault Refusal :=
  issue { sdst := [f.sd.toNat] }
    (fun iss s =>
      let sel := f.imm.toNat % 4
      [fun _ => [writeS iss.thr f.sd.toNat (BitVec.ofNat 64 ((s.thread iss.thr).raCounter sel)),
                 .thread iss.thr fun t => if has f.imm.toNat 8 then t.zeroRaCounter sel else t, moveOn iss]])
    .skip

/-! ### The beginning of an episode (R255, R256) -/

/-- The running lanes of a warp. -/
def runningLanes (t : Thread) : Nat := t.laneSet fun l => l.state == .running

/-- The groups live in the blocks of the running lanes, below the budget (R31, R255). -/
def liveGroups (t : Thread) : Nat :=
  (members t.width (runningLanes t)).foldl (fun m l => m ||| field (t.lane l).word 47 16) 0 % 2 ^ (t.budget / 32)

/-- Every running lane's block permits runahead (R29). -/
def raPermitted (t : Thread) : Bool :=
  (members t.width (runningLanes t)).all fun l => has (t.lane l).word.toNat 1

/-- A load of the warp whose request missed in L2 and went to DRAM, and whose data has not arrived. Each load begins one
episode at most (R447; log entry 92). -/
def pendingMiss (s : State) (thr op : Nat) : Bool :=
  let o := s.op op
  o.live && o.thr == thr && o.cls == .l && o.dram && !o.dsts.isEmpty && !o.triggered

/-- The conditions of R255 that the state shows; that no group is ready, and that one is blocked on the
load alone, is judged where the event is chosen (`happen`). -/
def mayRunAhead (s : State) (thr op : Nat) : Bool :=
  let t := s.thread thr
  t.live && t.engine == .core && t.episode.isNone && pendingMiss s thr op
    && !coreFrozen s t.core && runningLanes t != 0 && raPermitted t && t.regs.raen && t.seq.isNone && (s.core t.core).ckpt.isNone
    && decide (checkpointBytes t.width (liveGroups t) ≤ 65536)

/-- The registers that outstanding loads will write, as vector and scalar marks. -/
def pendingMarks (s : State) (thr : Nat) : List Nat × List Nat :=
  let ds := (opsOf s thr).flatMap fun o => o.2.dsts
  (ds.filterMap fun d => match d with | .v r l => some (64 * r + l) | _ => none,
   ds.filterMap fun d => match d with | .s r => if r = 0 then none else some r | _ => none)

/-- RUNAHEAD_ENTRY (R255, R256, R263): checkpoint and shadow are taken and the outstanding destinations marked
invalid, while no group issues. -/
def execRunaheadEntry (thr op : Nat) (s : State) : Host.Outcome State Fault Refusal :=
  .next <|
    if mayRunAhead s thr op then
      let t := s.thread thr
      let marks := pendingMarks s thr
      run [fun s =>
        [.op op fun o => { o with triggered := true }, .thread thr fun t =>
          { t.rest s (2 ^ 64 - 1) (checkpointFc t.width (liveGroups t)) with
            episodes := min (2 ^ 32 - 1) (t.episodes + 1)
            episode := some { trigger := op, shadow := t.regs, groups := liveGroups t, lanesIn := runningLanes t
                              badV := marks.1, badS := marks.2 } },
         .core t.core fun c => { c with ckpt := some thr }] ++ count s t.ctx 0x09 1 t.launch] s
    else s

/-! ### Its end (R259, R260) -/

/-- Every request of an operation has been performed. -/
def arrived (s : State) (op : Nat) : Bool := (reqsOf s op).all fun r => r.2.done

/-- An episode is to end: its trigger's data has arrived, it has run its course, or a pre-emption request has
reached its core (R259, R260); under a freeze its end waits for the thaw. -/
def episodeOver (s : State) (thr : Nat) : Bool :=
  let t := s.thread thr
  match t.episode with
  | none => false
  | some e =>
    !coreFrozen s t.core && (arrived s e.trigger || decide (512 ≤ e.issued) || (s.ctx t.ctx).save != .none)

/-- RUNAHEAD_EXIT (R259). -/
def execRunaheadExit (thr : Nat) (s : State) : Host.Outcome State Fault Refusal :=
  .next (if episodeOver s thr then runThread thr [exitEpisode thr] s else s)

end Sys2Proof.Machine
end

