-- ==== Sys2Proof/Machine/MemEvents.lean ====
section
/-! DEFINITION. What happens to accesses after they are sent: their performance at the points of coherence,
their completion, walks and evictions, region fills, acknowledgements and the requests of peers, and the
service of faults and traps (R173 to R208, R216, R217, R221 to R228, R363, R371, R398). -/

namespace Sys2Proof.Machine

/-! ### When a request may be performed -/

/-- Two requests of one agent: of a thread, or of the map unit acting for one workgroup's regions (R202). -/
def sameAgent (e r : Req) : Bool := e.thr == r.thr && e.unit == r.unit

/-- Two requests meet in a unit. -/
def sharesUnit (e r : Req) : Bool :=
  let z := unitOf e.space
  e.space == r.space && decide (e.key / z ≤ (r.key + r.size - 1) / z) && decide (r.key / z ≤ (e.key + e.size - 1) / z)

/-- An earlier request must be performed first: of the same agent to the same unit (R216), or to device
registers (R175); to the same peer (R227); a posted write on the same host link (R228). -/
def precedes (s : State) (e r : Req) : Bool :=
  (sameAgent e r && sharesUnit e r)
    || (sameAgent e r && e.space == .mmio && r.space == .mmio)
    || (e.space == .peer && r.space == .peer && peerDevice e.key == peerDevice r.key)
    || (e.space == .host && r.space == .host && e.kind == .store && r.kind == .store
        && hostLink s (e.key - hostKey 0) == hostLink s (r.key - hostKey 0))

/-- No earlier request stands in the way of request `n`. -/
def itsTurn (s : State) (n : Nat) : Bool :=
  let r := s.req n
  s.fl.reqs.all fun e => n ≤ e.1 || e.2.done || !precedes s e.2 r

/-- A DEV load waits for the stores and discards that its core sent to the line before (R217). -/
def lineClear (s : State) (n : Nat) : Bool :=
  let r := s.req n
  r.space != .dev || r.core == 768 || s.fl.reqs.all fun e =>
    n ≤ e.1 || e.2.done || e.2.core != r.core || e.2.ctx != r.ctx || e.2.va / 256 != r.va / 256
      || !(e.2.kind == .store || e.2.kind == .discard)

/-- A migration holds writes to the page (R376). -/
def pageHeld (s : State) (sp : Space) (key : Nat) : Bool :=
  match sp, migrationOf s key with
  | .dev, some (_, m) => m.held
  | _, _ => false

/-- A request's peer has refused it, and the fault that this raised is still being served (R398). -/
def refusedNow (s : State) (n : Nat) : Bool := s.fl.faults.any fun f => f.2.live && f.2.who == .request n

/-- Request `n` may be performed at its point of coherence now. -/
def mayPerform (s : State) (n : Nat) : Bool :=
  let r := s.req n
  r.live && !r.done && itsTurn s n && !refusedNow s n
    && match r.kind with
       | .load => lineClear s n
       | .row => rowPerformable s r
       | _ => !pageHeld s r.space r.key

/-! ### Shared effects -/

/-- A demand access of a warp that finds a line in L2 with its prefetch tag (R262); one that misses there finds that the
line, and its tag, has been evicted. -/
def useTag (s : State) (k line : Nat) (miss : Bool) : List Micro :=
  if miss then (if look 0 s.ca.tags line = 0 then [] else [.caches fun c => { c with tags := put 0 c.tags line 0 }])
  else if look 0 s.ca.tags line = k + 1 then
    [.caches fun c => { c with tags := put 0 c.tags line 0 },
     .thread k fun t => { t with useful := min (2 ^ 32 - 1) (t.useful + 1) }]
  else []

/-- What performing a request counts, an L2 line once for each instruction (R386). -/
def countSlice (s : State) (n : Nat) (dram : Bool) : List Micro :=
  let r := s.req n
  let again := r.space == .dev && (heldRow s r.key).isNone
    && s.fl.reqs.any fun e => decide (e.1 < n) && e.2.op == r.op && r.op != 0 && e.2.va / 256 == r.va / 256
  (if again then [] else countLine s r.ctx r.launch r.space r.key dram) ++ [.fresh 2]

/-! ### SLICE_LINE_REQUEST (R204, R205, R216, R217) -/

/-- The 64-byte sector of a DEV unit as a fill brings it: the slice's bytes, with the stores and discards
that the core has sent since and that are still on their way (R217). -/
def fillBytes (s : State) (r : Req) : List (Nat × Byte) :=
  let base := r.va / 64 * 64
  let key := forward s .dev r.key - r.va % 64
  (List.range 64).map fun i =>
    let laid := fun (b : Byte) (e : Nat × Req) =>
      let q := e.2
      if q.live && !q.done && q.core == r.core && q.ctx == r.ctx && q.space == .dev && decide (q.va ≤ base + i)
          && decide (base + i < q.va + q.size) then
        let j := base + i - q.va
        let m := BitVec.ofNat 8 (q.mask / 256 ^ j)
        if q.kind == .store then (b &&& ~~~m) ||| (BitVec.ofNat 8 (q.data / 256 ^ j) &&& m)
        else if q.kind == .discard then 0 else b
      else b
    (base + i, s.fl.reqs.foldl laid (s.byte (key + i)))

/-- The L1 effect of a performed load: a fill under a lease recorded at the slice, or the removal of the
line where none is granted (R205, R212, R233, R238). A sector with poisoned data is not kept (log entry 17). -/
def l1Fill (s : State) (r : Req) : List Micro :=
  if r.space != .dev || r.core == 768 then []
  else if r.acq || atRowBuffer s r.key then [dropLine r.core r.ctx r.va]
  else
    let key := forward s .dev r.key
    let expiry := s.dtAt (dieOfKey .dev key) + (s.ctx r.ctx).lease
    if poisoned s .dev (key - r.va % 64) 64 then [.caches fun c => c.lease (key / 256) expiry]
    else
      [.caches fun c => (c.lease (key / 256) expiry).fillL1 r.core r.ctx (Config.freeValue s.fresh).toNat expiry
        [(r.va / 64 * 64, key - r.va % 64)] (fillBytes s r)]

/-- The bytes that a load reads at its point of coherence. -/
def loadBytes (s : State) (r : Req) : List (Nat × Byte) :=
  if r.space == .mmio then bytesAt r.va 8 (mmioRead s r.key).toNat
  else (List.range r.size).map fun i => (r.va + i, s.byte (forward s r.space r.key + i))

/-- The lanes of a load whose elements lie in a unit, each with its address; a scalar result is its whole group's. -/
def readersOf (o : Op) (r : Req) : List (Nat × Nat) :=
  let meets := fun (e : Elem) => decide (e.bit / 8 < r.va + r.size) && decide (r.va ≤ (e.bit + e.width - 1) / 8)
  let start := fun (p : Dst → Bool) => (o.elems.filter fun e => p e.dst).foldl (fun m e => min m (e.bit / 8)) (2 ^ 57)
  let laneOf := fun (d : Dst) => match d with | .v _ l | .q _ _ l => some l | .s _ => none
  let lanes := distinct ((o.elems.filter meets).filterMap fun e => laneOf e.dst)
  let scalars := (o.elems.filter meets).any fun e => (laneOf e.dst).isNone
  (lanes.map fun l => (l, start fun d => laneOf d == some l))
    ++ (if scalars then (lanesOf o.lanes).map fun l => (l, start fun d => (laneOf d).isNone) else [])

/-- A unit that a load has read is poisoned (R183, R280, R304): a slot load or a queue entry is marked, and the lanes of any
other are to trap when its data returns. -/
def Op.readPoison (r : Req) (o : Op) : Op :=
  if o.reef.isSome then { o with poison := 1 }
  else if o.cls == .q then { o with poison := o.poison ||| setOf ((readersOf o r).map Prod.fst) }
  else { o with struck := o.struck ++ (readersOf o r).filter fun x => !o.struck.any fun y => y.1 == x.1 }

/-- A load's request is performed. Only an access that is not served at a row buffer goes through L2 (R238, R255). -/
def performLoad (n : Nat) (dram : Bool) : Phase := fun s =>
  let r := s.req n
  let miss := dram && r.space == .dev && !atRowBuffer s r.key
  let bad := poisoned s r.space (forward s r.space r.key) r.size
  [.req n (fun r => { r with done := true }),
   .op r.op fun o =>
     let o := { o with bytes := arrive (loadBytes s r) o.bytes, dram := o.dram || miss }
     if bad then o.readPoison r else o]
    ++ l1Fill s r ++ (if r.space == .dev then useTag s r.thr (r.key / 256) miss else []) ++ countSlice s n miss

/-- SLICE_LINE_REQUEST (R205): the home slice, or another point of coherence, serves a load or a copy's
read; `dram` says that it missed in L2. -/
def execSliceLineRequest (piece : Piece) (dram : Bool) (s : State) : Host.Outcome State Fault Refusal :=
  .next <|
    match piece with
    | .req n => if (s.req n).kind == .load && mayPerform s n then run [performLoad n dram] s else s
    | .copy n i => if (s.copy n).mayRead s i then run (readPiece n i dram) s else s

/-! ### SLICE_STORE and SLICE_DISCARD (R207, R223) -/

/-- Who writes a register through a request. -/
def writerOf (s : State) (k : Nat) : Writer := if (s.thread k).engine == .harbour then .harbour else .lane

/-- The value that a masked write gives a register. -/
def maskedReg (s : State) (r : Req) : W64 :=
  let m := BitVec.ofNat 64 r.mask
  (mmioRead s r.key &&& ~~~m) ||| (BitVec.ofNat 64 r.data &&& m)

/-- The bytes and registers that a store's request writes. -/
def storeEffect (s : State) (r : Req) : List Micro :=
  match r.kind, r.space with
  | .syncInit, _ =>
    let w := readNat s r.key 16
    storeAt s .lagoon r.ctx r.key 16 (allBits 16) (makeSync r.data 0 (syncGen w) 0)
  | _, .mmio => mmioWrite s (writerOf s r.thr) r.key (maskedReg s r)
  | _, sp => storeAt s sp r.ctx (forward s sp r.key) r.size r.mask r.data

/-- A store's request is performed and its GWCT noted; a posted write that its instruction no longer awaits
is gone (R207, R228). -/
def performStore (n : Nat) : Phase := fun s =>
  let r := s.req n
  let gwct := gwctOf s r.space (forward s r.space r.key)
  storeEffect s r
    ++ [.req n fun r => if r.op = 0 then {} else { r with done := true, gwct }]
    ++ (if r.space == .dev then useTag s r.thr (r.key / 256) (guessMiss s) else [])
    ++ countSlice s n (guessMiss s)

/-- SLICE_STORE (R207): a store, a `SYNCINIT`, a request of `ROPEN` or `RRENEW`, or a copy's write is
performed at its point of coherence. -/
def execSliceStore (piece : Piece) (s : State) : Host.Outcome State Fault Refusal :=
  .next <|
    match piece with
    | .req n =>
      if mayPerform s n then
        match (s.req n).kind with
        | .store | .syncInit => run [performStore n] s
        | .row => run [fun s => performRow s n] s
        | _ => s
      else s
    | .copy n i => if (s.copy n).mayWrite s i then run (writePiece n i) s else s

/-- The requests of a `DISC` for the line of one of them. -/
def discardLine (s : State) (n : Nat) : List Nat :=
  let r := s.req n
  keysOf (s.fl.reqs.filter fun e => e.2.op == r.op && e.2.thr == r.thr && e.2.kind == .discard && !e.2.done
    && e.2.va / 256 == r.va / 256)

/-- SLICE_DISCARD (R223): the whole line is zeroed at its slice. -/
def execSliceDiscard (n : Nat) (s : State) : Host.Outcome State Fault Refusal :=
  .next <|
    let line := discardLine s n
    if (s.req n).kind == .discard && !line.isEmpty && line.all (mayPerform s) then run (line.map performStore) s else s

/-! ### SLICE_ATOMIC (R196 to R200) -/

/-- The sum of the slice ALU (R197). -/
def sliceAdd (f : Format) (a b : Nat) : Nat :=
  let v := fun c => valueOf f (flushCode f true c)
  (roundTo f { ftz := true } (sumVals 0 [v a, v b]).1).1

/-- The new value of an operation on a 32-bit location (R197). -/
def atomNew (aop m x : Nat) : Nat :=
  let sm := BitVec.ofNat 32 m
  let sx := BitVec.ofNat 32 x
  match aop with
  | 0x00 => (m + x) % 2 ^ 32
  | 0x01 => if sx.slt sm then x else m
  | 0x02 => min m x
  | 0x03 => if sm.slt sx then x else m
  | 0x04 => max m x
  | 0x05 => m &&& x
  | 0x06 => m ||| x
  | 0x07 => m ^^^ x
  | 0x08 => x
  | 0x09 => sliceAdd fp32 m x
  | _ => sliceAdd bf16 (m % 2 ^ 16) (x % 2 ^ 16) + sliceAdd bf16 (m / 2 ^ 16) (x / 2 ^ 16) * 2 ^ 16

/-- The operand of a request of `ATOM`: its lanes' operands combined in ascending order; for exch the last
(R199). -/
def mergeAtoms : List Atom → List Atom
  | [] => []
  | a :: as =>
    if a.aop < 16 ∧ a.dst.isEmpty then [{ a with x := as.foldl (fun x b => atomNew a.aop x b.x) a.x }] else a :: as

/-- A compare (R200). -/
def Atom.compares (a : Atom) : Bool := decide (16 ≤ a.aop)

/-- What the first atom of a request does to the location's old value: the new value, if it is written. -/
def Atom.writes (a : Atom) (m : Nat) : Option Nat :=
  if a.compares then (if m = a.cmp && a.canW then some a.x else none) else some (atomNew a.aop m a.x)

/-- The results of an atom from the old value. -/
def Atom.results (a : Atom) (m : Nat) : List (Dst × W64) :=
  a.dst.zipIdx.map fun d => (d.1, BitVec.ofNat 64 (m / 2 ^ (32 * d.2) % 2 ^ 32))

/-- A compare that finds its value, not poisoned, but whose page has W = 0: the lane parks (R183, R200). -/
def parksHere (s : State) (n : Nat) : Option Atom :=
  let r := s.req n
  match mergeAtoms r.atoms with
  | a :: _ =>
    let key := forward s r.space r.key
    if a.compares && !a.canW && readNat s key r.size == a.cmp && !poisoned s r.space key r.size then some a else none
  | [] => none

/-- Parks the lane of a compare: its part of the instruction is dropped and will be issued anew. -/
def parkCompare (n : Nat) (a : Atom) (s : State) : State :=
  let r := s.req n
  let o := s.op r.op
  let level := match translate s (whoOf (s.thread r.thr)) .compare r.va with | .ok p => p.level | .error m => m.level
  let mine := fun (d : Dst) => match d with | .v _ l => l == a.lane | _ => false
  let drop := [fun (_ : State) =>
    [Micro.req n fun r => let rest := r.atoms.drop 1; { r with atoms := rest, done := rest.isEmpty },
     .op r.op fun o => { o with dsts := o.dsts.filter fun d => !mine d, lanes := without o.lanes (2 ^ a.lane) }]]
  if (s.thread r.thr).live then
    runThread r.thr (drop ++ [fun s => strike s r.thr o.pc o.lanes
      [(a.lane, .miss { access := 2, reason := 4, level, va := r.va })]]) s
  else run drop s

/-- The lanes for which the first atom of a request is performed. -/
def atomLanes (as : List Atom) : List Nat :=
  match as with
  | [] => []
  | a :: rest => if a.aop < 16 ∧ a.dst.isEmpty then a.lane :: rest.map Atom.lane else [a.lane]

/-- Lanes whose atomic has found its location poisoned are to trap when it returns (R183). -/
def Op.atomPoison (va : Nat) (lanes : List Nat) (o : Op) : Op :=
  { o with struck := o.struck ++ (lanes.filter fun l => !o.struck.any fun y => y.1 == l).map fun l => (l, va) }

/-- The first atom of a request is performed with no intervening access; of an add.bf16x2 the low half
(R196, R198). On a poisoned location it performs nothing (R183). -/
def performAtom (n : Nat) : Phase := fun s =>
  let r := s.req n
  let key := forward s r.space r.key
  let m := readNat s key r.size
  match mergeAtoms r.atoms with
  | [] => [.req n fun r => { r with done := true }]
  | a :: rest =>
    let gwct := max r.gwct (gwctOf s r.space key)
    let common := (if r.space == .dev then useTag s r.thr (r.key / 256) (guessMiss s) else []) ++ countSlice s n (guessMiss s)
    if poisoned s r.space key r.size then
      .req n (fun r => { r with atoms := rest, done := rest.isEmpty, gwct })
        :: .op r.op (Op.atomPoison r.va (atomLanes r.atoms)) :: common
    else if a.aop = 10 then
      storeAt s r.space r.ctx key 2 (allBits 2) (sliceAdd bf16 (m % 2 ^ 16) (a.x % 2 ^ 16))
        ++ .req n (fun r => { r with atoms := { a with cmp := m % 2 ^ 16 } :: rest, half := true, gwct }) :: common
    else
      (match a.writes m with
        | some x => storeAt s r.space r.ctx key r.size (allBits r.size) x
        | none => [])
        ++ [.req n (fun r => { r with atoms := rest, done := rest.isEmpty, gwct }),
            .op r.op fun o => { o with outs := o.outs ++ a.results m }] ++ common

/-- Who made a request. -/
def requester (s : State) (r : Req) : Who := { whoOf (s.thread r.thr) with ctx := r.ctx }

/-- A compare that will write marks its page dirty first (R174, R200). -/
def markDirty (n : Nat) : Phase := fun s =>
  let r := s.req n
  match mergeAtoms r.atoms with
  | a :: _ =>
    let key := forward s r.space r.key
    if a.compares && (a.writes (readNat s key r.size)).isSome && !poisoned s r.space key r.size then touch s (requester s r) r.va true else []
  | [] => []

/-- SLICE_ATOMIC (R196): lanes of one request are performed one after another, each in an event of its
own (R199). -/
def execSliceAtomic (n : Nat) (s : State) : Host.Outcome State Fault Refusal :=
  .next <|
    let r := s.req n
    if r.kind == .atomic && !r.half && mayPerform s n then
      match parksHere s n with
      | some a => if (s.thread r.thr).episode.isSome then s else parkCompare n a s
      | none => run [markDirty n, performAtom n] s
    else s

/-- The answer to a peer. -/
def answerPeer (ok : Bool) (data gwct : Nat) : List Micro := [send (.peerReply ok data gwct)]

/-- ATOMIC_HIGH_HALF (R198): the high half of an add.bf16x2, which returns each half's own old value. A peer's is
answered. -/
def execAtomicHighHalf (n : Nat) (s : State) : Host.Outcome State Fault Refusal :=
  .next <|
    let r := s.req n
    if r.live && r.kind == .atomic && r.half && !pageHeld s r.space r.key then
      match r.atoms with
      | [] => s
      | a :: rest =>
        run [fun s =>
          let key := forward s r.space r.key + 2
          let m := readNat s key 2
          let gwct := max r.gwct (gwctOf s r.space key)
          let next := Micro.req n fun r => { r with atoms := rest, half := false, done := rest.isEmpty, gwct }
          let write := storeAt s r.space r.ctx key 2 (allBits 2) (sliceAdd bf16 m (a.x / 2 ^ 16 % 2 ^ 16))
          if r.inbound then
            (if poisoned s r.space key 2 then [] else write) ++ .req n (fun _ => {}) :: answerPeer true (a.cmp + m * 2 ^ 16) gwct
          else if poisoned s r.space key 2 then [next, .op r.op (Op.atomPoison r.va [a.lane])]
          else write ++ [next, .op r.op fun o => { o with outs := o.outs ++ a.results (a.cmp + m * 2 ^ 16) }]] s
    else s

/-! ### Completion (R84, R200, R207, R208) -/

/-- The latest time that an operation's requests have returned. -/
def returnedTime (s : State) (id : Nat) : Nat :=
  ((reqsOf s id).filter fun r => r.2.kind != .load).foldl (fun m r => max m r.2.gwct) (s.op id).gwct

/-- Every request of an operation has been performed and, of a peer's, acknowledged. -/
def answered (s : State) (id : Nat) : Bool :=
  (reqsOf s id).all fun r => r.2.done && (r.2.kind == .load || r.2.acked)

/-- The lanes that a compare holds go on, after the acquire that it carries (R200, R212); those whose data was poisoned
trap there, with the rest of their sequence (R86). -/
def goOn (id : Nat) : Phase := fun s =>
  let o := s.op id
  let t := s.thread o.thr
  let held := t.laneSet fun l => l.state == .running && l.hold == .tile id
  let mask := if !o.struck.isEmpty && inSequence t o.pc then 0 else without held (setOf (o.struck.map Prod.fst))
  if mask = 0 then []
  else if o.acq ≠ 0 then
    [.thread o.thr fun t => t.updLanes mask fun l => { l with hold := .fence .acq o.acq s.fl.next .done }]
  else [.thread o.thr fun t => t.moveOn o.pc mask 8]

/-- The results of a load are written, and lanes whose data was poisoned trap (R183). -/
def landLoad (id : Nat) : Phase := fun s =>
  let o := s.op id
  .thread o.thr (fun t => (t.land s.fresh (resultsOf o)).dropCounter .l) :: foldTime o.thr (returnedTime s id)
    :: strikeLate o.thr id s ++ dropOp s id ++ (if (s.thread o.thr).reefUse.isEmpty then [] else [.fresh (2 ^ 16)])

/-- A load that completes during an episode of its warp is written at the exit; its counter and its time
are not part of the shadow (R256). -/
def keepLoad (id : Nat) : Phase := fun s =>
  let o := s.op id
  [.thread o.thr (fun t =>
      { t.dropCounter .l with episode := t.episode.map fun (e : Episode) => { e with held := e.held ++ [id] } }),
   foldTime o.thr (returnedTime s id), .op id fun o => { o with cls := .none }]
    ++ (reqsOf s id).map fun r => .req r.1 fun _ => {}

/-- LOAD_COMPLETE (R84, R259): the data of a load, an `ATOMR`, a compare or a row request is written. The
arrival of an episode's trigger ends the episode. The bytes of a slot load let the array accept it (R304). -/
def execLoadComplete (id : Nat) (s : State) : Host.Outcome State Fault Refusal :=
  .next <|
    let o := s.op id
    if gated s o.thr then s
    else if o.live && o.cls == .l && o.reef.isNone && answered s id then
      let waiting := (s.thread o.thr).laneSet (fun l => l.hold == Hold.tile id)
      match (s.thread o.thr).episode with
      | none => runThread o.thr [goOn id, landLoad id] s
      | some e =>
        if e.trigger = id then runThread o.thr [exitEpisode o.thr, goOn id, landLoad id] s
        else if waiting != 0 then s
        else run [keepLoad id] s
    else if o.live && o.reef.isSome && answered s id then acceptLoad id s
    else s

/-- A store is complete: its times have returned, or the link has sent it (R207). -/
def storeReturned (s : State) (id : Nat) : Bool :=
  !awaitsClose (s.op id) && (reqsOf s id).all fun r => r.2.space == .host || (r.2.done && r.2.acked)

/-- STORE_COMPLETE (R84, R207, R208); lanes whose atomic met poison trap, out of an episode (R183). -/
def execStoreComplete (id : Nat) (s : State) : Host.Outcome State Fault Refusal :=
  .next <|
    let o := s.op id
    if o.live && o.cls == .s && o.reef.isNone && !o.struck.isEmpty && storeReturned s id then
      if gated s o.thr then s
      else runThread o.thr [exitEpisode o.thr, fun s =>
        .thread o.thr (Thread.dropCounter .s) :: foldTime o.thr (returnedTime s id) :: strikeLate o.thr id s
          ++ .op id (fun _ => {}) :: (reqsOf s id).map fun r => .req r.1 fun r => if r.done then {} else { r with op := 0 }] s
    else if o.live && o.cls == .s && o.reef.isNone && storeReturned s id then
      run ([fun s =>
        [.thread o.thr (Thread.dropCounter .s), foldTime o.thr (returnedTime s id), .op id fun _ => {}]
          ++ (reqsOf s id).map fun r => .req r.1 fun r => if r.done then {} else { r with op := 0 }]
        ++ (if backKey 0 ≤ o.thr then finishWg (o.thr - backKey 0) (s.wg (o.thr - backKey 0)) else [])) s
    else s

/-- PEER_ACK (R207, R227): the acknowledgement of a peer brings its GWCT + 48 ns. -/
def execPeerAck (n gwct : Nat) (s : State) : Host.Outcome State Fault Refusal :=
  .next <|
    let r := s.req n
    if r.live && r.space == .peer && r.done && !r.acked && r.kind != .load then
      run [fun _ =>
        match r.copy with
        | none => [.req n fun r => { r with acked := true, gwct := max r.gwct (gwct + 48) }]
        | some c =>
          let stamp := fun (m : Moved) => if m.req == some n then { m with req := none, gwct := gwct + 48 } else m
          [.req n (fun _ => {}), .copy c fun x => { x with moved := x.moved.map stamp }]] s
    else s

/-! ### Walks and evictions (R174, R205, R221, R384) -/

/-- TLB_WALK (R221): a walker reads the table lines at their slices and fills an entry under a lease; the A
and D bits are set by the access that needs the entry (R174). -/
def execTlbWalk (cluster : Nat) (w : WalkFor) (va : Nat) (s : State) : Host.Outcome State Fault Refusal :=
  .next <|
    let who : Who := { ctx := w.ctx, cluster, die := dieOfCluster cluster, launch := w.launch }
    let va := va % 2 ^ 56
    if cluster < 48 ∧ (s.ctx w.ctx).live ∧ !inLagoon va ∧ (tlbFind s who va).isNone then
      match pageOf s who { va } va false with
      | .ok p => run [fun s => tlbFill s who va p :: count s w.ctx 0x0E 1 w.launch] s
      | .error _ => run [fun s => count s w.ctx 0x0E 1 w.launch] s
    else s

/-- A prefetched line leaves L2, and its tag with it (R262). -/
def evictL2 (line : Nat) (s : State) : State := run [fun _ => [.caches fun c => { c with tags := put 0 c.tags line 0 }]] s

/-- A prefetch arrives: its miss-status entry is free (R257). -/
def prefetchArrives (core line : Nat) (s : State) : State :=
  match (s.core core).prefetching.find? fun p => p.1 == line with
  | some p => run [fun _ => [.core core fun c => { c with prefetching := c.prefetching.erase p }]] s
  | none => s

/-- An entry leaves its slice's walk cache (R370). -/
def evictWalk (pa : Nat) (s : State) : State :=
  run [fun _ => [.caches fun c => { c with walks := c.walks.filter fun u => u.pa != pa }]] s

/-- TLB_EVICTION (R384). -/
def execTlbEviction (cluster ctx va : Nat) (s : State) : Host.Outcome State Fault Refusal :=
  .next (run [fun _ => [.caches fun c =>
    { c with tlb := c.tlb.filter fun e => !(e.cluster == cluster && e.ctx == ctx && e.vpn == va % 2 ^ 56 / 2 ^ 16) }]] s)

/-- L1_EVICTION (R205). -/
def execL1Eviction (core ctx va : Nat) (s : State) : Host.Outcome State Fault Refusal :=
  .next (run [fun _ => [dropLine core ctx (va % 2 ^ 56)]] s)

/-! ### Region fills (R176, R178, R235) -/

/-- A granule's global page may be read now: from a peer, after what was sent to it before (R227). -/
def fillClear (s : State) (who : Who) (src : Nat) : Bool :=
  match unitAt s who .read src with
  | some u => linkClear s u false
  | none => false

/-- REGION_FILL (R176): an unfilled granule is filled whole from global memory, poison with it. A fill that
meets a fault or MMIO brings nothing: who waits for it parks or traps (R178). That an access touches the granule is
judged where the event is chosen (`happen`). -/
def execRegionFill (w i granule : Nat) (s : State) : Host.Outcome State Fault Refusal :=
  .next <|
    match (s.wg w).regions[i]? with
    | none => s
    | some r =>
      let who := mapUnit s w
      let src := r.global + granule * 65536
      if r.live && !r.closing && decide (granule < r.count) && !r.filled.contains granule
          && (engineBad s who false src).isNone && fillClear s who src then
        run [fun s => touch s who src false,
             fun s =>
              match translate s who .read src with
              | .error _ => []
              | .ok p =>
                let key := forward s p.space p.key
                let first := lagoonKey (lagoonCluster r.lagoon) (r.lagoon % 2 ^ 24) + granule * 65536
                let bad := (List.range 1024).filter fun j => poisoned s p.space (key + 64 * j) 64
                [.bytes ((List.range 65536).map fun j => (first + j, s.byte (key + j))),
                 .poison fun l => (bad.map fun j => first + 64 * j)
                   ++ l.filter fun x => !(decide (first ≤ x) && decide (x < first + 65536)),
                 .caches fun c => { c with writer := (List.range 65536).foldl (fun m j => put 0 m (first + j) (who.ctx + 1)) c.writer },
                 .wg w fun g => g.updRegion i fun r => { r with filled := granule :: r.filled }]] s
      else s

/-! ### Requests of peers (R378, R398) -/

/-- The Harbour's table lists a device as an owner of the range that holds an address (R398). -/
def ownerListed (s : State) (source pa : Nat) : Bool :=
  s.sys.owners.any fun o => o.1 == source && decide (o.2.1 ≤ pa) && decide (pa ≤ o.2.2)

/-- The key under which what a peer asks for is performed. -/
def peerAgent (source : Nat) : Nat := 2 ^ 62 + source

/-- Who makes a home-served access at its home: the context RCTX, seen from its home cluster (R397). -/
def homeWho (s : State) (ctx : Nat) : Who :=
  { ctx, cluster := (s.ctx ctx).home, die := dieOfCluster (s.ctx ctx).home }

/-- What a peer's request asks of a translation. -/
def peerAccess (q : PeerRequest) : Access :=
  match q.atom with
  | some a => if a.compares then .compare else .atomic
  | none => if q.write then .write else .read

/-- Where a peer's request lies: at its physical address, or where its address is mapped in context RCTX, whose leaf a
compare may not write through. What is no DEV memory there does not translate (log entry 99). -/
def peerPlace (s : State) (q : PeerRequest) : Except Miss (Nat × Bool) :=
  match q.home with
  | none => .ok (q.pa % 2 ^ 52, true)
  | some c =>
    match translate s (homeWho s c) (peerAccess q) (q.pa % 2 ^ 40) with
    | .error m => .error m
    | .ok p =>
      if p.space == .dev then .ok (p.key, p.canW)
      else .error { access := (peerAccess q).kind, reason := 0, level := 4, va := q.pa % 2 ^ 40 }

/-- A home-served access faults at this device: its Harbour is to serve it (R371). -/
def homeFault (q : PeerRequest) (c : Nat) (m : Miss) : Phase := fun s =>
  let who := homeWho s c
  [.bump 1, .fault s.fl.next fun _ =>
    { live := true, who := .peer q.source, ctx := c, die := who.die, miss := { m with home := true, gpa := q.pa % 2 ^ 52 } },
   pend who.die 0 1]

/-- A peer's access at its home slice. An add.bf16x2 performs its low half; ATOMIC_HIGH_HALF performs the rest (R198). -/
def servePeer (q : PeerRequest) (pa : Nat) (canW : Bool) : Phase := fun s =>
  let key := forward s .dev (pa / 16 * 16)
  match q.atom with
  | some a =>
    let a := { a with canW }
    let at_ := forward s .dev pa
    let size := if a.aop = 17 then 8 else 4
    let m := readNat s at_ size
    if a.aop = 10 then
      let half : Req := { live := true, thr := peerAgent q.source, kind := .atomic, key := pa, va := pa, size
                          atoms := [{ a with cmp := m % 2 ^ 16 }], half := true, inbound := true, gwct := gwctOf s .dev at_ }
      .bump 1 :: storeAt s .dev 64 at_ 2 (allBits 2) (sliceAdd bf16 (m % 2 ^ 16) (a.x % 2 ^ 16))
        ++ [.req s.fl.next fun _ => half]
    else
      (match a.writes m with
        | some x => storeAt s .dev 64 at_ size (allBits size) x
        | none => []) ++ answerPeer true m (gwctOf s .dev at_)
  | none =>
    if q.write then storeAt s .dev 64 key 16 q.mask q.data ++ answerPeer true 0 (gwctOf s .dev key)
    else answerPeer true (readNat s key 16) 0

/-- A peer's compare finds its value where the leaf forbids the write (R200). -/
def peerParks (s : State) (q : PeerRequest) (pa : Nat) (canW : Bool) : Bool :=
  match q.atom with
  | some a => a.compares && !canW && readNat s (forward s .dev pa) (if a.aop = 17 then 8 else 4) == a.cmp
  | none => false

/-- PEER_REQUEST (R398, R378): a request whose source is not listed, or a write or atomic with an old map
generation, is refused; any other is performed at the home slice, at the place that R397 gives it, after what its source
asked for before. A write or atomic is answered with its GWCT. -/
def execPeerRequest (q : PeerRequest) (s : State) : Host.Outcome State Fault Refusal :=
  .next <|
    let changes := q.write || q.atom.isSome
    if !ownerListed s q.source (q.pa % 2 ^ 52) || (changes && q.gen % 256 != s.sys.mapGen % 256) then
      run [fun _ => answerPeer false 0 0] s
    else if s.fl.reqs.any fun r => r.2.live && r.2.inbound && r.2.thr == peerAgent q.source then s
    else
      match peerPlace s q, q.home with
      | .error m, some c => run [homeFault q c m] s
      | .error _, none => s
      | .ok (pa, canW), home =>
        if changes && pageHeld s .dev pa then s
        else
          match home with
          | none => run [servePeer q pa canW] s
          | some c =>
            let m : Miss := { access := 2, reason := 4, level := 4, va := q.pa % 2 ^ 40 }
            if peerParks s q pa canW then run [homeFault q c m] s
            else run [fun s => touch s (homeWho s c) (q.pa % 2 ^ 40) (peerAccess q).needW, servePeer q pa canW] s

/-- A peer refuses a request of this device whose source it does not list: the agent parks with a second-stage fault, and
the request stands until the fault is served (R398; log entry 99). One that is refused for an old map generation is
replayed in its place (R378). -/
def refuseRequest (n : Nat) (s : State) : State :=
  let r := s.req n
  if r.space == .peer && mayPerform s n then
    let t := s.thread r.thr
    let mine := if r.op = 0 then 0 else (s.op r.op).lanes &&& t.laneSet fun l => l.state == .running
    run [fun s =>
      .bump 1 :: (routeFault s s.fl.next r.ctx
          { live := true, who := .request n, ctx := r.ctx, die := t.die
            miss := { access := if r.kind == .load then 0 else if r.kind == .atomic then 2 else 1, reason := 0, level := 4
                      va := r.va, stage2 := true, gpa := r.key } })
        ++ (if t.live then [.thread r.thr fun t => t.updLanes mine fun l => { l with state := .parked s.fl.next }]
            else [])] s
  else s

/-- What a peer refuses: a request, or a copy's read or write of a unit, on which the copy stalls. -/
def refusePiece (p : Piece) (s : State) : State :=
  match p with
  | .req n => refuseRequest n s
  | .copy n i =>
    let c := s.copy n
    let peer := fun (a : Access) va => match unitAt s c.who a va with
      | some u => if u.space == .peer then some u.key else none
      | none => none
    let stall := fun (kind va key : Nat) => run [fun s => stallCopy s n c
      { access := kind, reason := 0, level := 4, va, stage2 := true, gpa := key }] s
    match (if c.mayRead s i then peer .read (c.srcOf i) else none), (if c.mayWrite s i then peer .write (c.dstOf i) else none) with
    | some key, _ => stall 0 (c.srcOf i) key
    | _, some key => stall 1 (c.dstOf i) key
    | _, _ => s

/-! ### Service of faults and delivery of traps (R363, R371, R375) -/

/-- The action code of a service (R374). -/
def serviceCode : Service → Nat
  | .retry _ => 0
  | .fail => 1
  | .noFrame => 2

/-- The second-stage entries that a service writes. -/
def serviceWrites (s : State) : Service → List Micro
  | .retry es => es.flatMap fun e => storeAt s .dev 64 (e.1 % 2 ^ 52 / 8 * 8) 8 (allBits 8) e.2.toNat
  | _ => []

/-- SECOND_STAGE_SERVICE (R371, R375): the Harbour pair of the die serves a second-stage fault, unless the
host does or the pair is restarting or in a handover (R424, R431). -/
def execSecondStageService (id : Nat) (a : Service) (s : State) : Host.Outcome State Fault Refusal :=
  .next <|
    let f := s.fault id
    if f.live && f.miss.stage2 && !f.miss.home && !hostAssisted s (s.ctx f.ctx).atoll 0 && !(s.die f.die).restart
        && !(s.die f.die).handover then
      resumeAndSettle id (serviceCode a) (run [fun s => serviceWrites s a] s)
    else s

/-- PEER_HOME_FAULT (R371): the home device's Harbour serves the fault of a home-served access and answers
over the fabric; after a retry the page translates there. It is this device's own Harbour that serves a peer's. -/
def execPeerHomeFault (id : Nat) (a : Service) (s : State) : Host.Outcome State Fault Refusal :=
  .next <|
    let f := s.fault id
    if f.live && f.miss.home then
      let heal := match a, f.who with
        | .retry _, .peer _ => serviceWrites s a
        | .retry _, _ => [Micro.sys fun y => { y with homeBad := y.homeBad.filter (· != f.miss.gpa / 2 ^ 16) }]
        | _, _ => []
      resumeAndSettle id (serviceCode a) (run [fun _ => heal] s)
    else s

/-- TRAP_DELIVERY (R363): a record that is due is delivered to a handler in a free slot of its cluster's
SCC, or ends its lanes where TRAPVEC is zero (R364). -/
def execTrapDelivery (id : Nat) (s : State) : Host.Outcome State Fault Refusal :=
  .next <|
    let r := s.trap id
    if deliverable s id then
      if (s.ctx r.ctx).trapvec = 0 then runThread r.thr [deliver id] s
      else
        match freeSccSlot s r.cluster 8 with
        | some slot => runThread (sccKey r.cluster slot) [deliver id] s
        | none => s
    else s

end Sys2Proof.Machine
end

