-- ==== Sys2Proof/Machine/Tide.lean ====
section
/-! DEFINITION. The tide loop: beats and periods, the controller step, the allocator, and BEAT, TSET, TREAD
and PCLASS (R312 to R335). -/

namespace Sys2Proof.Machine

/-! ### Periods (R312, R318) -/

/-- The length of a control period in ns. -/
def Atoll.periodNs (a : Atoll) : Nat := 1000 * a.period

/-- The next period end that a context has to serve. -/
def nextEnd (a : Atoll) (t : Tide) : Nat := (t.period / a.periodNs + 1) * a.periodNs

/-- Every period end up to a thread's device time has been served (R312). -/
def periodsServed (iss : Issue) (s : State) : Bool :=
  let t := s.thread iss.thr
  let c := s.ctx t.ctx
  !c.live || decide (dtOf s t < nextEnd (s.atoll c.atoll) c.tide)

/-- The live contexts of an atoll. -/
def ctxsOf (s : State) (atoll : Nat) : List Nat :=
  keysOf (s.ctxs.filter fun c => c.2.live && c.2.atoll == atoll)

/-- The period end that an atoll serves next. -/
def periodDue (s : State) (atoll : Nat) : Option Nat :=
  (ctxsOf s atoll).foldl (fun m n =>
    let t := nextEnd (s.atoll atoll) (s.ctx n).tide
    match m with
    | none => some t
    | some x => some (min x t)) none

/-- A cluster of a context is throttled. -/
def throttledNow (s : State) (n : Nat) : Bool := (residentClusters s n).any fun cl => decide (0 < (s.cluster cl).throt)

/-- A launch of a context is frozen. -/
def Ctx.frozenNow (c : Ctx) : Bool := c.openLaunches.any Launch.frozen

/-- A context whose workgroups may be placed, so that the allocator serves it (R322). -/
def Ctx.served (c : Ctx) : Bool := c.live && c.active && c.save != .saved

/-- A period ends for a context: its count goes to the controller step, which starts from the values as they
stand (R312, R318, R319). -/
def Ctx.endPeriod (s : State) (n t : Nat) (c : Ctx) : Ctx :=
  let x := c.tide
  let step : Step :=
    { at_ := t, own := x.count, job := x.job, merged := if x.job = 0 then some x.count else none
      target := x.target, kp := x.kp, ki := x.ki, umax := x.umax, enable := x.enable, imax := x.imax, dmax := x.dmax
      pos := x.pos, int := x.int, held := x.short || x.throttled || x.stopped, throttled := x.throttled, first := x.first }
  { c with tide := { x with
      period := t, count := 0, throttled := throttledNow s n, stopped := c.frozenNow
      step := if c.served then some step else x.step } }

/-- The contexts whose period end `t` is being served. -/
def steppingAt (s : State) (t : Nat) : List Nat :=
  keysOf (s.ctxs.filter fun c => match c.2.tide.step with | some x => x.at_ == t | none => false)

/-- The members of a job among the contexts that serve a period end. -/
def membersAt (s : State) (job t : Nat) : List Nat :=
  (steppingAt s t).filter fun n => match (s.ctx n).tide.step with | some x => x.job == job | none => false

/-- The smallest own count among members (R399). -/
def localMinimum (s : State) (ns : List Nat) : Nat :=
  ns.foldl (fun m n => match (s.ctx n).tide.step with | some x => min m x.own | none => m) (2 ^ 24)

/-- The atoll of a context owns a fabric port. -/
def hasPort (s : State) (n : Nat) : Bool := (s.atoll (s.ctx n).atoll).ports != 0

/-- Every active member of a job on this device has served a period end (R399). -/
def membersReady (s : State) (job t : Nat) : Bool :=
  s.ctxs.all fun c => !(c.2.served && c.2.tide.job == job) || decide (t ≤ c.2.tide.period)

/-- The reports that a period end sends: one for each job whose active members on this device have all served
it, if one of them reaches the fabric (R324, R399). -/
def jobReports (s : State) (t : Nat) : List Micro :=
  let jobs := distinct ((steppingAt s t).map fun n => (s.ctx n).tide.job)
  jobs.flatMap fun j =>
    let ms := membersAt s j t
    if j = 0 || !(ms.any (hasPort s)) || !membersReady s j t then []
    else [send (.report j t (localMinimum s ms))]

/-- PERIOD_END (R312, R318): the own counts are passed to the controller step and set to zero. -/
def execPeriodEnd (atoll : Nat) (s : State) : Host.Outcome State Fault Refusal :=
  .next <|
    match periodDue s atoll with
    | none => s
    | some t =>
      let ns := (ctxsOf s atoll).filter fun n => nextEnd (s.atoll atoll) (s.ctx n).tide == t
      if t ≤ s.sys.dt ∧ ns.all fun n => (s.ctx n).tide.step.isNone then
        run [fun s => ns.map fun n => .ctx n (Ctx.endPeriod s n t), fun s => jobReports s t] s
      else s

/-! ### Merging (R324, R325, R399) -/

/-- The counts of steps become known. -/
def mergeSteps (ns : List Nat) (b : Nat) : List Micro :=
  ns.map fun n => .ctx n fun c =>
    { c with tide := { c.tide with step := c.tide.step.map fun (x : Step) => { x with merged := some b } } }

/-- The steps of a job that await their merge, for a period end that an atoll serves. -/
def awaiting (s : State) (atoll job : Nat) : Option (Nat × List Nat) :=
  let open_ := fun n => match (s.ctx n).tide.step with | some x => x.merged.isNone && x.job == job | none => false
  match (ctxsOf s atoll).find? open_ with
  | none => none
  | some n => match (s.ctx n).tide.step with
    | none => none
    | some x => some (x.at_, (membersAt s job x.at_).filter open_)

/-- JOB_MINIMUM (R324, R399): the fabric returns the minimum of the reports that arrived by t + 2 µs, once this
device has sent its own, which every member on an atoll with a port takes. -/
def execJobMinimum (atoll job minimum : Nat) (s : State) : Host.Outcome State Fault Refusal :=
  .next <|
    match awaiting s atoll job with
    | none => s
    | some (t, ns) =>
      let ns := ns.filter (hasPort s)
      if s.sys.dt ≤ t + 2000 ∧ membersReady s job t ∧ minimum ≤ localMinimum s (membersAt s job t) then run [fun _ => mergeSteps ns minimum] s else s

/-- The step's context sets MISS and hears of it (R317, R325, R359). -/
def markMiss (t : Nat) (n : Nat) : Micro :=
  .ctx n fun c => ({ c with tide := { c.tide with flags := c.tide.flags ||| 16 } }).post 4 0x0300 (BitVec.ofNat 64 t)

/-- MERGE_DEADLINE (R325, R399): at t + 2 µs a missing report counts as 0; a member without a fabric port
uses the local minimum. Either sets MISS. -/
def execMergeDeadline (atoll job : Nat) (s : State) : Host.Outcome State Fault Refusal :=
  .next <|
    match awaiting s atoll job with
    | none => s
    | some (t, ns) =>
      if t + 2000 ≤ s.sys.dt then
        run [fun s => mergeSteps (ns.filter (hasPort s)) 0,
             fun s => mergeSteps (ns.filter fun n => !hasPort s n) (localMinimum s (membersAt s job t)),
             fun _ => ns.map (markMiss t)] s
      else s

/-! ### The controller step (R319) -/

/-- What a step leaves: D, I, B and the flags that it sets (R317, R319, R326). -/
structure StepOut where
  pos   : Nat
  int   : Int
  b     : Nat
  flags : Nat
  deriving DecidableEq, Repr

/-- The arithmetic of R319. -/
def Step.out (x : Step) : StepOut :=
  let b := min (x.merged.getD x.own) 32767
  let common := if x.throttled then 32 else 0
  if x.first then { pos := x.pos, int := x.int, b, flags := common ||| 64 }
  else if !x.enable then { pos := x.pos, int := x.int, b, flags := common }
  else
    let e : Int := x.target - b * 2 ^ 16
    let next := sat (x.int + e) (-x.imax) x.imax
    let v := (x.kp * e + x.ki * next) / 2 ^ 28
    let u := (x.umax : Int)
    let clipped := sat v (-u) u
    let freeze := x.held || decide (u < v ∧ 0 < e) || decide (v < -u ∧ e < 0)
      || decide ((x.dmax : Int) < x.pos + clipped ∧ 0 < e) || decide (x.pos + clipped < 0 ∧ e < 0)
    let next := if freeze then x.int else next
    let v := if freeze then (x.kp * e + x.ki * x.int) / 2 ^ 28 else v
    let out := sat v (-u) u
    let d := (x.pos : Int) + out
    { pos := (sat d 0 x.dmax).toNat, int := next, b
      flags := common ||| (if out = v then 0 else 2) ||| (if 0 ≤ d ∧ d ≤ x.dmax then 0 else 4) ||| (if freeze then 8 else 0) }

/-- The registers of a context take the results of its step, but for what a `TSET` has written since
(R318). The core stage's grant is its demand (R322). -/
def Tide.take (t : Tide) (x : Step) : Tide :=
  let r := x.out
  let pos := if x.keepPos then t.pos else min r.pos t.dmax
  { t with pos, int := if x.keepInt then t.int else sat r.int (-t.imax) t.imax, own := x.own, merged := r.b
           flags := t.flags ||| r.flags, first := false, step := none, demand := demandAt t.kc pos
           grant := t.grant.set 1 ((demandAt t.kc pos).getD 1 0) }

/-! ### The allocator (R322, R323, R327) -/

/-- A claim on a pool: the context, its class, its floor and its demand, in quanta. -/
structure Claim where
  ctx   : Nat
  cls   : Nat
  floor : Nat
  want  : Nat
  deriving DecidableEq, Repr

/-- What is granted: by context. -/
abbrev Granted := Sparse Nat

/-- One round of R323 for the contexts of a class that still want more: the rest, and the grants. -/
def allocRound (xs : List Claim) (q : Nat) (rest : Nat) (g : Granted) : Nat × Granted :=
  xs.foldl (fun (a : Nat × Granted) x =>
    let have_ := look 0 a.2 x.ctx
    let give := if q = 0 then min 1 a.1 else min q (x.want - have_)
    (a.1 - give, put 0 a.2 x.ctx (have_ + give))) (rest, g)

/-- The loop of R323 over one class. Every round with a context left gives at least one quantum, so that
`fuel` rounds suffice when it is at least the rest. -/
def allocClass (xs : List Claim) : Nat → Nat → Granted → Nat × Granted
  | 0, rest, g => (rest, g)
  | fuel + 1, rest, g =>
    let xs := xs.filter fun x => decide (look 0 g x.ctx < x.want)
    if rest = 0 || xs.isEmpty then (rest, g)
    else
      let r := allocRound xs (rest / xs.length) rest g
      allocClass xs fuel r.1 r.2

/-- Divides a pool (R323): the rest, and the grants. -/
def divide (capacity : Nat) (xs : List Claim) : Nat × Granted :=
  let floors : Granted := xs.foldl (fun g x => put 0 g x.ctx x.floor) []
  let rest := capacity - (xs.map Claim.floor).foldl (· + ·) 0
  (List.range 4).foldl (fun (a : Nat × Granted) k => allocClass (xs.filter fun x => x.cls == k) (a.1 + 1) a.1 a.2) (rest, floors)

/-- The claims of contexts on a pool. -/
def claims (s : State) (ns : List Nat) (floor : Nat) (want : Ctx → Nat) : List Claim :=
  ns.map fun n => { ctx := n, cls := (s.ctx n).tide.cls, floor, want := max floor (want (s.ctx n)) }

/-- The clusters that hold granted cores of a context. -/
def Ctx.grantedClusters (c : Ctx) : List Nat := distinct (c.cores.map clusterOf)

/-- ATOKENS of an atoll (R417): its share of the package's budget by the clusters that atolls own, scaled by
P / 64. -/
def atokensOf (s : State) (atoll : Nat) : Nat :=
  let sizeOf := fun (a : Atoll) => popcount a.clusters
  let total := (s.atolls.map fun a => if a.2.live then sizeOf a.2 else 0).foldl (· + ·) 0
  let a := s.atoll atoll
  if total = 0 then 0 else s.sys.budget * sizeOf a / total * a.period / 64

/-- The warp-slot grant: the smallest of the grants over the pools of the granted cores, or the demand
(R323). -/
def slotGrant (s : State) (ns : List Nat) (n : Nat) : Nat :=
  let want := fun (c : Ctx) => c.tide.demand.getD 0 0 / 4
  ((s.ctx n).cores.map fun core =>
    4 * look 0 (divide 8 (claims s (ns.filter fun m => (s.ctx m).cores.contains core) 1 want)).2 n).foldl min
      ((s.ctx n).tide.demand.getD 0 0)

/-- The tokens divided among contexts, with what remains. -/
def tokenGrants (s : State) (atoll : Nat) (ns : List Nat) : Nat × Granted :=
  divide (s.atoll atoll).atokens (claims s ns 0 fun c => c.tide.demand.getD 4 0 * c.grantedClusters.length)

/-- The grants of R323 in hardware mode, in the order SLOTS, CORES, WAYS, SHARE, STEP. -/
def hardwareGrant (s : State) (atoll : Nat) (ns : List Nat) (n : Nat) : List Nat :=
  let c := s.ctx n
  let want := fun i (c : Ctx) => c.tide.demand.getD i 0
  let clusters := c.grantedClusters.length
  let ways := look 0 (divide 8 (claims s ns 1 (want 2))).2 n
  let share := 8 * look 0 (divide 8 (claims s ns 1 fun c => want 3 c / 8)).2 n
  let step := if clusters = 0 then want 4 c else min (want 4 c) (look 0 (tokenGrants s atoll ns).2 n / clusters)
  [slotGrant s ns n, want 1 c, ways, share, step]

/-- Some grant is below its demand (R319). -/
def fallsShort (grant demand : List Nat) : Bool := (grant.zip demand).any fun g => decide (g.1 < g.2)

/-- A context takes grants, of the core stage its demand (R322); SHORT is computed against them (R317). -/
def Tide.grantTo (t : Tide) (grant : List Nat) : Tide :=
  let grant := grant.set 1 (t.demand.getD 1 0)
  let short := fallsShort grant t.demand
  { t with grant, short, allocated := true, flags := if short then t.flags ||| 1 else t.flags }

/-- The lane ratio that a cluster's workgroups request: the largest (R330). -/
def ratioWanted (s : State) (cl : Nat) : Nat :=
  ((s.wgs.filter fun w => clusterOf w.2.core == cl).map fun w => w.2.ratio).foldl max 0

/-- The lowest class among the workgroups that request a ratio of 2 on a cluster. -/
def ratioClass (s : State) (cl : Nat) : Nat :=
  ((s.wgs.filter fun w => clusterOf w.2.core == cl && w.2.ratio == 2).map fun w => (s.ctx w.2.ctx).tide.cls).foldl min 3

/-- The clusters whose double rate is granted from the tokens that remain, 8 each (R327, R330). -/
def doubled (s : State) (atoll rest : Nat) : List Nat :=
  let asking := (members 48 (s.atoll atoll).clusters).filter fun cl => ratioWanted s cl == 2
  ((List.range 4).flatMap fun k => asking.filter fun cl => ratioClass s cl == k).take (rest / 8)

/-- The contexts that the allocator serves in an update: active, with a step at this period end. -/
def servedIn (s : State) (atoll t : Nat) : List Nat :=
  (ctxsOf s atoll).filter fun n => (s.ctx n).served && (s.ctx n).tide.period == t

/-- Grants in force from an update on (R322, R323), or the requests that ask the host for them (R401,
R405). -/
def allocate (atoll t : Nat) : List Phase :=
  [fun s => [.atoll atoll fun a => { a with atokens := atokensOf s atoll }],
   fun s =>
    let ns := servedIn s atoll t
    let tokens := tokenGrants s atoll ns
    let host := hostAssisted s atoll 2
    (ns.map fun n =>
      let grant := if host then (s.ctx n).tide.grant else hardwareGrant s atoll ns n
      .ctx n fun c => { c with tide := { c.tide.grantTo grant with
        tokens := if host then c.tide.tokens else look 0 tokens.2 n, pool := (s.atoll atoll).atokens, slew := (s.atoll atoll).slew } })
    ++ (if host then ns.map fun n =>
          ask 0x81 n [BitVec.ofNat 64 (atoll + n * 256), packGrant (s.ctx n).tide.demand, BitVec.ofNat 64 t] else [])
    ++ ((ctxsOf s atoll).filter fun n => !ns.contains n).map fun n => .ctx n fun c => { c with tide := { c.tide with short := false } },
   fun s =>
    let yes := doubled s atoll (tokenGrants s atoll (servedIn s atoll t)).1
    (members 48 (s.atoll atoll).clusters).map fun cl => .cluster cl fun c => { c with double := yes.contains cl }]

/-- Pairs whose leader or follower is no longer a granted core of its launch dissolve (R299, R321). -/
def dissolvePairs (atoll : Nat) : Phase := fun s =>
  (keysOf s.cores).flatMap fun c =>
    match (s.core c).owner with
    | none => []
    | some (n, l) =>
      let x := s.ctx n
      let cores := grantedCores x (x.launch l)
      if (s.core c).bind == .leader && x.atoll == atoll && !(cores.contains c && cores.contains (c + 1)) then unbind s c else []

/-- TIDE_UPDATE (R318 step 3): at t + 4 µs the results of the steps and the allocator's grants appear in one
update and take effect. -/
def execTideUpdate (atoll : Nat) (s : State) : Host.Outcome State Fault Refusal :=
  .next <|
    let ns := (ctxsOf s atoll).filter fun n => (s.ctx n).tide.step.isSome
    let steps := ns.filterMap fun n => (s.ctx n).tide.step
    match steps with
    | [] => s
    | x :: _ =>
      if x.at_ + 4000 ≤ s.sys.dt ∧ steps.all fun x => x.merged.isSome then
        run ([fun _ => ns.map fun n => .ctx n fun c =>
                match c.tide.step with
                | some x => { c with tide := c.tide.take x }
                | none => c]
          ++ allocate atoll x.at_ ++ dissolvePairs atoll :: settleAllReefs) s
      else s

/-! ### The instructions (R331 to R335) -/

/-- The issuing thread is Harbour code, which has no context. -/
def onHarbour (s : State) (iss : Issue) : Bool := (s.thread iss.thr).engine == .harbour

/-- BEAT (R312, R332). -/
def execBeat (f : FY) : State → Host.Outcome State Fault Refusal :=
  let n := f.imm.toNat % 256
  issue { engines := ctlEngines }
    (fun iss s =>
      let t := s.thread iss.thr
      [fun s => (if onHarbour s iss then [] else
          .ctx t.ctx (fun c => { c with tide := { c.tide with count := min (2 ^ 24 - 1) (c.tide.count + n) } })
            :: count s t.ctx 0x0F n t.launch) ++ [moveOn iss]])
    .skip periodsServed

/-- TSET (R313, R314, R333): issued at or after a period end, it does not reach that period's step (R318). -/
def execTset (f : FY) : State → Host.Outcome State Fault Refusal :=
  issue { engines := ctlEngines, level := .steward, ssrc := [f.sa.toNat] }
    (fun iss s =>
      let v := scalar s iss f.sa.toNat
      [fun s => (if onHarbour s iss then [] else
          [.ctx (s.thread iss.thr).ctx fun c => { c with tide := c.tide.write f.id.toNat v }]) ++ [moveOn iss]])
    .skip periodsServed

/-- An update that has fallen due by a thread's device time has been made (R318, R334). -/
def tideCurrent (iss : Issue) (s : State) : Bool :=
  periodsServed iss s && match (s.ctx (s.thread iss.thr).ctx).tide.step with
    | some x => decide (dtOf s (s.thread iss.thr) < x.at_ + 4000)
    | none => true

/-- TREAD (R334): Harbour code reads all ones. -/
def execTread (f : FY) : State → Host.Outcome State Fault Refusal :=
  issue { engines := ctlEngines, sdst := [f.sd.toNat] }
    (fun iss s =>
      let v := if onHarbour s iss then BitVec.allOnes 64 else tideRead s (s.thread iss.thr).ctx f.id.toNat
      [fun _ => [writeS iss.thr f.sd.toNat v, moveOn iss]])
    .skip tideCurrent

/-- PCLASS (R335). -/
def execPclass (f : FY) : State → Host.Outcome State Fault Refusal :=
  issue { engines := ctlEngines }
    (fun iss s =>
      let t := s.thread iss.thr
      [fun _ => (if t.engine == .core then [.wg t.wg fun w => { w with ratio := f.imm.toNat % 4 }] else []) ++ [moveOn iss]])
    .skip

end Sys2Proof.Machine
end

