-- ==== Sys2Proof/Machine/Launch.lean ====
section
/-! DEFINITION. LAUNCH, LWAIT, MBRECV, MBSEND and EVWAIT, and the releases of the threads that they hold
(R336 to R341, R354 to R359, R374). -/

namespace Sys2Proof.Machine

/-! ### LAUNCH (R339 to R341, R355) -/

/-- The fields of the shape word are in their ranges, and its reserved bits zero. -/
def Launch.shapeOk (e : Launch) : Bool :=
  let w := e.operand 4
  (e.width == 16 || e.width == 32 || e.width == 64) && decide (32 ≤ e.budget) && decide (e.budget ≤ 1024)
    && e.budget % 32 == 0 && decide (1 ≤ e.warps) && decide (e.warps ≤ 16) && decide (e.lagoon ≤ Config.lagoonBytes)
    && !has w.toNat 19 && field w 27 25 == 0 && field w 31 29 == 0 && field w 63 56 == 0

/-- A power of two of a list divides an origin, and the range lies below `n` (R340). -/
def sideOk (sizes : List Nat) (origin size n : Nat) : Bool :=
  sizes.contains size && origin % size == 0 && decide (origin + size ≤ n)

/-- The rectangle satisfies R340 for an atoll. -/
def Rect.ok (a : Atoll) (r : Rect) : Bool :=
  sideOk [1, 2, 4, 8, 16, 32] r.x r.w 32 && sideOk [1, 2, 4, 8, 16] r.y r.h 24
    && r.cores.all fun c => has a.clusters (clusterOf c)

/-- An index-space extent is in range. -/
def extentOk (n : Nat) : Bool := decide (1 ≤ n) && decide (n < 2 ^ 31)

/-- The entries of a launch. -/
def Launch.entry (e : Launch) : Nat := field (e.operand 0) 55 0
def Launch.access (e : Launch) : Nat := field (e.operand 1) 55 0
def Launch.template (e : Launch) : Nat := field (e.operand 6) 55 0

/-- The first operand check that fails (R341). -/
def Launch.code (a : Atoll) (e : Launch) : Option Int :=
  if !e.shapeOk then some (-1)
  else if !e.rectangle.ok a then some (-2)
  else if !(extentOk e.gx && extentOk e.gy && extentOk e.gz) then some (-3)
  else if 131072 < e.warps * e.width * e.budget then some (-4)
  else if e.entry = 0 ∨ e.entry % 8 ≠ 0 ∨ e.access % 8 ≠ 0 ∨ inLagoon e.entry ∨ inLagoon e.access then some (-5)
  else none

/-- The launch that an issue asks for, without its number. -/
def launchOf (f : FY) (iss : Issue) (s : State) : Launch :=
  let ops := (List.range 7).map fun i => if i = 6 ∧ !has f.imm.toNat 0 then 0 else scalar s iss (f.sa.toNat + i)
  let e : Launch := { live := true, open_ := true, ops, init := has f.imm.toNat 0, notify := has f.imm.toNat 1
                      by_ := iss.thr, before := s.fl.next }
  { e with total := e.gx * e.gy * e.gz }

/-- The launch number after `n`; 0 is skipped (R355). -/
def numberAfter (n : Nat) : Nat := if (n + 1) % 2 ^ 32 = 0 then 1 else (n + 1) % 2 ^ 32

/-- The context's table after launches that are due have completed. -/
def dueCtx (s : State) (n : Nat) : Ctx := (run [completeLaunches n] s).ctx n

/-- The atoll that the rectangles of a context must lie in; Harbour code has none. -/
def atollOf (s : State) (n : Nat) : Atoll := if (s.ctx n).live then s.atoll (s.ctx n).atoll else {}

/-- LAUNCH (R355): held while its table entry is incomplete. -/
def execLaunch (f : FY) : State → Host.Outcome State Fault Refusal :=
  let sa := f.sa.toNat
  let reads := (List.range (if has f.imm.toNat 0 then 7 else 6)).map (sa + ·)
  issue { engines := ctlEngines, level := .steward, ssrc := reads, sdst := [f.sd.toNat] }
    (fun iss s =>
      let n := (s.thread iss.thr).ctx
      let e := launchOf f iss s
      match e.code (atollOf s n) with
      | some c => [fun _ => [writeS iss.thr f.sd.toNat (BitVec.ofInt 64 c), moveOn iss]]
      | none =>
        let k := (s.ctx n).nextLaunch
        [completeLaunches n,
         fun _ => [.ctx n fun c => { c with launches := put {} c.launches (k % 16) { e with number := k }
                                            nextLaunch := numberAfter k, lastLaunch := k },
                   writeS iss.thr f.sd.toNat (BitVec.ofNat 64 k), moveOn iss]])
    .skip
    (fun iss s =>
      let n := (s.thread iss.thr).ctx
      ((launchOf f iss s).code (atollOf s n)).isSome
        || !(look {} (dueCtx s n).launches ((s.ctx n).nextLaunch % 16)).open_)

/-! ### LWAIT (R356) -/

/-- The status word of a launch that is not incomplete. -/
def Launch.status (e : Launch) : W64 :=
  BitVec.ofNat 64 (e.completed % 2 ^ 32 * 2 ^ 32 + (if e.done then 1 else 0) + (if e.killed then 4 else 0)
    + (if e.hexit then 8 else 0))

/-- What `LWAIT` of a launch number comes to: a result, with whether it acquires; none while the launch is
incomplete. -/
def lwaitResult (c : Ctx) (n : Nat) : Option (W64 × Bool) :=
  let e := look {} c.launches (n % 16)
  let mine := n != 0 && e.live && e.number == n
  if mine then (if e.open_ then none else some (e.status, e.done))
  else if n = 0 ∨ c.lastLaunch < n then some (BitVec.allOnes 64, false)
  else some (2, false)

/-- The lanes that a wait held or issued for go on, after an acquire at system scope where one is due. -/
def goOnAfter (k : Nat) (pc : Addr) (mask : Nat) (acquire : Bool) (next : Nat) : Micro :=
  if acquire then .thread k fun t => t.updLanes mask fun l => { l with hold := .fence .acq 7 next .done }
  else .thread k fun t => t.moveOn pc mask 8

/-- LWAIT (R224, R356). -/
def execLwait (f : FY) : State → Host.Outcome State Fault Refusal :=
  let sd := f.sd.toNat
  issue { engines := ctlEngines, level := .steward, ssrc := [f.sa.toNat], sdst := [sd] }
    (fun iss s =>
      let c := (s.thread iss.thr).ctx
      let n := (scalar s iss f.sa.toNat).toNat % 2 ^ 32
      [completeLaunches c,
       fun s => match lwaitResult (s.ctx c) n with
        | some (v, acq) => [writeS iss.thr sd v, goOnAfter iss.thr iss.pc iss.lanes acq s.fl.next]
        | none =>
          if has f.imm.toNat 8 then [writeS iss.thr sd 0, moveOn iss]
          else [holdLanes iss iss.lanes (.launch sd n)]])
    .skip

/-- LWAIT_RELEASE (R224, R356): launches that are due complete; the one that a thread awaits gives its
status. -/
def execLwaitRelease (thr : Nat) (s : State) : Host.Outcome State Fault Refusal :=
  .next <|
    let s := run [completeLaunches (s.thread thr).ctx] s
    let t := s.thread thr
    let x := t.lane 0
    match x.hold with
    | .launch sd n =>
      match lwaitResult (s.ctx t.ctx) n with
      | some (v, acq) =>
        if releasable s thr 0 then runThread thr [fun s => [writeS thr sd v, goOnAfter thr x.pc 1 acq s.fl.next]] s else s
      | none => s
    | _ => s

/-! ### MBRECV (R337, R338, R357, R374) -/

/-- The oldest deliverable message of an inbound ring, as `MBRECV` delivers it: KIND 0x80 and above as 0x00,
PFAIL set where the payload failed. -/
def Ring.oldest (r : Ring) : Option (List W64) :=
  if r.ready = r.ci then none
  else
    let words := (List.range 8).map fun i => look 0 r.kept (8 * (r.ci % 64) + i)
    let w := words.headD 0
    let w := if r.failed.contains r.ci then w ||| (1 : W64) <<< 49 else w
    let w := if 0x80 ≤ field w 63 56 then w &&& 0x00FFFFFFFFFFFFFF else w
    some (w :: words.drop 1)

/-- An inbound ring without its oldest message. -/
def Ring.pop (r : Ring) : Ring :=
  { r with ci := (r.ci + 1) % 2 ^ 32, failed := r.failed.filter (· != r.ci) }

/-- How many completed messages an inbound ring holds. -/
def Ring.held (r : Ring) : Nat := (r.pi + 2 ^ 32 - r.ci) % 2 ^ 32

/-- The fault of a context that a delivered message names, and the action (R374). -/
def resumeOf (s : State) (n : Nat) (msg : List W64) : Option (Nat × Nat) :=
  let w := msg.headD 0
  if field w 63 56 ≠ 1 then none
  else
    ((s.fl.faults.find? fun f => f.2.live && f.2.ctx == n && f.2.index == some (field w 31 0)).map Prod.fst).map
      fun id => (id, field (msg.getD 1 0) 1 0)

/-- A message is delivered to a thread: its words and the count written, its place freed, its effect
applied. -/
def deliverMessage (k sd box : Nat) (msg : List W64) : List Phase :=
  [fun s =>
    let n := (s.thread k).ctx
    let left := ((s.ctx n).inRing box).pop.held
    [Micro.ctx n (fun c => c.updIn box Ring.pop), writeS k sd (BitVec.ofNat 64 left)]
      ++ msg.zipIdx.map (fun e => writeS k (sd + 1 + e.2) e.1) ++ signal s n 3,
   fun s => match resumeOf s (s.thread k).ctx msg with
    | some (id, action) => resumeFault id action s
    | none => []]

/-- Threads of a context whose lanes have come to a word to be judged are settled. -/
def settleAll (n : Nat) (s : State) : State :=
  ((threadsOf s n).filter fun k => !(pendingHeads (s.thread k)).isEmpty).foldl (fun s k => settle k s) s

/-- Settles a context's threads after an outcome. -/
def settleOutcome (n : Nat) (o : Host.Outcome State Fault Refusal) : Host.Outcome State Fault Refusal :=
  match o with
  | .next s => .next (settleAll n s)
  | o => o

/-- The context of the thread that issues. -/
def issuingCtx (s : State) : Nat :=
  match s.cur with
  | some iss => (s.thread iss.thr).ctx
  | none => 64

/-- MBRECV (R357): an acquire at system scope where a message is delivered. -/
def execMbrecv (f : FY) (s : State) : Host.Outcome State Fault Refusal :=
  let sd := f.sd.toNat
  let box := f.imm.toNat % 4
  settleOutcome (issuingCtx s) <|
    issue { engines := ctlEngines, level := .steward, sdst := (List.range 9).map (sd + ·) }
      (fun iss s =>
        match ((s.ctx (s.thread iss.thr).ctx).inRing box).oldest with
        | some msg =>
          andThen (deliverMessage iss.thr sd box msg) fun s => [goOnAfter iss.thr iss.pc iss.lanes true s.fl.next]
        | none =>
          if has f.imm.toNat 8 then [fun _ => [writeS iss.thr sd (BitVec.allOnes 64), moveOn iss]]
          else [fun _ => [holdLanes iss iss.lanes (.mailbox sd box)]])
      .skip (fun _ _ => true) s

/-- MBRECV_DELIVERY (R338, R357): a message of the mailbox that a thread waits on is deliverable. -/
def execMbrecvDelivery (thr : Nat) (s : State) : Host.Outcome State Fault Refusal :=
  .next <|
    let t := s.thread thr
    let x := t.lane 0
    match x.hold with
    | .mailbox sd box =>
      match ((s.ctx t.ctx).inRing box).oldest with
      | some msg =>
        if releasable s thr 0 then
          settleAll t.ctx (runThread thr (andThen (deliverMessage thr sd box msg) fun s => [goOnAfter thr x.pc 1 true s.fl.next]) s)
        else s
      | none => s
    | _ => s

/-! ### MBSEND (R358) -/

/-- An outbound ring of a context that exists has a free place. -/
def sendRoom (s : State) (n box : Nat) : Bool := (s.ctx n).live && ((s.ctx n).outRing box).hasSpace

/-- MBSEND (R358): held as by `FENCE.sys`, then while the ring is full. -/
def execMbsend (f : FY) (s : State) : Host.Outcome State Fault Refusal :=
  let sd := f.sd.toNat
  let box := f.imm.toNat % 4
  let nowait := has f.imm.toNat 8
  let regs := (List.range 8).map (f.sa.toNat + ·)
  issue { engines := ctlEngines, level := .steward, ssrc := regs, sdst := [sd] }
    (fun iss s =>
      let n := (s.thread iss.thr).ctx
      if !allPassed s iss then [fun _ => [holdLanes iss iss.lanes (.fence .full 7 iss.start .access)]]
      else if sendRoom s n box then
        let msg := regs.map (scalar s iss)
        let msg := (msg.headD 0 &&& 0x00FFFFFFFFFFFFFF) :: msg.drop 1
        [fun s =>
          let r := ((s.ctx n).outRing box).push msg
          .ctx n (fun c => c.updOut box fun r => r.push msg) :: signal s n 0
            ++ [writeS iss.thr sd (BitVec.ofNat 64 (64 - r.held)), moveOn iss]]
      else [fun _ => [writeS iss.thr sd (BitVec.allOnes 64), moveOn iss]])
    .skip (fun iss s => !allPassed s iss || nowait || sendRoom s (s.thread iss.thr).ctx box)
    s fun iss s => !allPassed s iss

/-! ### EVWAIT (R359) -/

/-- Word 0 of an event record. -/
def EvRec.word0 (r : EvRec) : W64 :=
  BitVec.ofNat 64 (r.kind + (if r.lost then 2 ^ 8 else 0) + r.source % 2 ^ 16 * 2 ^ 16 + r.seq % 2 ^ 32 * 2 ^ 32)

/-- The oldest record of a kind in a mask. -/
def Ctx.oldestEvent (c : Ctx) (mask : Nat) : Option EvRec := c.events.find? fun r => has mask r.kind

/-- The queue without the first record equal to one. -/
def Ctx.dropEvent (c : Ctx) (r : EvRec) : Ctx := { c with events := c.events.erase r }

/-- A thread takes a record. -/
def takeEvent (k sd : Nat) (r : EvRec) (n : Nat) : List Micro :=
  [.ctx n fun c => c.dropEvent r, writeS k sd r.word0, writeS k (sd + 1) r.word1]

/-- EVWAIT (R359). -/
def execEvwait (f : FY) : State → Host.Outcome State Fault Refusal :=
  let sd := f.sd.toNat
  let mask := f.imm.toNat % 2 ^ 16
  issue { engines := ctlEngines, level := .steward, sdst := [sd, sd + 1] }
    (fun iss s =>
      let n := (s.thread iss.thr).ctx
      [completeLaunches n,
       fun s => match (s.ctx n).oldestEvent mask with
        | some r => takeEvent iss.thr sd r n ++ [moveOn iss]
        | none =>
          if has f.imm.toNat 16 then [writeS iss.thr sd (BitVec.allOnes 64), moveOn iss]
          else [holdLanes iss iss.lanes (.event sd mask)]])
    .skip

/-- EVWAIT_RELEASE (R359). -/
def execEvwaitRelease (thr : Nat) (s : State) : Host.Outcome State Fault Refusal :=
  .next <|
    let s := run [completeLaunches (s.thread thr).ctx] s
    let t := s.thread thr
    let x := t.lane 0
    match x.hold with
    | .event sd mask =>
      match (s.ctx t.ctx).oldestEvent mask with
      | some r =>
        if releasable s thr 0 then
          runThread thr [fun _ => takeEvent thr sd r t.ctx ++ [.thread thr fun t => t.moveOn x.pc 1 8]] s
        else s
      | none => s
    | _ => s

end Sys2Proof.Machine
end

