-- ==== Sys2Proof/Machine/Place.lean ====
section
/-! DEFINITION. The dispatcher: which contexts are active, the placement of workgroups, the start of warps and
access threads, and the release of warp slots (R95, R177, R178, R224, R277, R284, R321, R342 to R347). -/

namespace Sys2Proof.Machine

/-! ### Runnable and active contexts (R347) -/

/-- A thread waits at `MBRECV`, `EVWAIT` or `LWAIT`. -/
def waitsForWork (t : Thread) : Bool :=
  match (t.lane 0).hold with
  | .mailbox _ _ | .event _ _ | .launch _ _ => true
  | _ => false

/-- What a steward waits for has come: its context is runnable again (R347; log entry 97). -/
def waitOver (c : Ctx) (t : Thread) : Bool :=
  match (t.lane 0).hold with
  | .mailbox _ box => (c.inRing box).oldest.isSome
  | .event _ mask => (c.oldestEvent mask).isSome
  | .launch _ n => (lwaitResult c n).isSome
  | _ => false

/-- A saved context whose steward was waiting has something that may end its wait. -/
def Ctx.hasNews (c : Ctx) : Bool := !c.events.isEmpty || (List.range 4).any fun b => (c.inRing b).oldest.isSome

/-- A context is runnable. -/
def runnable (s : State) (n : Nat) : Bool :=
  let c := s.ctx n
  c.live && !c.gone && c.save != .restoring && (!c.openLaunches.isEmpty
    || (match c.steward with
        | some k => !waitsForWork (s.thread k) || waitOver c (s.thread k)
        | none => c.save == .saved && (!c.idle || c.hasNews)))

/-- The contexts of an atoll that take part in the rotation. -/
def runnables (s : State) (atoll : Nat) : List Nat := (ctxsOf s atoll).filter (runnable s)

/-- A context takes or leaves an active place. -/
def Ctx.seat (dt : Nat) (yes : Bool) (c : Ctx) : Ctx :=
  if yes == c.active then c
  else if yes then { c with active := true, activeFrom := dt } else { c with active := false, waitFrom := dt }

/-- The effective slice of a context in µs, and whether the programmed one was clamped (R353). -/
def effectiveSlice (s : State) (n : Nat) : Nat × Bool :=
  let c := s.ctx n
  let l := (s.die 0).adlSlice c.atoll
  let both := if c.ts = 0 then 40 else (c.ts + c.tr + 999) / 1000
  if both ≤ l then (l, false) else (both + (s.atoll c.atoll).period, true)

/-- Brings the active contexts of an atoll up to date: all that are not saved while at most 8 exist or are
runnable; else those runnable ones that were active, and the rotation runs. -/
def seatContexts (atoll : Nat) : Phase := fun s =>
  let all := (ctxsOf s atoll).filter fun n => (s.ctx n).save != .saved && (s.ctx n).save != .restoring
  let run_ := runnables s atoll
  let few := decide (run_.length ≤ 8)
  let yes := fun n =>
    if all.length ≤ 8 ∧ few then true else if few then run_.contains n else run_.contains n && (s.ctx n).active
  (all.map fun n => .ctx n fun c =>
      let c := c.seat s.sys.dt (yes n)
      let e := effectiveSlice s n
      if few then { c with slice := 0, sliceClamp := false } else if c.slice = 0 then { c with slice := e.1, sliceClamp := e.2 } else c)
    ++ [.atoll atoll fun a =>
          { a with rotation := if few then none else match a.rotation with | some x => some x | none => some s.sys.dt }]

/-! ### Placement (R321, R342, R343) -/

/-- The distance of a launch number below the next one, so that older launches have more (R342). -/
def launchAge (c : Ctx) (e : Launch) : Nat := (c.nextLaunch + 2 ^ 32 - e.number) % 2 ^ 32

/-- The launch of a context that is being placed: the oldest incomplete one with workgroups left. -/
def Ctx.placing (c : Ctx) : Option Launch :=
  (c.openLaunches.filter fun e => decide (e.next < e.total)).foldl (fun m e =>
    match m with
    | none => some e
    | some x => if launchAge c x < launchAge c e then some e else some x) none

/-- The workgroups of a core, by key. -/
def wgsOn (s : State) (core : Nat) : List (Nat × Wg) := s.wgs.filter fun w => w.2.live && w.2.core == core

/-- The warps of a context on a core. -/
def warpsOn (s : State) (core ctx : Nat) : Nat :=
  ((wgsOn s core).filter fun w => w.2.ctx == ctx).foldl (fun m w => m + w.2.slots.length) 0

/-- The free warp slots of a core, ascending. -/
def freeSlots (s : State) (core : Nat) : List Nat :=
  let used := (wgsOn s core).flatMap fun w => w.2.slots
  (List.range 32).filter fun i => !used.contains i

/-- The register words in use on a core. -/
def wordsOn (s : State) (core : Nat) : Nat :=
  (wgsOn s core).foldl (fun m w =>
    let e := (s.ctx w.2.ctx).launch w.2.launch
    m + w.2.slots.length * e.width * e.budget) 0

/-- A Lagoon length rounded up to whole 64 KiB. -/
def roundGranules (n : Nat) : Nat := (n + 65535) / 65536 * 65536

/-- The lowest free Lagoon range of a cluster for `bytes` (R343). -/
def freeRange (s : State) (cluster bytes : Nat) : Option Nat :=
  let used := s.wgs.filterMap fun w =>
    if w.2.live && clusterOf w.2.core == cluster && w.2.bytes != 0 then some (w.2.lagoon, w.2.bytes) else none
  ((List.range 192).map (65536 * ·)).find? fun a =>
    decide (a + bytes ≤ Config.lagoonBytes) && used.all fun u => decide (a + bytes ≤ u.1) || decide (u.1 + u.2 ≤ a)

/-- A workgroup of a launch may be placed on a core (R321, R343). -/
def fits (s : State) (n : Nat) (e : Launch) (core : Nat) : Bool :=
  let here := warpsOn s core n
  let bytes := roundGranules e.lagoon
  (here == 0 || decide (here + e.warps ≤ (s.ctx n).tide.grant.getD 0 0))
    && decide (e.warps ≤ (freeSlots s core).length)
    && decide (wordsOn s core + e.warps * e.width * e.budget ≤ 131072)
    && decide (((wgsOn s core).filter fun w => !w.2.slots.isEmpty).length < 16)
    && (bytes == 0 || (freeRange s (clusterOf core) bytes).isSome)

/-- The granted cores in the order of the search: from the core after the last placement, wrapping. -/
def searchOrder (c : Ctx) (e : Launch) : List Nat :=
  let cores := grantedCores c e
  match e.lastCore with
  | none => cores
  | some x => cores.filter (fun k => decide (x < k)) ++ cores.filter fun k => decide (k ≤ x)

/-- The placement that a context would make: its launch and the core. -/
def placeable (s : State) (n : Nat) : Option (Launch × Nat) :=
  let c := s.ctx n
  if c.live && c.active && c.save == .none then
    match c.placing with
    | none => none
    | some e => if e.frozen then none else ((searchOrder c e).find? (fits s n e)).map fun core => (e, core)
  else none

/-- The context whose turn it is: the next in ascending order, wrapping, with something placeable (R342). -/
def nextTurn (s : State) (atoll : Nat) : Option Nat :=
  let able := (ctxsOf s atoll).filter fun n => (placeable s n).isSome
  let last := (s.atoll atoll).turn
  ((able.filter fun n => decide (last < n)) ++ able.filter fun n => decide (n ≤ last)).head?

/-- The steward's accesses that preceded a `LAUNCH` are performed (R224). -/
def launchReleased (s : State) (n : Nat) (e : Launch) : Bool :=
  fenceHolds s e.by_ .full 7 e.before
    && s.fl.reqs.all fun r => r.2.ctx != n || r.2.launch != 0 || e.before ≤ r.1 || r.2.done

/-- A key for a workgroup of a core. -/
def freeWgKey (s : State) (core : Nat) : Nat :=
  core * 256 + ((List.range 256).find? fun i => !(s.wg (core * 256 + i)).live).getD 0

/-- The Lagoon bytes in a range that another context wrote last read as zero (R344). -/
def scrubRange (s : State) (n first bytes : Nat) : List Micro :=
  let foreign := s.ca.writer.filterMap fun e =>
    if decide (first ≤ e.1) && decide (e.1 < first + bytes) && e.2 != n + 1 then some e.1 else none
  if foreign.isEmpty then [] else
    [.bytes (foreign.map fun k => (k, 0)), .caches fun c => { c with writer := dropKeys foreign.contains c.writer }]

/-- A workgroup placed on a cluster takes issue slots from its ballast, a number left open (R415). -/
def takeBallast (s : State) (cl : Nat) : List Micro :=
  if (s.cluster cl).ballast = 0 then [] else
    let fill := (Config.freeValue s.fresh).toNat % 17
    [.cluster cl (fun c => { c with ballast := c.ballast - fill }), .fresh 1]

/-- The cluster is busy from now on; a gated one ungates in 2 µs (R416). -/
def occupy (s : State) (cl : Nat) : Micro :=
  .cluster cl fun c => { c with idleFrom := none, wake := if c.gated && c.wake == 0 then s.sys.dt + 2000 else c.wake }

/-- The copy that fills a new allocation (R344). -/
def initCopy (n cl g : Nat) (e : Launch) (lagoon : Nat) : Copy :=
  { live := true, owner := .init g, thr := orphanKey g, ctx := n, launch := e.number, cluster := cl, accepted := true
    dst := 0x00FFFFFFC0000000 + cl * 2 ^ 24 + lagoon, src := e.template, len := e.lagoon }

/-- Places the next workgroup of a launch on a core (R342 to R344). -/
def placeOn (atoll n : Nat) (e : Launch) (core : Nat) : List Phase :=
  let cl := clusterOf core
  let bytes := roundGranules e.lagoon
  [fun s =>
    let g := freeWgKey s core
    let lagoon := if bytes = 0 then 0 else (freeRange s cl bytes).getD 0
    let copies := e.init && bytes != 0
    let w : Wg :=
      { live := true, ctx := n, launch := e.number, index := e.next, core, slots := (freeSlots s core).take e.warps
        lagoon, bytes, init := if copies then some s.fl.next else none }
    [.wg g (fun _ => w),
     .ctx n (fun c =>
        let c := c.updLaunch e.number fun e => { e with next := e.next + 1, lastCore := some core }
        if 0 < (s.cluster cl).throt then { c with tide := { c.tide with throttled := true } } else c),
     .atoll atoll (fun a => { a with turn := n }), occupy s cl]
      ++ (if bytes = 0 then [] else scrubRange s n (lagoonKey cl lagoon) bytes)
      ++ takeBallast s cl
      ++ (if copies then
            [.bump 1, .copy s.fl.next fun _ => initCopy n cl g e lagoon,
             .cluster cl fun c => { c with queue := c.queue ++ [s.fl.next] }]
          else [])]

/-- WORKGROUP_PLACEMENT (R342, R343): the dispatcher of an atoll places one workgroup. -/
def execWorkgroupPlacement (atoll : Nat) (s : State) : Host.Outcome State Fault Refusal :=
  .next <|
    let s := run [seatContexts atoll] s
    match nextTurn s atoll with
    | none => s
    | some n =>
      match placeable s n with
      | none => s
      | some (e, core) => if e.init && !launchReleased s n e then s else run (placeOn atoll n e core) s

/-! ### The start of warps (R143, R277, R346) -/

/-- The generator of a lane at warp start (R143). -/
def seedOf (thread index : Nat) : W32 :=
  let g := BitVec.ofNat 32 (thread * 0x9E3779B9 + index * 0x85EBCA6B + 0x6A09E667)
  if g = 0 then 1 else g

/-- A warp at its start (R346). -/
def newWarp (n : Nat) (e : Launch) (g : Nat) (w : Wg) (k : Nat) : Thread :=
  let pc := BitVec.ofNat 56 e.entry
  { live := true, engine := .core, level := .kernel, ctx := n, core := w.core, slot := w.slots.getD k 0
    width := e.width, budget := e.budget, launch := e.number, wg := g, warp := k
    regs := { em := BitVec.ofNat 64 (firstLanes e.width)
              lanes := (List.range e.width).map fun l =>
                (l, { live := true, pc, need := .start, gen := seedOf (k * e.width + l) w.index }) } }

/-- The access thread beside a warp at its start (R277). -/
def newAccess (n : Nat) (e : Launch) (g : Nat) (w : Wg) (k : Nat) : Thread :=
  let c := e.coords w.index
  let num := fun (x : Nat) => BitVec.ofNat 64 x
  let lagoon := if e.lagoon = 0 then BitVec.allOnes 64 else lagoonAddress w
  { scalarThread .access .kernel n w.core (w.slots.getD k 0) (BitVec.ofNat 56 e.access)
      [e.operand 5, num c.1, num c.2.1, num c.2.2, num k, lagoon, num e.width] 1 with
    launch := e.number, wg := g, warp := k }

/-- The warps of a workgroup start, each with its access thread if the launch has a slice. -/
def startWarps (g : Nat) : Phase := fun s =>
  let w := s.wg g
  let e := (s.ctx w.ctx).launch w.launch
  let ks := List.range w.slots.length
  .wg g (fun w => { w with started := true, warps := w.slots.map (warpKey w.core) })
    :: ks.flatMap fun k =>
        let slot := w.slots.getD k 0
        Micro.thread (warpKey w.core slot) (fun _ => newWarp w.ctx e g w k)
          :: (if e.access = 0 then [] else [.thread (accessKey w.core slot) fun _ => newAccess w.ctx e g w k])

/-- WARP_START (R341, R344, R346): a placed workgroup starts once its allocation is filled and the issuing
thread's earlier accesses are performed. -/
def execWarpStart (g : Nat) (s : State) : Host.Outcome State Fault Refusal :=
  .next <|
    let w := s.wg g
    let e := (s.ctx w.ctx).launch w.launch
    if w.live && !w.started && w.init.isNone && launchReleased s w.ctx e && !(s.cluster (clusterOf w.core)).gated then
      let s := run [startWarps g] s
      w.slots.foldl (fun s slot =>
        let s := settle (warpKey w.core slot) s
        if e.access = 0 then s else settle (accessKey w.core slot) s) s
    else s

/-! ### The release of warp slots (R95, R177, R178, R284, R345) -/

/-- The access thread beside a warp has ended, or stands at an instruction where it is stopped for good
(R284). -/
def accessOver (s : State) (core slot : Nat) : Bool :=
  let k := accessKey core slot
  let t := s.thread k
  !t.live || ((t.ended || ((t.lane 0).state == .running && (t.lane 0).need == .none))
    && (opsOf s k).all fun o => o.2.cls != .q)

/-- A warp slot may be released (R95, R284). -/
def releasableSlot (s : State) (k : Nat) : Bool :=
  let t := s.thread k
  t.live && t.engine == .core && t.episode.isNone && (t.laneSet fun l => l.state != .exited) == 0
    && t.cntL == 0 && t.cntS == 0 && t.cntC == 0 && t.cntT == 0 && accessOver s t.core t.slot

/-- The map unit's verdict on the write-back of a workgroup's regions at its release (R178). -/
def releaseVerdict (s : State) (g : Nat) : Option Bad :=
  let w := s.wg g
  w.regions.findSome? (backVerdict s { ctx := w.ctx, cluster := clusterOf w.core, die := dieOf w.core })

/-- A release that meets a fault parks on it; one that meets MMIO traps MEMTYPE to the context's handler
(R178, R373). -/
def stopRelease (g : Nat) (b : Bad) : Phase := fun s =>
  let w := s.wg g
  let who : Who := { ctx := w.ctx, cluster := clusterOf w.core, die := dieOf w.core }
  let slot := w.lastThr % 32
  match b with
  | .miss m => .bump 1 :: routeFault s s.fl.next w.ctx (engineFault s (.release g) who 4 slot m)
  | .trap cause detail =>
    [.bump 1,
     .trap s.fl.next fun _ =>
      { live := true, cause, thr := backKey g, ctx := w.ctx, cluster := who.cluster, core := w.core, slot
        seq := (s.cluster who.cluster).seq % 2 ^ 32, detail },
     .cluster who.cluster fun c => { c with seq := (c.seq + 1) % 2 ^ 32 }]

/-- A release is stopped by a fault or a trap that is still being served. -/
def releaseStopped (s : State) (g : Nat) : Bool :=
  (s.fl.faults.any fun f => f.2.live && match f.2.who with | .release w => w == g | _ => false)
    || s.fl.traps.any fun t => t.2.live && t.2.thr == backKey g

/-- Writes back the regions of a workgroup whose warps have all been released (R177), and completes it. -/
def releaseRegions (g : Nat) (s : State) : State :=
  let w := s.wg g
  if !w.live || !w.warps.isEmpty || releaseStopped s g then s
  else
    match releaseVerdict s g with
    | some b => run [stopRelease g b, serveRing w.ctx] s
    | none =>
      let who : Who := { ctx := w.ctx, cluster := clusterOf w.core, die := dieOf w.core }
      let send := w.regions.flatMap fun r =>
        if r.dirty.isEmpty then []
        else touchAll who true (distinct ((regionBlocks r).map fun e => e.2 / 65536 * 65536))
          ++ [fun s => sendBack s (backKey g) g who r .s 0 w.launch]
      run (send ++ [fun _ => [.wg g fun w => { w with regions := [], slots := [] }]] ++ finishWg g w) s

/-- WARP_SLOT_RELEASE (R95, R345): a warp's slot is released, with the last one the workgroup completes. A
release that waited on a fault is taken up again. -/
def execWarpSlotRelease (k : Nat) (s : State) : Host.Outcome State Fault Refusal :=
  .next <|
    if releasableSlot s k then
      let t := s.thread k
      let s := run [fun s => releaseWarp k s ++ dropThread s k ++ dropThread s (accessKey t.core t.slot)] s
      run [completeLaunches t.ctx] (releaseRegions t.wg s)
    else
      match s.wgs.find? fun w => w.2.live && w.2.started && w.2.warps.isEmpty && !w.2.regions.isEmpty && w.2.lastThr == k with
      | some w => releaseRegions w.1 s
      | none => s

end Sys2Proof.Machine
end

