-- ==== Sys2Proof/Machine/Schedule.lean ====
section
/-! DEFINITION. Time slicing, pre-emption, the saved image and its restore (R246, R326, R347 to R353). -/

namespace Sys2Proof.Machine

/-! ### The image (R350; the places that the table leaves open: log entry 41) -/

/-- The bytes of an image, by word. -/
abbrev Words := List (Nat × W64)

/-- Words at rising offsets. -/
def wordsAt (off : Nat) (l : List W64) : Words := l.zipIdx.map fun e => (off + 8 * e.2, e.1)

/-- A number as a word. -/
def num (n : Nat) : W64 := BitVec.ofNat 64 n

/-- The class counters in the layout of R367. -/
def Thread.counters (t : Thread) : Nat :=
  t.cntL % 64 + t.cntS % 64 * 2 ^ 8 + t.cntC % 64 * 2 ^ 16 + t.cntT % 64 * 2 ^ 24

/-- The eight counters and their configuration. -/
def Ctx.counterWords (c : Ctx) : List W64 :=
  (List.range 8).flatMap fun i =>
    let x := look {} c.counters i
    [num (x.count % 2 ^ 48 + (if x.ovf then 2 ^ 63 else 0)), x.conf]

/-- The steward's part of an image: its last word is the header word of its block, zero without a steward. -/
def stewardWords (t : Thread) : List W64 :=
  let l := t.lane 0
  (List.range 64).map t.regs.getS
    ++ [l.pc.setWidth 64, l.header.setWidth 64, num (t.regs.fpctl.toNat + t.regs.fpstat.toNat * 2 ^ 32), num t.counters,
        num t.lgw, num t.repcnt, l.gen.setWidth 64]
    ++ (List.range 7).map (fun i => t.regs.getM (i + 1)) ++ [if t.live then l.word else 0]

/-- One entry of a launch table, without its last two words: state 1 open, 2 ended, with the LGW of its completed
workgroups above it. -/
def launchWords (e : Launch) : List W64 :=
  if !e.live then List.replicate 14 0
  else
    [num e.number, num ((if e.open_ then 1 else 2) + 4 * e.lgw), num (e.status.toNat % 2 ^ 32)] ++ (List.range 7).map e.operand
      ++ [num ((if e.init then 1 else 0) + (if e.notify then 2 else 0)), num e.next, num e.completed,
          num (match e.lastCore with | some c => c + 1 | none => 0)]

/-- One entry of a row table: state 0 free, 1 held at the save, 2 stale. -/
def rowWords (r : Row) : List W64 :=
  let st := if r.state == .free then 0 else if r.reopen then 1 else 2
  [num (st + (if r.w then 2 ^ 8 else 0) + r.level * 2 ^ 16), num r.va, num r.pa, num r.expiry]

/-- The sources of event records (R359). -/
def eventSources : List Nat := List.range 48 ++ [0x0100, 0x0200, 0x0201, 0x0202, 0x0203, 0x0300, 0x0400]

/-- Source `i` has dropped its last record. -/
def Ctx.lostAt (c : Ctx) (i : Nat) : Bool :=
  match eventSources[i]? with
  | some x => c.evLost.contains x
  | none => false

/-- The event queue and its LOST state: bit 9 of a record's word 0 says that it is there, and bits 10 and 11 of word 0
of record i say that source i, and source i + 32, has dropped its last record. -/
def eventWords (c : Ctx) : List W64 :=
  (List.range 32).flatMap fun i =>
    let lost := num ((if c.lostAt i then 2 ^ 10 else 0) + (if c.lostAt (i + 32) then 2 ^ 11 else 0))
    match c.events[i]? with
    | some r => [r.word0 ||| 0x200 ||| lost, r.word1]
    | none => [lost, 0]

/-- Word `j` of the sequence numbers of a queue, which R408 carries across a save: two numbers to a word. -/
def Ctx.sourceWord (c : Ctx) (j : Nat) : W64 :=
  let seq := fun i => match eventSources[i]? with | some x => look 0 c.evSeq x | none => 0
  if j < 28 then num (seq (2 * j) + seq (2 * j + 1) * 2 ^ 32) else 0

/-- One ring's slots; those of undelivered messages as they stood at completion. -/
def Ring.words (r : Ring) : List W64 :=
  (List.range 512).map fun i =>
    let pending := decide ((i / 8 + 64 - r.ci % 64) % 64 < (r.pi + 2 ^ 32 - r.ci) % 2 ^ 32)
    look 0 (if pending && !r.kept.isEmpty then r.kept else r.slots) i

/-- Words filled up with zeros to a number. -/
def padTo (n : Nat) (l : List W64) : List W64 := l ++ List.replicate (n - l.length) 0

/-- The image of a context, but for its VALID flag: every word of it. -/
def imageWords (s : State) (n : Nat) : Words :=
  let c := s.ctx n
  let t := match c.steward with | some k => s.thread k | none => {}
  let boxes := List.range 4
  wordsAt 0 <|
    padTo 8 [num (0x58435349 + 2 ^ 32 + n % 256 * 2 ^ 48 + c.atoll % 256 * 2 ^ 56), num s.sys.dt, 0, num Config.deviceNumber]
    ++ padTo 8 [num c.lease, c.rowq, c.rowpol, num c.trapvec, num c.deadline]
    ++ padTo 16 (padTo 12 ((List.range 10).map (tideRead s n))
        ++ [num ((if c.tide.short then 1 else 0) + (if c.tide.throttled then 2 else 0) + (if c.tide.stopped then 4 else 0))])
    ++ padTo 16 (if hostAssisted s c.atoll 5 then [] else c.counterWords)
    ++ padTo 80 (stewardWords t)
    ++ padTo 64 (eventWords c)
    ++ ((List.range 16).flatMap fun i =>
        launchWords (look {} c.launches i) ++ [c.sourceWord (2 * i), c.sourceWord (2 * i + 1)])
    ++ ((List.range 64).flatMap fun h => rowWords (look {} c.rows h))
    ++ padTo 64 (boxes.map (fun b => num (c.inRing b).pi) ++ boxes.map (fun b => num (c.inRing b).ci)
        ++ boxes.map (fun b => num (c.outRing b).pi) ++ boxes.map fun b => num (c.outRing b).ci)
    ++ (boxes.flatMap (fun b => (c.inRing b).words) ++ boxes.flatMap fun b => (c.outRing b).words)

/-- Writes words of device memory. -/
def storeWords (s : State) (n base : Nat) (ws : Words) : List Micro :=
  ws.flatMap fun w => storeAt s .dev n (base + w.1) 8 (allBits 8) w.2.toNat

/-- A word of an image. -/
def imageWord (s : State) (base off : Nat) : W64 := BitVec.ofNat 64 (readNat s (base + off) 8)

/-! ### Pre-emption (R347 to R349) -/

/-- PREEMPTION_REQUEST (R260, R348, R405): placement stops, the deadline starts, the episodes of the
context's warps end, and in host-assisted mode the image address is asked for. -/
def execPreemptionRequest (n : Nat) (s : State) : Host.Outcome State Fault Refusal :=
  .next <|
    let c := s.ctx n
    if c.live && c.save == .chosen then
      let asks := if hostAssisted s c.atoll 4 && c.saveTo == 0 then [ask 0x83 n [num n]] else []
      let s := run [fun s => .ctx n (fun c => { c with save := .asked s.sys.dt, saveDl := c.deadline }) :: asks] s
      ((threadsOf s n).filter fun k => (s.thread k).episode.isSome).foldl (fun s k => runThread k [exitEpisode k] s) s
    else s

/-- The steward stands where it may be stopped: ended, or running at an instruction boundary, or at a wait
that is abandoned (R348). -/
def stewardStops (s : State) (n : Nat) : Bool :=
  match (s.ctx n).steward with
  | none => true
  | some k =>
    let t := s.thread k
    let x := t.lane 0
    let free := match x.hold with
      | .none | .passed | .mailbox _ _ | .event _ _ | .launch _ _ | .sync _ _ _ => true
      | _ => false
    x.state == .running && x.need == .none && free && t.seq.isNone

/-- A handler of a context holds a slot. -/
def hasHandler (s : State) (n : Nat) : Bool := s.threads.any fun t => t.2.ctx == n && t.2.level == .handler

/-- No copy of a context is under way. -/
def noCopies (s : State) (n : Nat) : Bool := s.fl.copies.all fun c => !c.2.live || c.2.ctx != n

/-- Step 4 of R348 may begin: no workgroup, no handler, the steward at a boundary, an address, in time. -/
def saveMayBegin (s : State) (n since : Nat) : Bool :=
  let c := s.ctx n
  !(s.wgs.any fun w => w.2.ctx == n) && !hasHandler s n && stewardStops s n && c.saveTo != 0
    && decide (s.sys.dt < since + 1000 * c.saveDl)

/-- The steward is stopped, held rows are released, and in host-assisted mode a counter block is asked for
(R246, R348, R405). -/
def beginSave (n : Nat) : List Phase :=
  [fun s => [.ctx n fun c =>
      { c with save := .writing s.sys.dt
               idle := match c.steward with | some k => waitsForWork (s.thread k) | none => true }],
   fun s => match (s.ctx n).steward with
    | some k => [.thread k fun t => t.updLane 0 fun l => { l with state := .stopped .save, hold := .none }]
    | none => [],
   fun s => closeRows s n .stale,
   fun s => if hostAssisted s (s.ctx n).atoll 5 then [ask 0x84 n [num n]] else []]

/-- Word `i` of the counter block that the host has named for a context (R405). -/
def counterPlace (s : State) (n i : Nat) (a : Access) : Except Miss Place :=
  let c := s.ctx n
  translate s { ctx := n, cluster := c.home, die := dieOfCluster c.home } a (c.cntTo + 8 * i)

/-- The counter block, where the host's block is what is used, is known and can be reached (R401, R405; log entry 101). -/
def counterWay (s : State) (n : Nat) (a : Access) : Bool :=
  !hostAssisted s (s.ctx n).atoll 5
    || ((s.ctx n).cntTo != 0 && (List.range 16).all fun i => (counterPlace s n i a).isOk)

/-- The steward's accesses and copies have completed, the held rows have closed, and the counter block, if
one is needed, is known. -/
def saveMayEnd (s : State) (n since : Nat) : Bool :=
  let c := s.ctx n
  let quiet := match c.steward with
    | some k => (opsOf s k).isEmpty && (s.thread k).cntC == 0
    | none => true
  quiet && noCopies s n && (c.rows.all fun r => !(s.sys.closing.any fun e => e.1 == r.2.pa))
    && counterWay s n .write
    && decide (s.sys.dt < since + 1000 * (s.die (dieOfCluster c.home)).saveto)

/-- The counters are written where the host has said (R401, R405). -/
def saveCounters (s : State) (n : Nat) : List Micro :=
  (s.ctx n).counterWords.zipIdx.flatMap fun w =>
    match counterPlace s n w.2 .write with
    | .ok p => storeAt s p.space n p.key 8 (allBits 8) w.1.toNat
    | .error _ => []

/-- The image is written and sealed; the context leaves the device (R348 step 4, R404). -/
def endSave (n since : Nat) : List Phase :=
  [fun s => if hostAssisted s (s.ctx n).atoll 5 then saveCounters s n else [],
   fun s => storeWords s n (s.ctx n).saveTo (imageWords s n),
   fun s => storeWords s n (s.ctx n).saveTo [(16, 1)],
   fun s => match (s.ctx n).steward with | some k => dropThread s k | none => [],
   fun s =>
    let c := s.ctx n
    (match c.saveCmd with | some tag => [reply 0x12 tag 0 [num s.sys.dt]] | none => [])
      ++ [.ctx n fun c =>
            { c with save := .saved, steward := none, gone := c.saveCmd.isSome, saveCmd := none, active := false
                     waitFrom := s.sys.dt, ts := max 1 (s.sys.dt - since), cntTo := 0, tide := { c.tide with step := none, short := c.tide.short } }]]

/-- CONTEXT_SAVE (R348 steps 3 and 4): the steward is stopped and the rows are released; then the image is
written and sealed. -/
def execContextSave (n : Nat) (s : State) : Host.Outcome State Fault Refusal :=
  .next <|
    match (s.ctx n).save with
    | .asked since => if saveMayBegin s n since then run (beginSave n) s else s
    | .writing since => if saveMayEnd s n since then run (endSave n since) s else s
    | _ => s

/-- A save fails: the command that asked for it, if any, is answered (R403), and the context is reset. -/
def failSave (n : Nat) (notice : Nat) (status : Int) (s : State) : State :=
  let answer := match (s.ctx n).saveCmd with
    | some tag => [reply 0x12 tag status, .ctx n fun c => { c with saveCmd := none }]
    | none => []
  run ((fun _ => answer) :: forceReset n (some (notice, []))) s

/-- PREEMPTION_DEADLINE (R348): the deadline expires before step 4 begins. -/
def execPreemptionDeadline (n : Nat) (s : State) : Host.Outcome State Fault Refusal :=
  .next <|
    match (s.ctx n).save with
    | .asked since => if since + 1000 * (s.ctx n).saveDl ≤ s.sys.dt then failSave n 2 (-6) s else s
    | _ => s

/-- SAVE_WATCHDOG (R349): the hang watchdog expires while step 4 is under way. -/
def execSaveWatchdog (n : Nat) (s : State) : Host.Outcome State Fault Refusal :=
  .next <|
    match (s.ctx n).save with
    | .writing since =>
      if since + 1000 * (s.die (dieOfCluster (s.ctx n).home)).saveto ≤ s.sys.dt then failSave n 1 (-7) s else s
    | _ => s

/-! ### Restore (R246, R326, R351) -/

/-- The context registers of an image. -/
def Ctx.restoreRegs (s : State) (base : Nat) (c : Ctx) : Ctx :=
  let w := imageWord s base
  { c with lease := max 64 (min 4096 (field (w 0x40) 12 0)), rowqTotal := min 64 (field (w 0x48) 6 0)
           rowqPch := min 8 (field (w 0x48) 11 8), rowSave := has (w 0x50).toNat 0, reopenFail := has (w 0x50).toNat 8
           trapvec := field (w 0x58) 55 3 * 8, deadline := field (w 0x60) 15 0 }

/-- The counters from 16 words. -/
def countersFrom (w : Nat → W64) : Sparse Counter :=
  (List.range 8).foldl (fun m i =>
    let x := w (16 * i)
    put {} m i { count := field x 47 0, ovf := has x.toNat 63, conf := w (16 * i + 8) }) []

/-- The tide state of an image: the loop goes on from D and I, clamped to the ladder (R326). -/
def Tide.restore (s : State) (base now : Nat) : Tide :=
  let w := fun id => imageWord s base (0x80 + 8 * id)
  let cfg := (({ allocated := true } : Tide).write 2 (w 2))
  let t := ((({ cfg with step := none }.write 0 (w 0)).write 1 (w 1)).write 3 (w 3)).write 5 (w 5)
  let d := field (w 4) 5 0
  let short := imageWord s base 0xE0
  { t with pos := min d t.dmax, own := field (w 6) 39 16, merged := field (w 6) 15 0
           flags := field (w 9) 7 0 ||| (if t.dmax < d then 128 else 0)
           demand := demandAt t.kc (min d t.dmax), grant := floorGrant t.kc (min d t.dmax), allocated := false
           short := has short.toNat 0, throttled := has short.toNat 1, stopped := has short.toNat 2
           first := true, period := now }

/-- The event queue of an image. -/
def eventsFrom (s : State) (base : Nat) : List EvRec :=
  (List.range 32).filterMap fun i =>
    let x := imageWord s base (0x400 + 16 * i)
    if has x.toNat 9 then
      some { kind := field x 7 0, lost := has x.toNat 8, source := field x 31 16, seq := field x 63 32
             word1 := imageWord s base (0x408 + 16 * i) }
    else none

/-- The sequence numbers and the LOST state of an image's queue. -/
def sourcesFrom (s : State) (base : Nat) (c : Ctx) : Ctx :=
  let w := fun j => imageWord s base (0x600 + 128 * (j / 2) + 112 + 8 * (j % 2))
  { c with
    evSeq := eventSources.zipIdx.foldl (fun m e => put 0 m e.1 ((w (e.2 / 2)).toNat / 2 ^ (32 * (e.2 % 2)) % 2 ^ 32)) []
    evLost := eventSources.zipIdx.filterMap fun e =>
      if has (imageWord s base (0x400 + 16 * (e.2 % 32))).toNat (10 + e.2 / 32) then some e.1 else none }

/-- The launch table of an image. -/
def launchesFrom (s : State) (base : Nat) : Sparse Launch :=
  (List.range 16).foldl (fun m i =>
    let w := fun j => imageWord s base (0x600 + 128 * i + 8 * j)
    let n := (w 0).toNat % 2 ^ 32
    if n = 0 then m
    else
      let e : Launch :=
        { live := true, number := n, open_ := field (w 1) 1 0 == 1, lgw := (w 1).toNat / 4, ops := (List.range 7).map fun j => w (3 + j)
          init := has (w 10).toNat 0, notify := has (w 10).toNat 1, next := (w 11).toNat, completed := (w 12).toNat
          done := has (w 2).toNat 0, killed := has (w 2).toNat 2, hexit := has (w 2).toNat 3
          lastCore := if w 13 = 0 then none else some ((w 13).toNat - 1) }
      put {} m (n % 16) { e with total := e.gx * e.gy * e.gz }) []

/-- The last launch number of a table: the one that no other follows (R355, R408). -/
def lastNumber (m : Sparse Launch) : Nat :=
  let after := fun (a b : Nat) => let d := (b + 2 ^ 32 - a) % 2 ^ 32; decide (1 ≤ d) && decide (d < 2 ^ 31)
  ((m.map fun e => e.2.number).find? fun a => !(m.any fun e => after a e.2.number)).getD 0

/-- The row table of an image: entries that were held are stale until they are reopened. -/
def rowsFrom (s : State) (base : Nat) : Sparse Row :=
  (List.range 64).foldl (fun m h =>
    let w := fun j => imageWord s base (0xE00 + 32 * h + 8 * j)
    let st := (w 0).toNat % 256
    if st = 0 then m
    else put {} m h { state := .stale, va := (w 1).toNat, pa := (w 2).toNat, w := has (w 0).toNat 8
                      level := field (w 0) 18 16, expiry := (w 3).toNat, reopen := st == 1 }) []

/-- The mailbox rings of an image (R350), for a context whose rings are not on this device. -/
def ringsFrom (s : State) (base first which : Nat) : Sparse Ring :=
  (List.range 4).foldl (fun m b =>
    let ptr := fun i => (imageWord s base (0x1600 + 8 * (which + 4 * i + b))).toNat % 2 ^ 32
    let slots := (List.range 512).foldl (fun m i => put 0 m i (imageWord s base (first + 4096 * b + 8 * i))) []
    put {} m b { pi := ptr 0, ci := ptr 1, slots, kept := slots, ready := ptr 0 }) []

/-- The steward of an image, in a slot. -/
def stewardFrom (s : State) (base n home slot : Nat) : Option Thread :=
  let w := fun i => imageWord s base (0x180 + 8 * i)
  if w 78 = 0 then none
  else
    let t := scalarThread .scc .steward n home slot ((w 64).setWidth 56) [] 1
    some { t with
      regs := { t.regs with
        s := (List.range 64).foldl (fun m i => if i = 0 then m else put 0 m i (w i)) []
        m := (List.range 7).foldl (fun m i => put 0 m (i + 1) (w (71 + i))) []
        fpctl := (w 66).setWidth 32, fpstat := (w 66 >>> 32).setWidth 32
        lanes := [(0, { live := true, pc := (w 64).setWidth 56, header := (w 65).setWidth 56, word := w 78
                        gen := if (w 70).setWidth 32 = (0 : W32) then 1 else (w 70).setWidth 32 })] }
      lgw := (w 68).toNat, repcnt := (w 69).toNat % 128 }

/-- The start of a period that is under way. -/
def periodStart (s : State) (atoll : Nat) : Nat :=
  let p := (s.atoll atoll).periodNs
  s.sys.dt / p * p

/-- Reopens a row that was held at the save, under its handle; a refusal or a fault leaves it stale and sets
REOPENFAIL (R246). -/
def reopenRow (n h : Nat) : Phase := fun s =>
  let c := s.ctx n
  let r := look {} c.rows h
  let who : Who := { ctx := n, cluster := c.home, die := dieOfCluster c.home }
  let lose := [Micro.ctx n fun c => { c with reopenFail := true, rows := put {} c.rows h { r with reopen := false } }]
  if !r.reopen then []
  else
    match translate s who .read r.va with
    | .error _ => lose
    | .ok p =>
      let pa := p.key / 1024 * 1024
      if inLagoon r.va || p.space != .dev || !canJudge s pa || (refusal s n pa true).isSome
          || (heldRows s).any fun e => e.1 == n && e.2.2.pa == pa then lose
      else touch s who r.va false ++ [holdRow s n h r.va pa p.canW p.level, dropTags pa]

/-- A RESTORED event is posted (R351, R359). -/
def postRestored (n : Nat) : Phase := fun _ =>
  [.ctx n fun c => c.post 5 0x0400
    (num ((if c.reopenFail then 1 else 0) + (if has c.tide.flags 7 then 2 else 0) + (if c.sliceClamp then 4 else 0)))]

/-- The word at an offset of a restored context's counters: of the host's block where counter virtualisation is
host-assisted, else of the image (R350, R401, R405). -/
def counterSource (s : State) (n base off : Nat) : W64 :=
  if hostAssisted s (s.ctx n).atoll 5 then
    match counterPlace s n (off / 8) .read with
    | .ok p => dword s (forward s p.space p.key)
    | .error _ => 0
  else imageWord s base (0x100 + off)

/-- Restores an image into a context that already has its number, home and tables, with its steward in a
free slot (R351). `away` says that the context was not held on this device: the image's rings and sequence numbers
are used. Records posted to a queue since its save follow the image's (R408). -/
def restoreImage (n base slot : Nat) (away : Bool) : List Phase :=
  ([fun s => [.ctx n fun c => { (c.restoreRegs s base) with counters := countersFrom (counterSource s n base) }],
   fun s => [.ctx n fun c => { c with tide := Tide.restore s base (periodStart s c.atoll) }],
   fun s => [.ctx n fun c => { c with rows := rowsFrom s base }]] : List Phase)
  ++ (List.range 64).map (reopenRow n)
  ++ ([fun s => [.ctx n fun c =>
        let m := launchesFrom s base
        let es := eventsFrom s base
        let c := if away then sourcesFrom s base c else c
        { c with events := if away then es else es ++ c.events.drop es.length, launches := m, lastLaunch := lastNumber m, nextLaunch := numberAfter (lastNumber m)
                 inb := if away then ringsFrom s base 0x1800 0 else c.inb
                 outb := if away then ringsFrom s base 0x5800 8 else c.outb }],
      fun s =>
        let home := (s.ctx n).home
        match stewardFrom s base n home slot with
        | some t => [.thread (sccKey home slot) (fun _ => t), occupy s home, .ctx n fun c => { c with steward := some (sccKey home slot) }]
        | none => [],
      fun s => [.ctx n fun c =>
        let e := effectiveSlice s n
        { c with save := .none, gone := false, cntTo := 0, active := true, activeFrom := s.sys.dt
                 slice := if (s.atoll c.atoll).rotation.isSome then e.1 else 0
                 sliceClamp := (s.atoll c.atoll).rotation.isSome && e.2, tr := max c.tr 1 }],
      postRestored n] : List Phase)

/-- In host-assisted counter virtualisation the host is asked for the block that holds a context's counters, once, and
the restore waits for the answer (R351, R401, R405). -/
def askCounters (n : Nat) : Phase := fun s =>
  if s.sys.asks.any fun a => a.code == 0x84 && a.what == n then [] else [ask 0x84 n [num (n + 2 ^ 8)]]

/-- An image is sealed (R350). -/
def isSealed (s : State) (base : Nat) : Bool := has (imageWord s base 16).toNat 0

/-- A context takes its registers, its counters and the rest of its image with its steward in a slot: the image's, or
one that system software has started since (R351, R404). -/
def restoreWith (n slot : Nat) (away : Bool) (s : State) : State :=
  let base := (s.ctx n).saveTo
  let started := (s.ctx n).steward
  let s := run (restoreImage n base slot away) s
  let s := match started with
    | some k =>
      let home := (s.ctx n).home
      let t := s.thread k
      run [fun s => dropThread s k,
           fun s => [.thread (sccKey home slot) fun _ => { t with ctx := n, core := home, slot }, occupy s home,
                     .ctx n fun c => { c with steward := some (sccKey home slot) }]] s
    | none => s
  match (s.ctx n).steward with
  | some k => settle k s
  | none => s

/-! ### The slice rotation (R347, R353) -/

/-- Orders contexts by class, then by a time, then by number: the first is served first. -/
def firstBy (key : Nat → Nat × Nat) : List Nat → Option Nat
  | [] => none
  | n :: ns =>
    match firstBy key ns with
    | none => some n
    | some m =>
      let a := key n
      let b := key m
      if a.1 < b.1 ∨ (a.1 = b.1 ∧ (a.2 < b.2 ∨ (a.2 = b.2 ∧ n < m))) then some n else some m

/-- The runnable contexts that wait for an active place. -/
def waiting (s : State) (atoll : Nat) : List Nat := (runnables s atoll).filter fun n => !(s.ctx n).active

/-- The waiting context that is served next: lowest class, longest waiting, lowest number. -/
def nextIn (s : State) (atoll : Nat) : Option Nat := firstBy (fun n => ((s.ctx n).tide.cls, (s.ctx n).waitFrom)) (waiting s atoll)

/-- A context that the rotation may pre-empt: it has an image address or its saves are host-assisted (R404). -/
def mayLeave (s : State) (n : Nat) : Bool :=
  let c := s.ctx n
  c.active && c.save == .none && (c.image != 0 || hostAssisted s c.atoll 4)

/-- The contexts pre-empted to make room, in order: those with nothing placeable that have been active longer
than a slice; then by highest class, longest active, lowest number. -/
def nextOut (s : State) (ns : List Nat) : Option Nat :=
  let idle := ns.filter fun n => (s.ctx n).placing.isNone && decide ((s.ctx n).activeFrom + 1000 * (s.ctx n).slice < s.sys.dt)
  let ns := if idle.isEmpty then ns else idle
  firstBy (fun n => (3 - (s.ctx n).tide.cls, (s.ctx n).activeFrom)) ns

/-- Chooses `k` contexts to pre-empt. -/
def chooseOut (s : State) : Nat → List Nat → List Nat
  | 0, _ => []
  | k + 1, ns =>
    match nextOut s ns with
    | none => []
    | some n => n :: chooseOut s k (ns.filter (· != n))

/-- The slice of an atoll's rotation is over: the first period end at or after its length (R347). -/
def sliceOver (s : State) (atoll start : Nat) : Bool :=
  let p := (s.atoll atoll).periodNs
  let len := ((ctxsOf s atoll).map fun n => if (s.ctx n).active then 1000 * (s.ctx n).slice else 0).foldl max 0
  decide ((start + len + p - 1) / p * p ≤ s.sys.dt)

/-- The slot into which a context is restored: its started steward's own, or one that a steward may take. -/
def restoreSlot (s : State) (n : Nat) : Option Nat :=
  match (s.ctx n).steward with
  | some k => some (s.thread k).slot
  | none => stewardSlot s (s.ctx n).home

/-- A slice starts for an active context: the slice length in force, and whether it was clamped (R353, R427). -/
def Ctx.startSlice (s : State) (n : Nat) (c : Ctx) : Ctx :=
  let e := effectiveSlice s n
  { c with slice := e.1, sliceClamp := e.2 }

/-- The rotation gives a free active place to a waiting context: one that was saved is restored from its
image, if it is sealed and its counters are at hand. -/
def takePlace (n : Nat) (s : State) : State :=
  let c := s.ctx n
  if c.save == .saved then
    if !isSealed s c.saveTo then s
    else if hostAssisted s c.atoll 5 && c.cntTo == 0 then run [askCounters n] s
    else if !counterWay s n .read then s
    else
      match restoreSlot s n with
      | none => s
      | some slot => restoreWith n slot false s
  else
    run [fun s => [.ctx n fun c =>
      let c := c.seat s.sys.dt true
      if (s.atoll c.atoll).rotation.isSome then c.startSlice s n else c]] s

/-- How many contexts of an atoll hold active places. -/
def activeCount (s : State) (atoll : Nat) : Nat :=
  ((ctxsOf s atoll).filter fun n => (s.ctx n).active && runnable s n).length

/-- SLICE_END (R347): a waiting context takes a free place; else, at the end of a slice, one active context
is chosen for pre-emption for each that waits. -/
def execSliceEnd (atoll : Nat) (s : State) : Host.Outcome State Fault Refusal :=
  .next <|
    let s := run [seatContexts atoll] s
    match nextIn s atoll with
    | none => s
    | some n =>
      if activeCount s atoll < 8 then takePlace n s
      else
        match (s.atoll atoll).rotation with
        | none => s
        | some start =>
          if sliceOver s atoll start then
            let out := chooseOut s (waiting s atoll).length ((ctxsOf s atoll).filter (mayLeave s))
            run [fun s => .atoll atoll (fun a => { a with rotation := some s.sys.dt })
              :: (((ctxsOf s atoll).filter fun n => (s.ctx n).active && !out.contains n).map fun n => .ctx n fun c => c.startSlice s n)
              ++ out.map fun n => .ctx n fun c =>
                { c with save := .chosen, saveTo := if hostAssisted s atoll 4 then 0 else c.image, saveCmd := none }] s
          else s

end Sys2Proof.Machine
end

