-- ==== Sys2Proof/Machine/System.lean ====
section
/-! DEFINITION. Group 0xD: traps and returns, the special registers, the debug window, `TLBI`, counters, freezes
and `HALT` (R366 to R369, R380 to R388). -/

namespace Sys2Proof.Machine

/-! ### TRAP and ERET -/

/-- TRAP (R380): every lane of the group stops with the code. -/
def execTrap (f : FY) : State → Host.Outcome State Fault Refusal :=
  issue { engines := ctlEngines }
    (fun iss _ => [fun s => trapGroup s iss .trap (BitVec.ofNat 64 (f.imm.toNat % 65536))]) .stop

/-- Settles one thread after an outcome. -/
def settleThread (k : Nat) (o : Host.Outcome State Fault Refusal) : Host.Outcome State Fault Refusal :=
  match o with
  | .next s => .next (if (s.thread k).live then settle k s else s)
  | o => o

/-- The thread that the record of the issuing handler names. -/
def recordThread (s : State) : Nat :=
  match s.cur with
  | some iss => (s.trap ((s.thread iss.thr).record - 1)).thr
  | none => 0

/-- ERET (R381): a rewritten PC that names no header traps BADTARGET in the handler and resumes nothing, one that
cannot be fetched parks the handler (R365). Harbour code holds no record, and its thread ends. -/
def execEret (f : FY) (s : State) : Host.Outcome State Fault Refusal :=
  let skip := has f.imm.toNat 0
  settleThread (recordThread s) <|
    issue { engines := ctlEngines, level := .handler }
      (fun iss s =>
        let t := s.thread iss.thr
        if t.record = 0 then scalarExit iss.thr s
        else
          match badResume s (t.record - 1) skip with
          | some b => [fun s => strike s iss.thr iss.pc iss.lanes [(0, b)]]
          | none => [returnFrom (t.record - 1) skip, fun s => dropThread s iss.thr])
      .skip (fun _ _ => true) s

/-! ### CSRR and CSRW (R148, R382) -/

/-- The register belongs to the executing warp. -/
def warpCsr (n : Nat) : Bool := n == 0x010 || n == 0x011

/-- The number is one of a context's own registers, of which Harbour code has none. -/
def ctxCsr (n : Nat) : Bool := decide (n < 0xF00) || n == 0xF08

/-- The number is one of the TIDE set, which `CSRR` reads as `TREAD` does (R313, R334). -/
def tideCsr (n : Nat) : Bool := decide (0x180 ≤ n) && decide (n ≤ 0x18B)

/-- What `CSRR` reads. -/
def csrValue (s : State) (iss : Issue) (n : Nat) : W64 :=
  match n with
  | 0x010 => (sourceRegs s iss).fpctl.setWidth 64
  | 0x011 => (s.thread iss.thr).regs.fpstat.setWidth 64
  | n =>
    if onHarbour s iss && tideCsr n then BitVec.allOnes 64
    else if onHarbour s iss && ctxCsr n then Config.freeValue s.fresh
    else ctxRead s (s.thread iss.thr).ctx n

/-- The registers of the warp are read and written on cores alone. -/
def csrEngines (n : Nat) : List Engine := if warpCsr n then [.core] else ctlEngines

/-- CSRR (R382). -/
def execCsrr (f : FY) : State → Host.Outcome State Fault Refusal :=
  let n := f.id.toNat
  issue { engines := csrEngines n, sdst := [f.sd.toNat] }
    (fun iss s => [fun _ => [writeS iss.thr f.sd.toNat (csrValue s iss n), .fresh 1, moveOn iss]])
    .skip fun iss s => !tideCsr n || tideCurrent iss s

/-- A write of FPCTL or FPSTAT, whose reserved bits stay zero (R145, R146). -/
def Regs.csrWrite (r : Regs) (n : Nat) (v : W64) : Regs :=
  if n = 0x010 then { r with fpctl := v.setWidth 32 &&& 0x1F1F } else { r with fpstat := v.setWidth 32 &&& 0x1F }

/-- CSRW (R382). -/
def execCsrw (f : FY) : State → Host.Outcome State Fault Refusal :=
  let n := f.id.toNat
  issue { engines := csrEngines n, level := if warpCsr n then .kernel else .steward, ssrc := [f.sa.toNat] }
    (fun iss s =>
      let v := scalar s iss f.sa.toNat
      [fun s =>
        (if warpCsr n then [.thread iss.thr fun t => t.updRegs fun r => r.csrWrite n v]
          else if onHarbour s iss then []
          else [.ctx (s.thread iss.thr).ctx fun c => c.csrWrite n v]) ++ [moveOn iss]])
    .skip fun iss s => !tideCsr n || periodsServed iss s

/-! ### The debug window (R366, R367, R383) -/

/-- What a selector names: a thread and a lane. -/
structure Aim where
  thr  : Nat
  lane : Nat
  scc  : Bool
  deriving DecidableEq, Repr

/-- The target of a selector for an executing thread. -/
def aimOf (t : Thread) (v : W64) : Option Aim :=
  let core := field v 9 0
  let slot := field v 14 10
  let lane := field v 20 15
  if v.toNat / 2 ^ 21 ≠ 0 then none
  else if core = 0x3FF then
    if t.engine == .scc && decide (slot < 8) then some { thr := sccKey t.core slot, lane, scc := true } else none
  else if core < 768 then some { thr := warpKey core slot, lane, scc := false }
  else none

/-- The id names a register of the access thread beside the warp. -/
def ofAccess (id : Nat) : Bool := decide (0x460 ≤ id)

/-- The thread whose register an id names. -/
def Aim.owner (a : Aim) (id : Nat) : Nat := if ofAccess id && !a.scc then a.thr + 32768 else a.thr

/-- The registers of the window that a steward has. -/
def stewardId (id : Nat) : Bool :=
  (decide (0x400 ≤ id) && decide (id ≤ 0x43F)) || id == 0x450 || (decide (0x452 ≤ id) && decide (id ≤ 0x455)) || id == 0x457

/-- The id names a register of one lane. -/
def perLane (id : Nat) : Bool :=
  decide (id < 0x400) || id == 0x450 || id == 0x451 || id == 0x458 || id == 0x45B

/-- A lane is stopped for a trap record, or with its sequence (R86, R366). -/
def stoppedFor (s : State) (id : Nat) (x : Lane) : Bool :=
  x.state == .stopped (.record id) || ((s.trap id).inrep && x.state == .stopped .sequence)

/-- The access is permitted, and it names a register that the target has (R366): of a warp that has lanes stopped for the
handler's record, a register of one lane only where that lane is stopped for it. -/
def mayAim (s : State) (iss : Issue) (a : Aim) (id : Nat) : Bool :=
  let t := s.thread iss.thr
  let k := a.owner id
  let x := s.thread k
  let mine := t.record != 0 && (s.trap (t.record - 1)).live && (s.trap (t.record - 1)).thr == k
  let mine := mine && (a.scc || ofAccess id || !perLane id || stoppedFor s (t.record - 1) (x.lane a.lane))
  let stopped := if a.scc then mine && x.level == .steward else mine || coreFrozen s x.core
  x.live && x.ctx == t.ctx && t.ctx != 64 && stopped
    && (!perLane id || decide (a.lane < x.width))
    && (decide (0x400 ≤ id) || (decide (id < x.budget) && (portOf (hasPorts s x) id).isNone))
    && (!a.scc || stewardId id)

/-- The registers that the window presents: those of the checkpoint and the shadow during an episode (R260). -/
def presented (t : Thread) : Regs :=
  match t.episode with
  | none => t.regs
  | some e => { e.shadow with lanes := restoredLanes t e }

/-- A vector register as the window presents it: undefined while a Reef operation uses it, or where an episode
has not saved it. -/
def windowV (s : State) (t : Thread) (r l : Nat) : W32 :=
  let free := (Config.freeValue s.fresh).setWidth 32
  if t.inUse r then free
  else
    match t.episode with
    | none => t.regs.getV r l
    | some e =>
      if !has e.lanesIn l then t.regs.getV r l
      else if has e.groups (r / 32) then e.shadow.getV r l else free

/-- A lane's state as a number (R367); a freeze stops the lanes that run (R74). -/
def laneCode (frozen : Bool) (l : Lane) : Nat :=
  match l.state with
  | .running => if frozen then 4 else 0
  | .joining _ | .atBarrier _ => 1
  | .sleeping _ => 2
  | .parked _ => 3
  | .stopped _ => 4
  | .exited => 5

/-- The executions left of a sequence that is suspended, by a trap, a fault or a freeze (R86). -/
def repLeft (frozen : Bool) (t : Thread) : Nat :=
  match t.seq with
  | some q => if !q.paused && frozen then q.count - q.next else t.repcnt
  | none => t.repcnt

/-- Reads a register of the window. -/
def windowRead (s : State) (a : Aim) (id : Nat) : W64 :=
  let t := s.thread (a.owner id)
  let frozen := gated s (a.owner id)
  let r := presented t
  let l : Lane := look {} r.lanes (if a.scc || ofAccess id then 0 else a.lane)
  let num := fun (n : Nat) => BitVec.ofNat 64 n
  if id < 0x400 then (windowV s t id a.lane).setWidth 64
  else if id < 0x440 then r.getS (id - 0x400)
  else if id = 0x440 then r.em
  else if id < 0x448 then r.getM (id - 0x440)
  else if id < 0x44C then r.getJ (id - 0x448)
  else if id = 0x4A0 then l.pc.setWidth 64
  else if 0x460 ≤ id then r.getS (id - 0x460)
  else
    match id with
    | 0x450 => l.pc.setWidth 64
    | 0x451 => num (laneCode frozen l)
    | 0x452 => r.fpctl.setWidth 64
    | 0x453 => r.fpstat.setWidth 64
    | 0x454 => num t.counters
    | 0x455 => num (repLeft frozen t)
    | 0x456 => t.rstat.setWidth 64
    | 0x457 => num t.lgw
    | 0x458 => l.gen.setWidth 64
    | 0x459 => if r.raen then 1 else 0
    | 0x45A => t.reefst.setWidth 64
    | _ => num (field l.word 47 16)

/-- Changes the registers that the window presents: in an episode those of the shadow, or of the lanes that
take no part in it (R260). -/
def windowUpd (lane : Option Nat) (f : Regs → Regs) (t : Thread) : Thread :=
  match t.episode with
  | none => t.updRegs f
  | some e =>
    match lane with
    | some l => if has e.lanesIn l then { t with episode := some { e with shadow := f e.shadow } } else t.updRegs f
    | none => { t with episode := some { e with shadow := f e.shadow } }

/-- Changes a lane in registers. -/
def Regs.updLane (r : Regs) (l : Nat) (f : Lane → Lane) : Regs := { r with lanes := put {} r.lanes l (f (look {} r.lanes l)) }

/-- A number of executions left is written: a suspended sequence, or one that a freeze holds, goes on with so many, or has
ended (R86, R87). -/
def Thread.setRepcnt (frozen : Bool) (n : Nat) (t : Thread) : Thread :=
  match t.seq with
  | some q =>
    if q.paused then { t with repcnt := n }
    else if !frozen then { t with repcnt := n }
    else if n = 0 then { t with seq := none, repcnt := 0 }
    else { t with seq := some { q with next := q.count - n }, repcnt := n }
  | none => { t with repcnt := n }

/-- Writes a register of the window; a read-only one keeps its value. -/
def windowWrite (s : State) (a : Aim) (id : Nat) (v : W64) : List Micro :=
  let k := a.owner id
  let frozen := gated s k
  let l := if a.scc || ofAccess id then 0 else a.lane
  let upd := fun (lane : Option Nat) (f : Regs → Regs) => [Micro.thread k (windowUpd lane f)]
  let newPc : Lane → Lane := fun x => { x with pc := v.setWidth 56, rewritten := true }
  if id < 0x400 then
    let free := (s.thread k).inUse id
    let x := if free then (Config.freeValue s.fresh).setWidth 32 else v.setWidth 32
    touchReef s k [id] ++ upd (some l) (fun r => r.setV id l x) ++ [.thread k fun t => t.heal [64 * id + l]]
  else if id < 0x440 then upd none (fun r => r.setS (id - 0x400) v) ++ [.thread k fun t => t.heal [65536 + (id - 0x400)]]
  else if id = 0x440 then []
  else if id < 0x448 then upd none fun r => r.setM (id - 0x440) (v &&& widthMask (s.thread k))
  else if id < 0x44C then upd none fun r => r.setJ (id - 0x448) (v &&& widthMask (s.thread k))
  else if id = 0x4A0 then upd (some 0) fun r => r.updLane 0 newPc
  else if 0x460 ≤ id then upd none (fun r => r.setS (id - 0x460) v) ++ [.thread k fun t => t.heal [65536 + (id - 0x460)]]
  else
    match id with
    | 0x450 => upd (some l) fun r => r.updLane l newPc
    | 0x452 => upd none fun r => r.csrWrite 0x010 v
    | 0x453 => upd none fun r => r.csrWrite 0x011 v
    | 0x455 => [.thread k (Thread.setRepcnt frozen (min 64 (field v 6 0)))]
    | 0x456 => [.thread k fun t => { t with rstat := v.setWidth 32 &&& 0xFF07 }]
    | 0x458 => upd (some l) fun r => r.updLane l fun x => { x with gen := if (v.setWidth 32 : W32) = 0 then 1 else v.setWidth 32 }
    | 0x459 => upd none fun r => { r with raen := has v.toNat 0 }
    | _ => []

/-- What `DBGRD` answers: all ones where the access is not permitted. -/
def debugValue (s : State) (iss : Issue) (sel : W64) (id : Nat) : W64 :=
  match aimOf (s.thread iss.thr) sel with
  | some a => if mayAim s iss a id then windowRead s a id else BitVec.allOnes 64
  | none => BitVec.allOnes 64

/-- DBGRD (R366, R367, R383). -/
def execDbgrd (f : FY) : State → Host.Outcome State Fault Refusal :=
  issue { engines := ctlEngines, level := .steward, ssrc := [f.sa.toNat], sdst := [f.sd.toNat] }
    (fun iss s =>
      [fun _ => [writeS iss.thr f.sd.toNat (debugValue s iss (scalar s iss f.sa.toNat) f.id.toNat), .fresh 1, moveOn iss]])
    .skip

/-- What `DBGWR` writes. -/
def debugWrite (s : State) (iss : Issue) (sel v : W64) (id : Nat) : List Micro :=
  match aimOf (s.thread iss.thr) sel with
  | some a => if mayAim s iss a id then windowWrite s a id v else []
  | none => []

/-- DBGWR (R366, R367, R383). -/
def execDbgwr (f : FY) : State → Host.Outcome State Fault Refusal :=
  issue { engines := ctlEngines, level := .steward, ssrc := [f.sa.toNat, f.sd.toNat] }
    (fun iss _ =>
      [fun s => debugWrite s iss (scalar s iss f.sa.toNat) (scalar s iss f.sd.toNat) f.id.toNat ++ [.fresh 1, moveOn iss]])
    .skip

/-! ### TLBI (R384) -/

/-- The table lines that a walk reads, up to the first entry that would fault. -/
def tableLines (s : State) (ctx va : Nat) : List (Nat × Nat) → Nat → List Nat
  | [], _ => []
  | (level, shift) :: rest, base =>
    match secondStage s ctx {} (base + 8 * (va / 2 ^ shift % 1024)) {} with
    | .error _ => []
    | .ok (pa, _) =>
      let e := readNat s pa 8
      let more := e % 2 = 1 ∧ !has e 1 ∧ e / 2 ^ 52 = 0 ∧ e % 2 ^ 13 = 1 ∧ level ≠ 4
      pa / 256 :: if more then tableLines s ctx va rest (e / 2 ^ 13 * 2 ^ 13) else []

/-- The time that `TLBI` returns: a Lagoon address reads no table, and neither does Harbour code. -/
def tlbiTime (s : State) (iss : Issue) (va : Nat) : Nat :=
  let t := s.thread iss.thr
  let lines := if inLagoon va || onHarbour s iss then [] else tableLines s t.ctx va levels (s.ctx t.ctx).xroot
  lines.foldl (fun m l => max m (look 0 s.ca.leases l)) (dtOf s t) + 2

/-- TLBI (R208, R384). -/
def execTlbi (f : FY) : State → Host.Outcome State Fault Refusal :=
  issue { engines := ctlEngines, level := .steward, ssrc := [f.sa.toNat], sdst := [f.sd.toNat] }
    (fun iss s =>
      let time := tlbiTime s iss ((scalar s iss f.sa.toNat).toNat % 2 ^ 56)
      [fun _ => [writeS iss.thr f.sd.toNat (BitVec.ofNat 64 time), foldTime iss.thr time, moveOn iss]])
    .skip

/-! ### Counters (R385, R387) -/

/-- What `CNTRD` reads of a counter. -/
def Counter.word (c : Counter) : W64 := BitVec.ofNat 64 (c.count % 2 ^ 48 + (if c.ovf then 2 ^ 63 else 0))

/-- CNTRD (R387): the issue itself is counted before. Harbour code has no counters. -/
def execCntrd (f : FY) : State → Host.Outcome State Fault Refusal :=
  let n := f.imm.toNat % 8
  issue { engines := ctlEngines, sdst := [f.sd.toNat] }
    (fun iss s =>
      let k := (s.thread iss.thr).ctx
      [fun s =>
        let c := look {} (s.ctx k).counters n
        [writeS iss.thr f.sd.toNat (if onHarbour s iss then Config.freeValue s.fresh else c.word), .fresh 1]
          ++ (if has f.imm.toNat 8 && !onHarbour s iss then
                [.ctx k fun x => { x with counters := put {} x.counters n { look {} x.counters n with count := 0, ovf := false } }]
              else []) ++ [moveOn iss]])
    .skip

/-- The configuration that a written word gives: a reserved event code counts nothing (R385, R386). -/
def counterConf (v : W64) : W64 := (if 0x11 < field v 7 0 then v &&& 0x0000FFFF00000300 else v &&& 0x0000FFFF000003FF)

/-- CNTCFG (R385). -/
def execCntcfg (f : FY) : State → Host.Outcome State Fault Refusal :=
  let n := f.imm.toNat % 8
  issue { engines := ctlEngines, level := .steward, ssrc := [f.sa.toNat] }
    (fun iss s =>
      let v := counterConf (scalar s iss f.sa.toNat)
      [fun s => (if onHarbour s iss then [] else
          [.ctx (s.thread iss.thr).ctx fun x => { x with counters := put {} x.counters n { conf := v } }]) ++ [moveOn iss]])
    .skip

/-! ### FREEZE (R368, R369, R388) -/

/-- Twelve fc of a thread's engine in ns: of its cluster's clock as it runs, slower of two steps while it
relocks, halved while stretched (R409, R410); 12 on a Harbour core (log entry 9). -/
def twelveFc (s : State) (t : Thread) : Nat :=
  if t.engine == .harbour then 12
  else
    let c := s.cluster t.cluster
    let mhz := 650 + 50 * (if c.relock then min c.step c.was else c.step)
    (12000 * (if c.stretch then 2 else 1) + mhz - 1) / mhz

/-- A launch number names an incomplete launch of a context that a freeze, or a thaw, changes. -/
def freezable (c : Ctx) (n : Nat) (thaw : Bool) : Bool :=
  c.openLaunches.any fun e => (n == 0 || e.number == n) && e.frozen == thaw

/-- The contexts that a job freeze reaches: those with the same job tag; without one only the own (R324). -/
def jobMembers (s : State) (n : Nat) : List Nat :=
  let job := (s.ctx n).tide.job
  if job = 0 then [n] else keysOf (s.ctxs.filter fun c => c.2.live && c.2.tide.job == job)

/-- FREEZE (R388): a local form is held until the cut; a job form has its cut at once. -/
def execFreeze (f : FY) : State → Host.Outcome State Fault Refusal :=
  let sd := f.sd.toNat
  let thaw := has f.imm.toNat 0
  issue { engines := ctlEngines, level := .steward, ssrc := [f.sa.toNat], sdst := [sd] }
    (fun iss s =>
      let t := s.thread iss.thr
      let n := (scalar s iss f.sa.toNat).toNat % 2 ^ 32
      let may := !onHarbour s iss && freezable (s.ctx t.ctx) n thaw
      if has f.imm.toNat 1 then
        let at_ := dtOf s t + 10000
        [fun s => [writeS iss.thr sd (BitVec.ofNat 64 at_), moveOn iss]
          ++ (if may then
                [.sys fun y => { y with cuts := y.cuts ++ (jobMembers s t.ctx).map fun c =>
                  { at_, ctx := c, launch := n, thaw } }]
                ++ (if (s.ctx t.ctx).tide.job = 0 then [] else [send (.freeze (s.ctx t.ctx).tide.job n at_ thaw)])
              else [])]
      else
        let at_ := dtOf s t + twelveFc s t
        [fun s => [.bump 1, holdLanes iss iss.lanes (.cut sd s.fl.next),
            .sys fun y => { y with cuts := y.cuts ++ [{ at_, ctx := if may then t.ctx else 64, launch := n, thaw, id := s.fl.next }] }]])
    .skip

/-- The launches of a context that a cut stops or lets go. -/
def Ctx.cutLaunches (c : Ctx) (x : Cut) : List Nat :=
  ((c.openLaunches.filter fun e => (x.launch == 0 || e.number == x.launch) && e.frozen == x.thaw)).map Launch.number

/-- At a freeze the launches are frozen, and their cores with them; a period with it is a stopped one. -/
def freezeLaunches (x : Cut) : List Phase :=
  [fun s =>
    let ls := (s.ctx x.ctx).cutLaunches x
    ls.flatMap (fun l => (keysOf s.wgs).filterMap fun g =>
        let w := s.wg g
        if w.live && w.ctx == x.ctx && w.launch == l then
          some (Micro.core w.core fun c => { c with freezes := insertOnce (freezeKey x.ctx l) c.freezes })
        else none)
      ++ ls.map (fun l => .ctx x.ctx fun c => c.updLaunch l fun e => { e with frozen := true })
      ++ (if ls.isEmpty then [] else [.ctx x.ctx fun c => { c with tide := { c.tide with stopped := true } }])]

/-- The threads of a core. -/
def threadsOn (s : State) (core : Nat) : List Nat :=
  keysOf (s.threads.filter fun t => (t.2.engine == .core || t.2.engine == .access) && t.2.core == core)

/-- A thread whose core thaws: its episode ends, and lanes whose PC was rewritten come to their blocks (R260,
R367). -/
def thawThread (k : Nat) (s : State) : State :=
  runThread k [exitEpisode k, fun _ => [.thread k fun t => t.updLanes (t.laneSet fun l => l.rewritten && l.state == .running)
    fun l => { l with need := .start, rewritten := false }]] s

/-- At a thaw the same cores are let go. -/
def thawLaunches (x : Cut) (s : State) : State :=
  let ls := (s.ctx x.ctx).cutLaunches x
  let keys := ls.map (freezeKey x.ctx)
  let held := (keysOf s.cores).filter fun c => (s.core c).freezes.any keys.contains
  let s := run [fun _ => held.map (fun c => .core c fun c => { c with freezes := c.freezes.filter fun k => !keys.contains k })
    ++ ls.map fun l => .ctx x.ctx fun c => c.updLaunch l fun e => { e with frozen := false }] s
  ((held.filter fun c => !coreFrozen s c).flatMap (threadsOn s)).foldl (fun s k => thawThread k s) s

/-- A thread that the cut holds goes on with the cut's time. -/
def releaseCut (x : Cut) (s : State) : State :=
  match s.threads.find? fun t => match (t.2.lane 0).hold with | .cut _ id => id == x.id && x.id != 0 | _ => false with
  | none => s
  | some t =>
    match (t.2.lane 0).hold with
    | .cut sd _ =>
      runThread t.1 [fun _ => [writeS t.1 sd (BitVec.ofNat 64 x.at_),
        .thread t.1 fun y => y.moveOn (y.lane 0).pc 1 8]] s
    | _ => s

/-- FREEZE_CUT (R368): at the cut the cores of a launch stop issuing, or issue again. -/
def execFreezeCut (i : Nat) (s : State) : Host.Outcome State Fault Refusal :=
  .next <|
    match s.sys.cuts[i]? with
    | none => s
    | some x =>
      if x.at_ ≤ s.sys.dt then
        let s := run [fun _ => [.sys fun y => { y with cuts := y.cuts.eraseIdx i }]] s
        releaseCut x (if x.thaw then thawLaunches x s else run (freezeLaunches x) s)
      else s

/-! ### HALT (R388, R426) -/

/-- The interrupts pending at a Harbour core. -/
def pendingAt (s : State) (t : Thread) : Nat := look 0 (s.die t.die).hpend (t.core % 8)

/-- HALT (R388): held until an interrupt of a class in the mask is pending. -/
def execHalt (f : FY) : State → Host.Outcome State Fault Refusal :=
  let mask := f.imm.toNat % 256
  issue { engines := ctlEngines, level := .harbour, undef := mask == 0 }
    (fun iss s =>
      [fun _ => [if pendingAt s (s.thread iss.thr) &&& mask != 0 then moveOn iss else holdLanes iss iss.lanes (.halt mask)]])
    .skip

/-- A Harbour core that is halted goes on when an interrupt that it waits for is pending. -/
def wakeHalt (die core : Nat) (s : State) : State :=
  let k := harbourKey die core
  let t := s.thread k
  match (t.lane 0).hold with
  | .halt mask => if pendingAt s t &&& mask != 0 then runThread k [fun _ => [.thread k fun t => t.moveOn (t.lane 0).pc 1 8]] s else s
  | _ => s

end Sys2Proof.Machine
end

