-- ==== Sys2Proof/Machine/Power.lean ====
section
/-! DEFINITION. Clocks, throttling, ballast, gating and power tokens (R327 to R330, R409 to R418). -/

namespace Sys2Proof.Machine

/-! ### Clock settings under the slew budget (R327, R328, R330, R409, R415) -/

/-- The contexts with a workgroup resident on a cluster, by class and then by number. -/
def residents (s : State) (cl : Nat) : List Nat :=
  let ns := distinct ((s.wgs.filter fun w => w.2.live && clusterOf w.2.core == cl).map fun w => w.2.ctx)
  (List.range 4).flatMap fun k => (List.range 64).filter fun n => ns.contains n && (s.ctx n).tide.cls == k

/-- The step that a cluster is to run at: the largest granted to a resident context (R327). -/
def stepWanted (s : State) (cl : Nat) : Nat := ((residents s cl).map fun n => (s.ctx n).tide.grant.getD 4 0).foldl max 0

/-- The lane ratio that a cluster is to run at (R327, R330). -/
def ratioDue (s : State) (cl : Nat) : Nat :=
  let c := s.cluster cl
  if (residents s cl).isEmpty then c.ratio
  else if ratioWanted s cl = 2 ∧ !c.double then 1 else ratioWanted s cl

/-- A change of a cluster's clocks or ballast. -/
inductive Change
  | step (cl dest : Nat)
  | ratio (cl dest : Nat)
  | ballast (cl : Nat)
  deriving DecidableEq, Repr

/-- What a change costs (R328, R415). -/
def Change.cost : Change → Nat
  | .ratio _ _ => 4
  | _ => 1

/-- The pending changes of a cluster's clocks; a step moves by one at a time. -/
def clockChanges (s : State) (cl : Nat) : List Change :=
  let c := s.cluster cl
  let want := stepWanted s cl
  (if want = c.step then [] else [.step cl (if want < c.step then c.step - 1 else c.step + 1)])
    ++ (if ratioDue s cl = c.ratio then [] else [.ratio cl (ratioDue s cl)])

/-- The pending changes of an atoll in order: by context class, context and cluster; of clusters without a
workgroup; then of ballast (R328, R415). -/
def pendingChanges (s : State) (atoll : Nat) : List Change :=
  let cls := members 48 (s.atoll atoll).clusters
  let order := (List.range 4).flatMap fun k => (ctxsOf s atoll).filter fun n => (s.ctx n).tide.cls == k
  (order.flatMap fun n => (cls.filter fun cl => (residents s cl).contains n).flatMap (clockChanges s))
    ++ (cls.filter fun cl => (residents s cl).isEmpty).flatMap (clockChanges s)
    ++ (cls.filter fun cl => (s.cluster cl).ballast != 0).map Change.ballast

/-- A change is made; a clock that changes relocks (R409). -/
def Change.make : Change → Micro
  | .step cl dest => .cluster cl fun c => { c with was := c.step, step := dest, relock := true }
  | .ratio cl dest => .cluster cl fun c => { c with was := c.step, ratio := dest, relock := true }
  | .ballast cl => .cluster cl fun c => { c with ballast := c.ballast - 1 }

/-- SLEW_APPLY (R328, R409, R415): the first pending change, once the budget covers it. -/
def execSlewApply (atoll : Nat) (s : State) : Host.Outcome State Fault Refusal :=
  .next <|
    let a := s.atoll atoll
    match pendingChanges s atoll with
    | [] => s
    | x :: _ =>
      if a.slewFrom + (1000 * x.cost + a.slew - 1) / a.slew ≤ s.sys.dt then
        run [fun _ => [x.make, .atoll atoll fun a => { a with slewFrom := s.sys.dt }]] s
      else s

/-- CLOCK_RELOCK_END (R409). -/
def execClockRelockEnd (cl : Nat) (s : State) : Host.Outcome State Fault Refusal :=
  .next (if (s.cluster cl).relock then run [fun _ => [.cluster cl fun c => { c with relock := false, was := c.step }]] s else s)

/-! ### The supply-sag response (R410, R413) -/

/-- SUPPLY_SAG_TRIP (R410). -/
def execSupplySagTrip (cl : Nat) (s : State) : Host.Outcome State Fault Refusal :=
  .next (if cl < 48 then
    run [fun _ => [.cluster cl fun c => { c with stretch := true, stretchCnt := (c.stretchCnt + 1) % 2 ^ 48 }]] s else s)

/-- SUPPLY_SAG_CLEAR (R410). -/
def execSupplySagClear (cl : Nat) (s : State) : Host.Outcome State Fault Refusal :=
  .next (if (s.cluster cl).stretch then run [fun _ => [.cluster cl fun c => { c with stretch := false }]] s else s)

/-! ### Thermal throttling (R329, R411, R412) -/

/-- A cluster's throttle level changes: every context with a workgroup there hears of it, and its period is a
throttled one when the level is not zero. -/
def setThrottle (s : State) (cl h : Nat) : List Micro :=
  .cluster cl (fun c => { c with throt := h, throtAt := s.sys.dt })
    :: (residents s cl).map fun n => .ctx n fun c =>
        ({ c with tide := { c.tide with throttled := c.tide.throttled || decide (0 < h) } }).post 0 cl (num h)

/-- THROTTLE_STEP (R411): what the cluster's sensors read, in °C, is held against the THOT and TLOW of its die. -/
def execThrottleStep (cl temperature : Nat) (others : List Nat) (s : State) : Host.Outcome State Fault Refusal :=
  .next <|
    let c := s.cluster cl
    let hot := (temperature :: others).any fun t => decide ((s.die (dieOfCluster cl)).thot ≤ t)
    let cold := (temperature :: others).all fun t => decide (t ≤ (s.die (dieOfCluster cl)).tlow)
    if 48 ≤ cl then s
    else if hot ∧ c.throt < 15 ∧ c.throtAt + 10000 ≤ s.sys.dt then run [fun s => setThrottle s cl (c.throt + 1)] s
    else if !hot ∧ cold ∧ 0 < c.throt ∧ c.throtAt + 100000 ≤ s.sys.dt then run [fun s => setThrottle s cl (c.throt - 1)] s
    else s

/-- The reading of a sensor (R438): temperatures and power are open. -/
def sensorReading (s : State) (id : Nat) : Nat :=
  match id / 16 with
  | 0x14 => (((List.range 48).filter fun cl => dieOfCluster cl == id % 16).map fun cl => (s.cluster cl).throt).foldl max 0
  | 0x15 => ((List.range 128).filter fun i => retired s (128 * (id % 16) + i)).length
  | 0x16 => (s.die (id % 16)).corrected
  | 0x17 => s.sys.budget
  | _ => (Config.freeValue s.fresh).toNat

/-- A telemetry event of a die is sent (R408, R438), or waits while the die is in a handover (R431). -/
def telemeter (s : State) (die sensor : Nat) : List Micro :=
  if (s.die die).handover then [.die die fun d => { d with owed := d.owed ++ [sensor] }]
  else
    [send (.telemetry die (s.die die).teleSeq sensor (sensorReading s sensor)), .fresh 1,
     .die die fun d => { d with teleSeq := (d.teleSeq + 1) % 2 ^ 32 }]

/-- TCRIT_TRIP (R411): a sensor of a die reads TCRIT or more, and every cluster of the die goes to level 15 at once. -/
def execTcritTrip (r : Reading) (s : State) : Host.Outcome State Fault Refusal :=
  .next (if 4 ≤ r.die ∨ r.temperature < (s.die r.die).tcrit then s else
    run (((List.range 48).filter fun cl => dieOfCluster cl == r.die && (s.cluster cl).throt != 15).map (fun cl s => setThrottle s cl 15)
      ++ [fun s => telemeter s r.die (0x0100 + r.die)]) s)

/-! ### Gating (R416) -/

/-- A cluster's cores hold no workgroup and its SCC no thread. -/
def clusterIdle (s : State) (cl : Nat) : Bool :=
  !(s.wgs.any fun w => w.2.live && clusterOf w.2.core == cl)
    && (List.range 8).all fun i => !(s.thread (sccKey cl i)).live

/-- The L1s of a cluster's cores hold nothing any more. -/
def dropL1s (cl : Nat) : Micro :=
  .caches fun c => { c with l1 := dropKeys (fun k => clusterOf (k / 2 ^ 56) == cl) c.l1
                            l1data := dropKeys (fun k => clusterOf (k / 2 ^ 62) == cl) c.l1data }

/-- CLUSTER_GATE (R416): an idle cluster is seen to be idle, and gated 10 µs later. -/
def execClusterGate (cl : Nat) (s : State) : Host.Outcome State Fault Refusal :=
  .next <|
    let c := s.cluster cl
    if 48 ≤ cl || c.gated then s
    else if !clusterIdle s cl then run [fun _ => [.cluster cl fun c => { c with idleFrom := none }]] s
    else
      match c.idleFrom with
      | none => run [fun s => [.cluster cl fun c => { c with idleFrom := some s.sys.dt }]] s
      | some t =>
        if t + 10000 ≤ s.sys.dt then run [fun _ => [.cluster cl fun c => { c with gated := true, wake := 0 }, dropL1s cl]] s
        else s

/-- CLUSTER_UNGATE (R416): 2 µs after a placement or a steward start. -/
def execClusterUngate (cl : Nat) (s : State) : Host.Outcome State Fault Refusal :=
  .next <|
    let c := s.cluster cl
    if c.gated && c.wake != 0 && decide (c.wake ≤ s.sys.dt) then
      run [fun _ => [.cluster cl fun c => { c with gated := false, wake := 0 }]] s
    else s

/-! ### Power tokens (R327, R401, R405, R417) -/

/-- The host alone changes the budget: some atoll's token trading is host-assisted. -/
def tokensByHost (s : State) : Bool := (keysOf s.atolls).any fun a => (s.atoll a).live && hostAssisted s a 3

/-- The tokens that the clusters of atolls take at their settings; a gated one takes none. -/
def tokensTaken (s : State) : Nat :=
  let owned := (List.range 48).filter fun cl => s.atolls.any fun a => a.2.live && has a.2.clusters cl
  (owned.map fun cl =>
    let c := s.cluster cl
    if c.gated then 0 else c.step + (if c.ratio = 2 then 8 else 0)).foldl (· + ·) 0

/-- TOKEN_INTERVAL_END (R417): the unused tokens are offered, of which neighbours accept some; the next interval
has the budget granted, with the tokens received and without those lent. In host-assisted mode the host is
told. -/
def execTokenIntervalEnd (accepted : Nat) (s : State) : Host.Outcome State Fault Refusal :=
  .next <|
    let y := s.sys
    let unused := y.budget - tokensTaken s
    let lent := if tokensByHost s then 0 else min accepted unused
    if y.dt < y.intervalEnd || (s.die 0).restart then s
    else
      run [fun s =>
        [if tokensByHost s then ask 0x82 0 [num unused, num y.intervalEnd] else send (.tokens unused),
         .sys fun y =>
          { y with
            budget := ((y.nextBudget : Int) + y.loan - lent).toNat, loan := 0, intervalEnd := y.intervalEnd + 64000
            dry := if y.granted then 0 else y.dry + 1, granted := false }]] s

/-- TOKEN_GRANT (R417): the rack coordinator's budget for the next interval. -/
def execTokenGrant (budget : Nat) (s : State) : Host.Outcome State Fault Refusal :=
  .next (if tokensByHost s || (s.die 0).restart then s else
    run [fun _ => [.sys fun y => { y with nextBudget := budget, granted := true }]] s)

/-- TOKEN_FALLBACK (R417): no grant for 10 intervals, nor in the one under way. The budget falls back once, and what was
lent or received for the interval still counts. -/
def execTokenFallback (s : State) : Host.Outcome State Fault Refusal :=
  .next (if tokensByHost s || decide (s.sys.dry < 10) || s.sys.granted || s.sys.nextBudget == 336 then s else
    run [fun _ => [.sys fun y => { y with budget := ((y.budget : Int) - y.nextBudget + 336).toNat, nextBudget := 336 }]] s)

/-- TOKEN_OFFER (R417): tokens that the package takes from a neighbour are added to its next budget. -/
def execTokenOffer (accepted : Nat) (s : State) : Host.Outcome State Fault Refusal :=
  .next (if tokensByHost s || (s.die 0).restart then s else
    run [fun _ => [.sys fun y => { y with loan := y.loan + accepted }]] s)

end Sys2Proof.Machine
end

