-- ==== Sys2Proof/Machine/Resets.lean ====
section
/-! DEFINITION. The reset hierarchy (R414, R433, R436, R437, R439, R440) and a core's or cluster's logic
errors. -/

namespace Sys2Proof.Machine

/-! ### Cores and clusters -/

/-- The sixteen cores of a cluster (R7). -/
def coresOf (cl : Nat) : List Nat :=
  (List.range 16).map fun i => coreAt (4 * (cl % 8) + i % 4) (4 * (cl / 8) + i / 4)

/-- A core's L1 holds nothing any more. -/
def dropL1 (core : Nat) : Micro :=
  .caches fun c => { c with l1 := dropKeys (fun k => k / 2 ^ 56 == core) c.l1
                            l1data := dropKeys (fun k => k / 2 ^ 62 == core) c.l1data }

/-- A core as reset leaves it; the freezes that reached it are those of launches (R368). -/
def clearCore (core : Nat) : List Micro := [.core core fun c => { freezes := c.freezes }, dropL1 core]

/-- The contexts with a workgroup on a core. -/
def ctxsOn (s : State) (core : Nat) : List Nat :=
  distinct ((s.wgs.filter fun w => w.2.live && w.2.core == core).map fun w => w.2.ctx)

/-- A fault or a trap record belongs to a workgroup of a context, not to a thread. -/
def ofRegions : Parked → Bool
  | .region _ _ | .release _ => true
  | _ => false

/-- Every warp and workgroup of a context is killed, and its incomplete launches are ended as in R348; its
steward and handlers go on. -/
def killLaunches (n : Nat) : List Phase :=
  [fun s => (residentClusters s n).flatMap fun cl => ballastAfter s n cl,
   fun s => (threadsOf s n).flatMap fun k => if (s.thread k).engine == .scc then [] else dropThread s k,
   fun s => s.fl.copies.filterMap fun c =>
     match c.2.owner with
     | .init _ => if c.2.ctx == n then some (.copy c.1 fun c => { c with abandoned := true, stalled := none }) else none
     | _ => none,
   fun s => s.fl.faults.filterMap fun f => if f.2.ctx == n && ofRegions f.2.who then some (.fault f.1 fun _ => {}) else none,
   fun s => s.fl.traps.filterMap fun t => if t.2.ctx == n && decide (backKey 0 ≤ t.2.thr) then some (.trap t.1 fun _ => {}) else none,
   fun s => (s.wgs.filter fun w => w.2.ctx == n).map fun w => .wg w.1 fun _ => {},
   fun s => (keysOf s.cores).flatMap fun c =>
     match (s.core c).owner with
     | some (x, _) => if x == n then
         [.core c fun c => { c with owner := none, slots := [], queue := [], bind := .none }] else []
     | none => [],
   fun _ => [.ctx n Ctx.endLaunches]]

/-- The core level of R439. -/
def resetCore (core : Nat) (s : State) : State :=
  run ((ctxsOn s core).flatMap killLaunches ++ [fun _ => clearCore core]) s

/-- CORE_RESET (R439). -/
def execCoreReset (core : Nat) (s : State) : Host.Outcome State Fault Refusal :=
  .next (if core < 768 then resetCore core s else s)

/-- The contexts with a thread in a cluster's SCC. -/
def ctxsAt (s : State) (cl : Nat) : List Nat :=
  distinct ((s.threads.filter fun t => t.2.engine == .scc && t.2.core == cl).map fun t => t.2.ctx)

/-- The copies of a cluster's engine are abandoned (R439). -/
def abandonCopies (cl : Nat) : Phase := fun s =>
  s.fl.copies.filterMap fun c =>
    if c.2.live && c.2.cluster == cl then some (.copy c.1 fun c => { c with abandoned := true, stalled := none }) else none

/-- A cluster's Lagoon slice is zero, its poison with it. -/
def clearLagoon (cl : Nat) : List Micro :=
  let mine := fun k => decide (lagoonKey cl 0 ≤ k) && decide (k < lagoonKey (cl + 1) 0)
  [.clear mine, .poison fun l => l.filter fun p => !mine p, .caches fun c => { c with writer := dropKeys mine c.writer }]

/-- The cluster level of R439, with the levels above it for the cluster's cores. -/
def resetCluster (cl : Nat) (s : State) : State :=
  let s := run ((ctxsAt s cl).flatMap fun n => forceReset n none) s
  let s := (coresOf cl).foldl (fun s c => resetCore c s) s
  run [abandonCopies cl, fun _ => clearLagoon cl] s

/-- CLUSTER_RESET (R439): no notice has a kind for it (R337). -/
def execClusterReset (cl : Nat) (s : State) : Host.Outcome State Fault Refusal :=
  .next (if cl < 48 then resetCluster cl s else s)

/-! ### L2 contents lost (R439) -/

/-- The row lines among written pages of device memory that satisfy a test: what L2 may have held alone. -/
def writtenLines (s : State) (p : Nat → Bool) : List Nat :=
  (keysOf s.ca.versions).flatMap fun page => ((List.range 64).map fun i => page * 64 + i).filter fun line => p (line * 1024)

/-- A byte whose L2 copy is dropped keeps its value or takes an earlier one, which is a free value. -/
def droppedByte (s : State) (k : Nat) : Byte :=
  let v := Config.freeValue (s.fresh + k)
  if has v.toNat 8 then v.setWidth 8 else s.byte k

/-- L2 slices invalidated without write-back, for the row lines that satisfy a test. Whether a unit is
poisoned afterwards is open with its contents. -/
def dropL2 (p : Nat → Bool) : Phase := fun s =>
  let lines := writtenLines s p
  let units := lines.flatMap fun l => (List.range 32).map fun i => l * 1024 + 32 * i
  [.bytes (lines.flatMap fun l => (List.range 1024).map fun i => (l * 1024 + i, droppedByte s (l * 1024 + i))),
   .poison fun l => units.filter (fun u => has (Config.freeValue (s.fresh + 2 ^ 52 + u)).toNat 0)
     ++ l.filter fun x => !lines.contains (x / 1024),
   .caches fun c => { c with tags := dropKeys (fun line => p (line * 256)) c.tags },
   .fresh (2 ^ 53)]

/-! ### Atolls and dies -/

/-- The pseudo-channels of an atoll that are not retired (R26, R422). -/
def channelsLeft (s : State) (groups : Nat) : Nat :=
  ((List.range 1536).filter fun c => has groups (c / 32) && !retired s c).length

/-- A physical address is one of an atoll's channel groups. -/
def ownedBy (s : State) (atoll pa : Nat) : Bool := has (s.atoll atoll).groups (channelAt s pa / 32)

/-- The allocator's grants as before the first allocation (R322). -/
def Tide.ungrant (t : Tide) : Tide :=
  ({ t with grant := floorGrant t.kc t.pos, allocated := false, tokens := 0, pool := 0, slew := 0, short := false }).follow

/-- The atoll level of R439. -/
def resetAtoll (a : Nat) (s : State) : State :=
  let s := run ((ctxsOf s a).flatMap fun n => forceReset n none) s
  let s := (members 48 (s.atoll a).clusters).foldl (fun s cl => resetCluster cl s) s
  run [dropL2 (ownedBy s a),
       fun s => (ctxsOf s a).map fun n => .ctx n fun c => { c with tide := c.tide.ungrant },
       fun s => (members 48 (s.atoll a).clusters).map fun cl => .cluster cl fun c => { c with double := false },
       fun s => [.atoll a fun x => if x.live then { x with turn := 0, rotation := none, apch := channelsLeft s x.groups } else x]] s

/-- The clusters of a die. -/
def clustersOf (die : Nat) : List Nat := (List.range 48).filter fun cl => dieOfCluster cl == die

/-- A die's firmware after a reset: the image of the active bank runs (R433). -/
def Firmware.boot (dt : Nat) (f : Firmware) : Firmware := { f with state := 0, since := dt }

/-- A Harbour complex after a reset: its flash and its sequence numbers stay. -/
def Die.reset (dt : Nat) (d : Die) : Die :=
  { fw := d.fw.boot dt, kickAt := dt, faultSeq := d.faultSeq, teleSeq := d.teleSeq }

/-- The threads of a die's Harbour end. -/
def dropHarbour (die : Nat) : Phase := fun s => (List.range 5).flatMap fun i => dropThread s (harbourKey die i)

/-- The PF's rings and configuration registers, the device requests and the SPDM connection are part of die 0's Harbour
complex (R402, R403, R439). -/
def Sys.resetPf (y : Sys) : Sys :=
  { y with
    hrbase := [], hrlim := [], fncfg := [], atollmode := [], cmds := [], svcpi := 0, svcci := 0, deferred := []
    replies := [], svrpi := 0, svrci := 0, waiting := [], asks := [], nextTag := 0, spdm := {} }

/-- The die level of R439. A live update stops with a die that had not switched (R433). -/
def resetDie (d : Nat) (s : State) : State :=
  let atolls := (keysOf s.atolls).filter fun a => (clustersOf d).any fun cl => has (s.atoll a).clusters cl
  let s := atolls.foldl (fun s a => resetAtoll a s) s
  let s := (clustersOf d).foldl (fun s cl => resetCluster cl s) s
  let stops := s.sys.pldm == .activate && !(s.die d).fw.switched
  run [dropHarbour d,
       fun s => [.die d (Die.reset s.sys.dt),
                 .sys fun y =>
                  let y := if d = 0 then y.resetPf else y
                  { y with running := y.dt, pldm := if stops then .idle else y.pldm, dieMail := y.dieMail.filter (·.dst != d) }],
       fun s => if d = 0 then (List.range 4).flatMap fun e => askDeferred e s else []] s

/-! ### The package -/

/-- The package's registers after a warm reset: device time, the flash, the state of the DRAM and what lies
outside the package stay. -/
def Sys.warm (y : Sys) : Sys :=
  { dt := y.dt, skew := y.skew, channels := y.channels, mapGen := y.mapGen, refresh := y.refresh, ports := y.ports
    homeBad := y.homeBad, record := y.record, coreMap := y.coreMap, imageKey := y.imageKey, recCtr := y.recCtr
    baseCtr := y.baseCtr, recovery := y.recovery, impl := y.impl, stepping := y.stepping
    defBudget := y.defBudget, budget := y.defBudget, nextBudget := y.defBudget, intervalEnd := (y.dt / 64000 + 1) * 64000
    running := y.dt, out := y.out }

/-- RESET_PACKAGE_WARM's effect (R439). -/
def resetWarm : List Phase :=
  [dropL2 fun _ => true,
   fun _ => (List.range 48).flatMap clearLagoon,
   fun s =>
    [.forget, .sys Sys.warm, .caches fun c => { versions := c.versions }]
      ++ (List.range 4).map (fun d => .die d fun _ => (s.die d).reset s.sys.dt)
      ++ (List.range 48).map fun cl => .cluster cl fun _ => { seq := (s.cluster cl).seq }]

/-- The package's registers after a cold reset, at the time at which device time restarts. -/
def Sys.cold (dt : Nat) (y : Sys) : Sys :=
  { dt, homeBad := y.homeBad, record := y.record, coreMap := y.coreMap, imageKey := y.imageKey, recCtr := y.recCtr
    baseCtr := y.baseCtr, recovery := y.recovery, impl := y.impl
    stepping := y.stepping, defBudget := y.defBudget, budget := y.defBudget, nextBudget := y.defBudget
    intervalEnd := (dt / 64000 + 1) * 64000, running := dt, out := y.out }

/-- Device time restarts at 0, or at the fabric's time for a fabric member (R439). -/
def coldTime (s : State) : Nat :=
  let v := (Config.freeValue s.fresh).toNat
  if has v 63 then v % 2 ^ 63 else 0

/-- The record in flash is read: it is in force when its signature checks and its SVN is at least its counter; else the
package is in recovery mode (R436). -/
def Sys.readRecord (y : Sys) : Sys :=
  let r := y.record
  if r.signed && decide (y.recCtr ≤ r.svn) then
    { y with recovery := false, impl := r.impl % 256, stepping := r.stepping % 256, defBudget := r.budget
             budget := r.budget, nextBudget := r.budget, coreMap := r.coreMap, imageKey := r.imageKey }
  else { y with recovery := true }

/-- Everything is reset, DRAM contents included; the flash and what lies outside stay, and the configuration record is
read again (R439). -/
def resetCold : List Phase :=
  [fun s =>
    [.forget, .sys (Sys.cold (coldTime s)), .caches fun _ => {}, .clear fun k => decide (k < 2 ^ 61)]
      ++ [.poison fun _ => [], .fresh 1]
      ++ (List.range 4).map fun d => .die d fun _ => { fw := (s.die d).fw.boot (coldTime s), kickAt := coldTime s },
   fun _ => [.sys Sys.readRecord]]

/-- POWER_ON (R436, R439): the operand is the record that the flash holds. -/
def execPowerOn (r : ConfigRecord) (s : State) : Host.Outcome State Fault Refusal :=
  .next (run ((fun _ => [.sys fun y => { y with record := r }]) :: resetCold) s)

end Sys2Proof.Machine
end

