-- ==== Sys2Proof/Machine/Maintain.lean ====
section
/-! DEFINITION. Page migration, pseudo-channels and their retirement, patrol scrub, fabric ports and soft errors
(R376 to R379, R396, R407, R419 to R422). -/

namespace Sys2Proof.Machine

/-! ### Pages that migrate -/

/-- A leaf that may be moved: where its entry stands, the frame and its length. -/
structure Movable where
  leafAt : Nat
  old    : Nat
  size   : Nat
  deriving DecidableEq, Repr

/-- The bytes that a leaf of a level maps (R174). -/
def sizeOfLevel (level : Nat) : Nat := if level = 2 then 2 ^ 36 else if level = 3 then 2 ^ 26 else 2 ^ 16

/-- A leaf's frame. -/
def Leaf.movable (l : Leaf) : Movable :=
  let size := sizeOfLevel l.level
  { leafAt := l.leafAt, old := l.frame / size * size, size }

/-- The leaf through which a context's virtual page lies in device memory: the last stage's, which is the second
for a virtual function (R371, R404). -/
def leafOf (s : State) (ctx va : Nat) : Option Movable :=
  match walkTables s (secondStage s ctx { va }) { va } va levels (s.ctx ctx).xroot {} with
  | .error _ => none
  | .ok l =>
    if l.flags / 16 % 4 ≠ 0 then none
    else if (s.ctx ctx).fn = 0 then some l.movable
    else
      match walkTables s direct { va } l.frame levels (s.ctx ctx).root2 {} with
      | .error _ => none
      | .ok m => some m.movable

/-- Two ranges of one length meet. -/
def meets (a b size : Nat) : Bool := decide (a < b + size) && decide (b < a + size)

/-- A page is pinned: it contains a row that is held or being closed (R245). -/
def pinned (s : State) (old size : Nat) : Bool :=
  let mine := fun pa => decide (old ≤ pa) && decide (pa < old + size)
  (heldRows s).any (fun e => mine e.2.2.pa) || s.sys.closing.any (fun e => mine e.1)
    || s.ctxs.any fun c => c.2.rows.any fun r => r.2.state == .held && mine r.2.pa

/-- The devices whose ownership-table entries map a page (R376). -/
def sharers (s : State) (old size : Nat) : Nat :=
  (distinct ((s.sys.owners.filter fun o => decide (o.2.1 < old + size) && decide (old ≤ o.2.2)).map Prod.fst)).length

/-- A frame can take a page of an atoll: aligned, the atoll's in every row line and on no pseudo-channel that is being
retired (R422), with nothing in it, and no part of a move under way. -/
def takesPage (s : State) (atoll new old size : Nat) : Bool :=
  new % size == 0 && decide (new + size ≤ harbourBase) && !meets new old size
    && (List.range (size / 1024)).all (fun i =>
        ownedBy s atoll (new + 1024 * i) && look .serving s.sys.channels (channelAt s (new + 1024 * i)) == .serving)
    && !(s.mem.any fun e => decide (new ≤ e.1) && decide (e.1 < new + size))
    && !(s.sys.migrations.any fun e => e.2.live
          && (meets new e.2.old (max size e.2.size) || meets new e.2.new (max size e.2.size)))

/-- The frame of a page takes part in a move under way. -/
def inMove (s : State) (old size : Nat) : Bool :=
  s.sys.migrations.any fun e => e.2.live && (meets old e.2.old (max size e.2.size) || meets old e.2.new (max size e.2.size))

/-- The migration of a page. -/
def State.migration (s : State) (page : Nat) : Migration := look {} s.sys.migrations page

/-- Changes the migration of a page. -/
def updMigration (page : Nat) (f : Migration → Migration) : Micro :=
  .sys fun y => { y with migrations := put {} y.migrations page (f (look {} y.migrations page)) }

/-- Copies 256-byte lines, by their numbers in the old frame, to the new one; poison moves with them (R376). -/
def copyLines (s : State) (m : Migration) (lines : List Nat) : List Micro :=
  let moved := fun k => m.new + (k - m.old)
  let units := lines.flatMap fun l => (List.range 8).map fun i => l * 256 + 32 * i
  [.bytes (lines.flatMap fun l => (List.range 256).map fun i => (moved (l * 256 + i), s.byte (l * 256 + i))),
   .poison fun p => (units.filter fun u => s.poison.contains u).foldl (fun p u => insertOnce (moved u) p)
     (p.filter fun x => !(units.map moved).contains x),
   .caches fun c => { c with versions :=
     (distinct (lines.map fun l => moved (l * 256) / 65536)).foldl (fun v k => put 0 v k (look 0 v k + 1)) c.versions }]

/-- Every line of a page. -/
def Migration.all (m : Migration) : List Nat := (List.range (m.size / 256)).map (m.old / 256 + ·)

/-- The write-version counters of a page (R377). -/
def versionOf (s : State) (m : Migration) : Nat :=
  (List.range (m.size / 65536)).foldl (fun v i => v + look 0 s.ca.versions (m.old / 65536 + i)) 0

/-- A move begins: every line is copied. -/
def beginMove (s : State) (page : Nat) (x : Movable) (new : Nat) (cmd : Option Nat) (optimistic : Bool) : List Micro :=
  let m : Migration := { live := true, ctx := page / 2 ^ 40, va := page % 2 ^ 40 * 65536, old := x.old, new, size := x.size
                         leafAt := x.leafAt, cmd, optimistic }
  let m := { m with version := versionOf s m }
  updMigration page (fun _ => m) :: copyLines s m m.all

/-- A new frame that the engine takes from the free list: which one is open. -/
def freshFrame (s : State) (size : Nat) : Nat := (Config.freeValue s.fresh).toNat % harbourBase / size * size

/-- The engine chooses a page and a frame in hardware mode (R401). -/
def chooseMove (s : State) (page : Nat) (optimistic : Bool) : Option (Movable × Nat) :=
  let n := page / 2 ^ 40
  let c := s.ctx n
  if !c.live || hostAssisted s c.atoll 1 then none
  else
    match leafOf s n (page % 2 ^ 40 * 65536) with
    | none => none
    | some x =>
      let new := freshFrame s x.size
      if !pinned s x.old x.size && !inMove s x.old x.size && takesPage s c.atoll new x.old x.size
          && optimistic == decide (64 < sharers s x.old x.size) then some (x, new) else none

/-- The leaf entry that names the new frame. -/
def Migration.entry (m : Migration) (e : Nat) : Nat := e % 2 ^ 16 + m.new

/-- The leaf still maps the old frame. -/
def leafStands (s : State) (m : Migration) : Bool :=
  let e := readNat s (forward s .dev m.leafAt) 8
  e % 4 == 3 && e / 2 ^ 16 % 2 ^ 36 * 2 ^ 16 == m.old

/-- The new leaf is written; from now on accesses to the old frame are forwarded. A `MIGRATE` is answered
(R376, R404). -/
def writeLeaf (s : State) (page : Nat) (m : Migration) : List Micro :=
  let at_ := forward s .dev m.leafAt
  storeAt s .dev 64 at_ 8 (allBits 8) (m.entry (readNat s at_ 8))
    ++ [updMigration page fun m => { m with held := false, written := true, dirty := [], until_ := gwctOf s .dev at_ }]
    ++ (match m.cmd with | some tag => [reply 0x21 tag 0] | none => [])

/-- A move is abandoned; its new frame is free again. -/
def dropMove (page : Nat) (m : Migration) : List Micro :=
  updMigration page (fun _ => {}) :: (match m.cmd with | some tag => [reply 0x21 tag (-5)] | none => [])

/-- The next phase of a move in rounds (R376). -/
def nextPhase (s : State) (page : Nat) (m : Migration) : List Micro :=
  if m.held then
    if leafStands s m then
      copyLines s m m.dirty ++ writeLeaf s page m
    else dropMove page m
  else if 64 ≤ m.dirty.length ∧ m.rounds < 8 then
    copyLines s m m.dirty ++ [updMigration page fun m => { m with dirty := [], rounds := m.rounds + 1 }]
  else if pinned s m.old m.size then []
  else [updMigration page fun m => { m with held := true }]

/-- PAGE_MIGRATION (R245, R376): the engine begins the move of a page, or takes its next phase. The page is
named by 2^40 × context + virtual address / 64 KiB. -/
def execPageMigration (page : Nat) (s : State) : Host.Outcome State Fault Refusal :=
  .next <|
    let m := s.migration page
    if m.live then (if m.optimistic || m.written then s else run [fun s => nextPhase s page m] s)
    else
      match chooseMove s page false with
      | some (x, new) => run [fun s => beginMove s page x new none false, fun _ => [.fresh 1]] s
      | none => s

/-- OLD_FRAME_FREE (R376): at the leaf's GWCT forwarding ends. -/
def execOldFrameFree (page : Nat) (s : State) : Host.Outcome State Fault Refusal :=
  .next <|
    let m := s.migration page
    if m.live && m.written && decide (m.until_ ≤ s.sys.dt) then run [fun _ => [updMigration page fun _ => {}]] s else s

/-- OPTIMISTIC_MIGRATION (R377): a page with more than 64 sharers is copied, and then its leaf is written if
nothing has been written to the page meanwhile; else the move is abandoned. -/
def execOptimisticMigration (page : Nat) (s : State) : Host.Outcome State Fault Refusal :=
  .next <|
    let m := s.migration page
    if m.live then
      if !m.optimistic || m.written || pinned s m.old m.size then s
      else run [fun s => if versionOf s m = m.version ∧ leafStands s m then writeLeaf s page m else dropMove page m] s
    else
      match chooseMove s page true with
      | some (x, new) => run [fun s => beginMove s page x new none true, fun _ => [.fresh 1]] s
      | none => s

/-! ### Pseudo-channels and stacks (R378, R421, R422) -/

/-- The state of a pseudo-channel changes. -/
def setChannel (n : Nat) (c : Channel) : Micro := .sys fun y => { y with channels := put .serving y.channels n c }

/-- RETIREMENT_REQUEST (R378, R422): opens and renewals are refused from now on, and PAGE_MIGRATION moves the channel's
pages, whose frames take no page any more. -/
def execRetirementRequest (n : Nat) (s : State) : Host.Outcome State Fault Refusal :=
  .next (if n < 1536 ∧ look .serving s.sys.channels n = .serving then run [fun _ => [setChannel n .draining]] s else s)

/-- A row of a pseudo-channel is held or being closed. -/
def rowsOnChannel (s : State) (n : Nat) : Bool :=
  s.sys.closing.any (fun e => channelAt s e.1 == n)
    || s.ctxs.any fun c => c.2.rows.any fun r => r.2.state == .held && channelAt s r.2.pa == n

/-- A page with a line on a pseudo-channel is being moved. -/
def movingOnChannel (s : State) (n : Nat) : Bool :=
  s.sys.migrations.any fun e => e.2.live && (List.range (e.2.size / 1024)).any fun i => channelAt s (e.2.old + 1024 * i) == n

/-- The frames that tables map as device memory: physical address and length (R173, R174). -/
def mappedFrames (s : State) : List (Nat × Nat) → Nat → List (Nat × Nat)
  | [], _ => []
  | (level, _) :: rest, base =>
    (List.range 1024).flatMap fun i =>
      let e := readNat s (base + 8 * i) 8
      if e % 2 = 0 then []
      else if has e 1 then (if e / 16 % 4 = 0 then [(e / 2 ^ 16 % 2 ^ 36 * 2 ^ 16, sizeOfLevel level)] else [])
      else mappedFrames s rest (e / 2 ^ 13 * 2 ^ 13)

/-- A page of a context still has a line on a pseudo-channel: through its own tables, or through its function's. -/
def pageOnChannel (s : State) (n : Nat) : Bool :=
  s.ctxs.any fun c => c.2.live
    && (mappedFrames s levels (if c.2.fn = 0 then c.2.xroot else c.2.root2)).any fun f =>
        (List.range (f.2 / 1024)).any fun i => channelAt s (f.1 + 1024 * i) == n

/-- CHANNEL_MOVE (R378, R422): the holds have ended and every page has moved; the map generation rises. -/
def execChannelMove (n : Nat) (s : State) : Host.Outcome State Fault Refusal :=
  .next <|
    if look .serving s.sys.channels n = .draining ∧ !rowsOnChannel s n ∧ !movingOnChannel s n ∧ !pageOnChannel s n then
      run [fun _ => [setChannel n .moving, .sys fun y => { y with mapGen := (y.mapGen + 1) % 256 }]] s
    else s

/-- CHANNEL_RETIRED (R422): no address maps to the channel; its data has moved with the map. -/
def execChannelRetired (n : Nat) (s : State) : Host.Outcome State Fault Refusal :=
  .next (if look .serving s.sys.channels n = .moving then run [fun _ => [setChannel n .retired]] s else s)

/-- An access to a stack is on its way. -/
def stackBusy (s : State) (stack : Nat) : Bool :=
  s.fl.reqs.any fun r => r.2.live && !r.2.done && r.2.space == .dev && channelAt s r.2.key / 128 == stack

/-- SELF_REFRESH_ENTRY (R241, R422): an idle stack begins to enter self-refresh; taken again, it leaves. -/
def execSelfRefreshEntry (stack : Nat) (s : State) : Host.Outcome State Fault Refusal :=
  .next <|
    if s.sys.selfRef.contains stack then run [fun _ => [.sys fun y => { y with selfRef := y.selfRef.filter (· != stack) }]] s
    else if stack < 12 ∧ !stackBusy s stack then run [fun _ => [.sys fun y => { y with selfRef := stack :: y.selfRef }]] s
    else s

/-- The Harbour of a die counts a corrected error (R407, R438). -/
def corrected (die : Nat) : Micro := .die die fun d => { d with corrected := d.corrected + 1 }

/-- PATROL_SCRUB (R379, R420, R421): scrub corrects an error in the row that holds an address, or poisons its
unit. A held row is never scrubbed. -/
def execPatrolScrub (pa : Nat) (lost : Bool) (s : State) : Host.Outcome State Fault Refusal :=
  .next <|
    let pa := pa % 2 ^ 52
    if atRowBuffer s pa then s
    else run [fun _ => [if lost then spoil .dev pa else corrected (dieOfKey .dev pa)]] s

/-! ### Fabric ports (R396) -/

/-- FABRIC_PORT_FAILURE (R396): packets not yet acknowledged go by another port in their order; with none left,
PEER accesses of the atoll fault. -/
def execFabricPortFailure (port : Nat) (s : State) : Host.Outcome State Fault Refusal :=
  .next (if port < 24 then run [fun _ => [.sys fun y => { y with ports := insertOnce port y.ports }]] s else s)

/-! ### Soft errors (R379, R387, R407) -/

/-- The space of a key of device memory or the Lagoon. -/
def spaceOfKey (key : Nat) : Space := if 2 ^ 60 ≤ key then .lagoon else .dev

/-- The context whose tagged request or register met an error, with its launch, and the die. -/
def errorOwner (s : State) : ErrorAt → (Nat × Nat) × Nat
  | .l1 core ctx _ => ((ctx, 0), dieOf core)
  | .unit key =>
    let mine := fun (r : Nat × Req) =>
      r.2.live && decide (r.2.key ≤ key) && decide (key < r.2.key + r.2.size)
    ((match s.fl.reqs.find? mine with | some r => (r.2.ctx, r.2.launch) | none => (64, 0)), dieOfKey (spaceOfKey key) key)
  | .register thr _ => (((s.thread thr).ctx, (s.thread thr).launch), (s.thread thr).die)
  | .checkpoint core =>
    ((match (s.core core).ckpt with | some k => ((s.thread k).ctx, (s.thread k).launch) | none => (64, 0)), dieOf core)
  | .reef core _ _ => ((match (s.core core).owner with | some o => o | none => (64, 0)), dieOf core)
  | .mailbox ctx => ((ctx, 0), dieOfCluster (s.ctx ctx).home)

/-- SOFT_ERROR_CORRECTED (R379, R387, R407). -/
def execSoftErrorCorrected (e : ErrorAt) (s : State) : Host.Outcome State Fault Refusal :=
  .next (run [fun s =>
    let o := errorOwner s e
    count s o.1.1 0x10 1 o.1.2 ++ [corrected o.2]] s)

/-- The keys of a register in a thread's list of lost registers: a vector register in every lane, or from 1,024 on
a scalar register. -/
def lostKeys (t : Thread) (reg : Nat) : List Nat :=
  if 1024 ≤ reg then [65536 + (reg - 1024) % 64] else (List.range t.width).map (64 * reg + ·)

/-- UNCORRECTABLE_ERROR (R183, R379): the table gives a mailbox no outcome. -/
def execUncorrectableError (e : ErrorAt) (s : State) : Host.Outcome State Fault Refusal :=
  .next (run [fun s =>
    match e with
    | .l1 core ctx va => [dropLine core ctx (va % 2 ^ 56)]
    | .unit key => if key < 2 ^ 61 then [spoil (spaceOfKey key) key] else []
    | .register thr reg =>
      [.thread thr fun t => if t.live then { t with lost := (lostKeys t reg).foldl (fun l k => insertOnce k l) t.lost } else t]
    | .checkpoint core =>
      match (s.core core).ckpt with
      | some k => [.thread k fun t => { t with episode := t.episode.map fun (x : Episode) => { x with lost := true } }]
      | none => []
    | .reef core slot element =>
      [.core core fun c =>
        let x := look {} c.slots slot
        { c with slots := put {} c.slots slot { x with bad := insertOnce element x.bad } }]
    | .mailbox _ => []] s)

end Sys2Proof.Machine
end

