-- ==== Sys2Proof/Machine/Commands.lean ====
section
/-! DEFINITION. The commands of the PF's command ring and the answers to device requests (R401, R403 to R406,
R439, R440). -/

namespace Sys2Proof.Machine

/-! ### Command entries (R403, R404, R406) -/

/-- A command entry: its words. -/
abbrev Cmd := List W64

/-- Word `i` of an entry. -/
def Cmd.word (c : Cmd) (i : Nat) : W64 := c.getD i 0
def Cmd.op (c : Cmd) : Nat := field (c.word 0) 7 0
def Cmd.tag (c : Cmd) : Nat := field (c.word 0) 31 16

/-- A context or atoll that a command names. -/
inductive Named
  | ctx (n : Nat)
  | atoll (a : Nat)
  deriving DecidableEq, Repr

/-- What a command names (R404). -/
def Cmd.names (c : Cmd) : List Named :=
  let w := c.word 1
  match c.op with
  | 0x01 => [.atoll (field w 2 0)]
  | 0x02 => [.atoll w.toNat]
  | 0x10 | 0x13 => [.atoll (field w 18 16)]
  | 0x11 | 0x12 | 0x14 | 0x15 | 0x16 | 0x17 | 0x21 => [.ctx w.toNat]
  | 0x18 => if field w 2 0 = 4 then [.atoll (field w 10 8)] else []
  | 0x23 => [.atoll (field w 2 0), .ctx (field w 13 8)]
  | _ => []

/-- All bits of a word. -/
def wholeWord : Nat := 2 ^ 64 - 1

/-- The bits of words 1 to 7 that a command assigns; no list for an unknown OP (R404). -/
def assigned : Nat → Option (List Nat)
  | 0x01 => some [7, 2 ^ 48 - 1, wholeWord, 2 ^ 48 - 1, 2 ^ 24 - 1, 0xFF07FF]
  | 0x02 | 0x11 | 0x14 => some [wholeWord]
  | 0x10 => some [0x3F070F3F, wholeWord, wholeWord, 0x000FFFFFFFFFE000, 0x000FFFFFFFFFE000, 0x000FFFFFFFFF8000, 0x00FFFFFFFFFFF00F]
  | 0x13 => some [0x3F070F3F, wholeWord, 0, 0x000FFFFFFFFFE000, 0x000FFFFFFFFFE000, 0x000FFFFFFFFF8000, 0x00FFFFFFFFFFF00F]
  | 0x12 | 0x16 => some [wholeWord, wholeWord]
  | 0x15 => some [wholeWord, wholeWord, wholeWord]
  | 0x17 => some [wholeWord, 0x7FFF]
  | 0x18 => some [0x707]
  | 0x20 => some [0xFFFF, wholeWord, wholeWord, wholeWord, wholeWord, wholeWord, wholeWord]
  | 0x21 => some [wholeWord, wholeWord, 0x000FFFFFFFFF0000]
  | 0x22 => some [0xFFFF]
  | 0x23 => some [0x3F07, 0xF7F0F0F3F]
  | _ => none

/-- A command with a known OP and no nonzero reserved bit. -/
def Cmd.wellFormed (c : Cmd) : Bool :=
  match assigned c.op with
  | none => false
  | some ms =>
    without (c.word 0).toNat 0xFFFF00FF == 0
      && (List.range 7).all fun i => without (c.word (i + 1)).toNat (ms.getD i 0) == 0

/-- The oldest command that has not been taken. -/
def Sys.nextCmd (y : Sys) : Option Cmd :=
  if y.svcci = y.svcpi then none
  else some ((List.range 8).map fun i => look 0 y.cmds (8 * (y.svcci % 64) + i))

/-- The oldest command is taken. -/
def takeCmd : Micro := .sys fun y => { y with svcci := (y.svcci + 1) % 2 ^ 32 }

/-- A command that has been taken and not answered concerns what is named: a pre-emption or a move under
way. -/
def Named.busy (s : State) : Named → Bool
  | .ctx n => (s.ctx n).saveCmd.isSome
      || s.sys.migrations.any fun e => e.2.live && !e.2.written && e.2.cmd.isSome && e.2.ctx == n
  | .atoll _ => false

/-- A command must wait behind earlier ones (R406). -/
def Cmd.blocked (s : State) (earlier : List Cmd) (c : Cmd) : Bool :=
  c.names.any fun x => x.busy s || earlier.any fun e => e.names.contains x

/-- What a command does: the state that it leaves, or none while it must wait. -/
abbrev Action := Cmd → State → Option State

/-- The first deferred command that can be performed, with what it leaves. -/
def tryDeferred (s : State) (mine : Cmd → Bool) (act : Action) : List Cmd → List Cmd → Option State
  | _, [] => none
  | earlier, c :: cs =>
    let rest := tryDeferred s mine act (earlier ++ [c]) cs
    if mine c && !c.blocked s earlier then
      match act c (run [fun _ => [.sys fun y => { y with deferred := earlier ++ cs }]] s) with
      | some s' => some s'
      | none => rest
    else rest

/-- Commands are taken: the package is not in recovery, and die 0 in no handover (R406, R436). -/
def taking (s : State) : Bool := !s.sys.recovery && !(s.die 0).handover

/-- Serves one command of a kind: one that has waited, or the oldest on the ring, which waits where it must
(R406). -/
def serveCommand (mine : Cmd → Bool) (act : Action) (s : State) : State :=
  if !taking s then s
  else
    match tryDeferred s mine act [] s.sys.deferred with
    | some s' => s'
    | none =>
      match s.sys.nextCmd with
      | none => s
      | some c =>
        if mine c && c.wellFormed then
          let s := run [fun _ => [takeCmd]] s
          let later := run [fun _ => [.sys fun y => { y with deferred := y.deferred ++ [c] }]] s
          if c.blocked s s.sys.deferred then later
          else match act c s with
            | some s' => s'
            | none => later
        else s

/-- Serves a command of an OP. -/
def serveOp (op : Nat) (act : Action) (s : State) : Host.Outcome State Fault Refusal :=
  .next (serveCommand (fun c => c.op == op) act s)

/-- A command is answered after its phases. -/
def done (c : Cmd) (ps : List Phase) (s : State) (status : Int := 0) (results : List W64 := []) : Option State :=
  some (run (andThen ps fun _ => [reply c.op c.tag status results]) s)

/-- A command is refused with a code. -/
def refuse (c : Cmd) (status : Int) (s : State) : Option State := done c [] s status

/-- UNKNOWN_OP (R403): an entry with an unknown OP or a nonzero reserved bit is answered BADOP. -/
def execUnknownOp (s : State) : Host.Outcome State Fault Refusal :=
  .next <|
    match s.sys.nextCmd with
    | some c => if taking s && !c.wellFormed then run [fun _ => [takeCmd, reply c.op c.tag (-1)]] s else s
    | none => s

/-! ### Atolls -/

/-- A mask names a resource that another atoll owns. -/
def ownedElsewhere (s : State) (get : Atoll → Nat) (mask : Nat) : Bool :=
  s.atolls.any fun a => a.2.live && (get a.2 &&& mask) != 0

/-- ATOLL_CREATE (R404). -/
def createAtoll : Action := fun c s =>
  let a := field (c.word 1) 2 0
  let w := fun i => (c.word i).toNat
  let period := field (c.word 6) 10 0
  let slew := field (c.word 6) 23 16
  if (s.atoll a).live then refuse c (-5) s
  else if ownedElsewhere s Atoll.clusters (w 2) || ownedElsewhere s Atoll.slices (w 3) || ownedElsewhere s Atoll.groups (w 4)
      || ownedElsewhere s Atoll.ports (w 5) then refuse c (-3) s
  else if w 2 = 0 ∨ period < 16 ∨ 1024 < period ∨ slew = 0 then refuse c (-2) s
  else
    done c
      [fun s => [.atoll a fun _ =>
        { live := true, clusters := w 2, slices := w 3, groups := w 4, ports := w 5, apch := channelsLeft s (w 4)
          period, slew, slewFrom := s.sys.dt }],
       fun s => [.atoll a fun x => { x with atokens := atokensOf s a }]] s

def execAtollCreate : State → Host.Outcome State Fault Refusal := serveOp 0x01 createAtoll

/-- ATOLL_DESTROY (R404). -/
def destroyAtoll : Action := fun c s =>
  let a := (c.word 1).toNat
  if !(s.atoll a).live then refuse c (-4) s
  else if !(ctxsOf s a).isEmpty then refuse c (-5) s
  else done c [fun _ => [.atoll a fun _ => {}]] s

def execAtollDestroy : State → Host.Outcome State Fault Refusal := serveOp 0x02 destroyAtoll

/-! ### Contexts -/

/-- Where a command places a context (R404): function, slot, atoll, home cluster. -/
structure Binding where
  fn    : Nat
  slot  : Nat
  atoll : Nat
  home  : Nat
  deriving DecidableEq, Repr

def Cmd.binding (c : Cmd) : Binding :=
  let w := c.word 1
  { fn := field w 5 0, slot := field w 11 8, atoll := field w 18 16, home := field w 29 24 }

/-- A context has a steward, on its SCC or in the image that was made of it. -/
def holdsSteward (s : State) (n : Nat) : Bool :=
  let c := s.ctx n
  c.steward.isSome || (c.save == .saved && imageWord s c.saveTo (0x180 + 8 * 78) != 0)

/-- The stewards that one SCC holds for the life of their contexts, those of contexts that the rotation has saved among
them (R13); a context that a command has saved is bound anew at its restore. `m` is one that is not counted. -/
def stewardsAt (s : State) (cl : Nat) (m : Option Nat) : Nat :=
  ((keysOf s.ctxs).filter fun n =>
    let c := s.ctx n
    c.live && c.home == cl && some n != m && (c.save == .restoring || (holdsSteward s n && (!c.gone || c.steward.isSome)))).length

/-- The checks that CTX_CREATE and CTX_RESTORE share: STATE, then NORESOURCE. `m` is a saved context whose number
and slot the restore takes over. -/
def Binding.check (s : State) (b : Binding) (m : Option Nat) : Option Int :=
  let others := (s.ctxs.filter fun c => c.2.live && some c.1 != m)
  if !(s.atoll b.atoll).live || !has (s.atoll b.atoll).clusters b.home || !has (look 0 s.sys.fncfg b.fn).toNat 0 then some (-5)
  else if 64 ≤ others.length ∨ (others.any fun c => c.2.fn == b.fn && c.2.fslot == b.slot) ∨ 7 ≤ stewardsAt s b.home m then some (-3)
  else none

/-- The operands that both take are in range; the PF has no second stage. -/
def Cmd.rangeOk (c : Cmd) : Bool :=
  let b := c.binding
  decide (b.home < 48) && (b.fn != 0 || c.word 5 == 0)

/-- The lowest number that is free, or becomes free. -/
def freeNumber (s : State) (m : Option Nat) : Nat :=
  ((List.range 64).find? fun n => !(s.ctx n).live || some n == m).getD 0

/-- What caches hold for a number is not its next context's: its TLB entries and L1 sectors go, and Lagoon bytes
that its last context wrote count as another's (R344). -/
def forgetNumber (n : Nat) : Micro :=
  .caches fun c =>
    { c with
      tlb := c.tlb.filter fun e => e.ctx != n
      l1 := dropKeys (fun k => k / 2 ^ 50 % 64 == n) c.l1
      l1data := dropKeys (fun k => k / 2 ^ 56 % 64 == n) c.l1data
      writer := c.writer.map fun e => if e.2 == n + 1 then (e.1, 65) else e }

/-- A context is bound and has the tables that a command names; an atoll with eight active contexts has it
wait. -/
def Ctx.bind (s : State) (cmd : Cmd) (c : Ctx) : Ctx :=
  let b := cmd.binding
  { (c.setFring (cmd.word 7)) with
    live := true, fn := b.fn, fslot := b.slot, atoll := b.atoll, home := b.home
    xroot := field (cmd.word 4) 51 13 * 2 ^ 13, root2 := (cmd.word 5).toNat, peers := (cmd.word 6).toNat
    deadline := (s.die 0).adlDeadline b.atoll
    active := decide (activeCount s b.atoll < 8), activeFrom := s.sys.dt, waitFrom := s.sys.dt }

/-- A steward starts in a slot of its home cluster (R336). -/
def startSteward (n slot : Nat) (entry : Addr) (arg : W64) : Phase := fun s =>
  let home := (s.ctx n).home
  [.thread (sccKey home slot) fun _ => scalarThread .scc .steward n home slot entry [arg] (seedOf 0 0),
   occupy s home, .ctx n fun c => { c with steward := some (sccKey home slot) }]

/-- Settles the steward of a context. -/
def settleSteward (n : Nat) (s : State) : State :=
  match (s.ctx n).steward with
  | some k => settle k s
  | none => s

/-- CTX_CREATE (R404): it waits while handlers hold what steward slots are left. -/
def createCtx : Action := fun c s =>
  let b := c.binding
  if !c.rangeOk || 2 ^ 56 ≤ (c.word 2).toNat then refuse c (-2) s
  else
    match b.check s none with
    | some code => refuse c code s
    | none =>
      match stewardSlot s b.home with
      | none => none
      | some slot =>
        let n := freeNumber s none
        let s := run [fun s =>
          [forgetNumber n, .ctx n fun _ =>
            let x := ({} : Ctx).bind s c
            { x with tide := { x.tide with period := periodStart s b.atoll } }],
          startSteward n slot ((c.word 2).setWidth 56) (c.word 3)] s
        done c [] (settleSteward n s) 0 [num n]

def execCtxCreate : State → Host.Outcome State Fault Refusal := serveOp 0x10 createCtx

/-- The context that a command names. -/
def Cmd.ctx (c : Cmd) : Nat := (c.word 1).toNat

/-- A command on a context that must exist. -/
def onCtx (act : Nat → Action) : Action := fun c s =>
  if c.ctx < 64 ∧ (s.ctx c.ctx).live then act c.ctx c s else refuse c (-4) s

/-- A context has a steward, on its SCC or in the image of its slice. -/
def hasSteward (s : State) (n : Nat) : Bool := (s.ctx n).steward.isSome || (holdsSteward s n && !(s.ctx n).gone)

/-- CTX_DESTROY (R404). -/
def destroyCtx : Nat → Action := fun n c s =>
  let x := s.ctx n
  if hasSteward s n || (!x.gone && !x.openLaunches.isEmpty) then refuse c (-5) s
  else done c (forceReset n none ++ [fun _ => [.ctx n fun _ => {}]]) s

def execCtxDestroy : State → Host.Outcome State Fault Refusal := serveOp 0x11 (onCtx destroyCtx)

/-- A 4 KiB-aligned address of device memory. -/
def imageAddress (v : W64) : Bool := v.toNat % 4096 == 0 && decide (v.toNat < 2 ^ 52)

/-- An image is written and sealed at another address. -/
def copyImage (n base dest : Nat) : List Phase :=
  [fun s => storeWords s n dest ((List.range 0x1300).map fun i => (8 * i, if i = 2 then 0 else imageWord s base (8 * i))),
   fun s => storeWords s n dest [(16, imageWord s base 16)]]

/-- CTX_PREEMPT (R347, R348, R404): the reply comes with the end of the save. One that the rotation has begun or
made is taken over. -/
def preemptCtx : Nat → Action := fun n c s =>
  let x := s.ctx n
  let dest := (c.word 2).toNat
  let addr := if dest ≠ 0 then dest else if hostAssisted s x.atoll 4 then 0 else x.image
  if !imageAddress (c.word 2) then refuse c (-2) s
  else if x.gone then refuse c (-5) s
  else
    match x.save with
    | .none =>
      if addr = 0 ∧ !hostAssisted s x.atoll 4 then refuse c (-5) s
      else some (run [fun _ => [.ctx n fun x => { x with save := .chosen, saveTo := addr, saveCmd := some c.tag }]] s)
    | .chosen | .asked _ | .writing _ =>
      some (run [fun _ => [.ctx n fun x => { x with saveTo := if dest = 0 then x.saveTo else dest, saveCmd := some c.tag }]] s)
    | .saved =>
      let moves : List Phase := if dest = 0 ∨ dest = x.saveTo then [] else copyImage n x.saveTo dest
      if !isSealed s x.saveTo then refuse c (-8) s
      else
        done c (andThen moves fun _ => [.ctx n fun x => { x with gone := true, saveTo := if dest = 0 then x.saveTo else dest }]) s 0
          [imageWord s x.saveTo 8]
    | .restoring => none

def execCtxPreempt : State → Host.Outcome State Fault Refusal := serveOp 0x12 (onCtx preemptCtx)

/-- The context of this device that was saved to an image by CTX_PREEMPT. -/
def savedTo (s : State) (base : Nat) : Option Nat :=
  (s.ctxs.find? fun c => c.2.live && c.2.gone && c.2.save == .saved && c.2.saveTo == base).map Prod.fst

/-- A context that is to be restored takes its number and its tables (R404). One saved on this device keeps its rings,
what the Harbour holds for it, and a steward that system software has started since; `gone` says that it is one. -/
def bindRestored (c : Cmd) (base n : Nat) (m : Option Nat) (s : State) : State :=
  let old := match m with | some m => s.ctx m | none => {}
  let drop := match m with | some m => [Micro.ctx m fun _ => {}] | none => []
  run [fun s =>
    drop ++ [forgetNumber n, .ctx n fun _ =>
      { (({ old with launches := [], rows := [], frwait := [] } : Ctx).bind s c) with
        image := old.image, saveTo := base, save := .restoring, gone := m.isSome, active := false, saveCmd := some c.tag
        cntTo := 0 }]
      ++ (match old.steward with
          | some k => [.thread k fun t => { t with ctx := n }]
          | none => [])] s

/-- The restore that a context awaits is made, with its steward in a slot, and the command answered (R351, R404). -/
def finishRestore (n slot : Nat) (s : State) : State :=
  let x := s.ctx n
  let seat := decide (activeCount s x.atoll < 8)
  let s := restoreWith n slot (!x.gone) s
  run [fun s =>
    [.ctx n fun x => { x with active := seat, waitFrom := s.sys.dt, saveCmd := none },
     reply 0x13 (x.saveCmd.getD 0) 0
       [num n, num ((if (s.ctx n).reopenFail then 1 else 0) + (if has (s.ctx n).tide.flags 7 then 2 else 0))]]] s

/-- The slot for a context to be restored on a cluster: none while handlers hold what steward slots are left. -/
def slotToRestore (s : State) (n : Nat) : Option Nat :=
  match (s.ctx n).steward with
  | some k => if (s.thread k).core = (s.ctx n).home then some (s.thread k).slot else stewardSlot s (s.ctx n).home
  | none => stewardSlot s (s.ctx n).home

/-- A context whose restore has waited, for a slot or for its counters, and can be made now. -/
def restorable (s : State) : Option (Nat × Nat) :=
  (keysOf s.ctxs).findSome? fun n =>
    if (s.ctx n).live && (s.ctx n).save == .restoring && counterWay s n .read then (slotToRestore s n).map fun slot => (n, slot)
    else none

/-- A restore that has waited is made. -/
def resumeRestore (s : State) : State :=
  match restorable s with
  | some (n, slot) => finishRestore n slot s
  | none => s

/-- The atoll of a context that was saved on this device, which it keeps (R10, R350). -/
def atollOfImage (s : State) (base : Nat) : Option Nat :=
  if (imageWord s base 24).toNat = Config.deviceNumber % 2 ^ 64 then some (field (imageWord s base 0) 63 56) else none

/-- CTX_RESTORE (R351, R404). -/
def restoreCtx : Action := fun c s =>
  let b := c.binding
  let base := (c.word 2).toNat
  let m := savedTo s base
  if !c.rangeOk || !imageAddress (c.word 2) then refuse c (-2) s
  else if !has (imageWord s base 16).toNat 0 then refuse c (-8) s
  else if atollOfImage s base ≠ none ∧ atollOfImage s base ≠ some b.atoll then refuse c (-2) s
  else
    match b.check s m with
    | some code => refuse c code s
    | none =>
      let n := freeNumber s m
      if hostAssisted s b.atoll 5 then some (run [askCounters n] (bindRestored c base n m s))
      else
        let s := bindRestored c base n m s
        match slotToRestore s n with
        | none => none
        | some slot => some (finishRestore n slot s)

/-- CTX_RESTORE (R351, R404): a restore that has waited for its counters goes first. -/
def execCtxRestore (s : State) : Host.Outcome State Fault Refusal :=
  if (restorable s).isSome then .next (resumeRestore s) else serveOp 0x13 restoreCtx s

/-- CTX_RESET (R404). -/
def resetCtx : Nat → Action := fun n c s =>
  done c (forceReset n none ++ [fun _ => [.ctx n fun x => { x with gone := false }]]) s

def execCtxReset : State → Host.Outcome State Fault Refusal := serveOp 0x14 (onCtx resetCtx)

/-- STEWARD_START (R404). -/
def stewardStartCtx : Nat → Action := fun n c s =>
  let x := s.ctx n
  if holdsSteward s n then refuse c (-5) s
  else if 2 ^ 56 ≤ (c.word 2).toNat then refuse c (-2) s
  else if 7 ≤ stewardsAt s x.home none then refuse c (-3) s
  else
    match stewardSlot s x.home with
    | none => none
    | some slot =>
      done c [] (settleSteward n (run [startSteward n slot ((c.word 2).setWidth 56) (c.word 3)] s))

def execStewardStart : State → Host.Outcome State Fault Refusal := serveOp 0x15 (onCtx stewardStartCtx)

/-- CTX_IMAGE (R404). -/
def imageCtx : Nat → Action := fun n c s =>
  if imageAddress (c.word 2) then done c [fun _ => [.ctx n fun x => { x with image := (c.word 2).toNat }]] s
  else refuse c (-2) s

def execCtxImage : State → Host.Outcome State Fault Refusal := serveOp 0x16 (onCtx imageCtx)

/-! ### Kills and resets (R439) -/

/-- WARP_KILL (R404, R439): releases that the warp held back may be due. -/
def killCtx : Nat → Action := fun n c s =>
  let core := field (c.word 2) 9 0
  let k := warpKey core (field (c.word 2) 14 10)
  let t := s.thread k
  if 768 ≤ core then refuse c (-2) s
  else if !t.live || t.ctx != n then refuse c (-4) s
  else
    let s := run (killWarp k ++ [completeLaunches n]) s
    done c [fun s => match (s.wg t.wg).warps with
      | k :: _ => dueReleases k s
      | [] => []] s

def execWarpKill : State → Host.Outcome State Fault Refusal := serveOp 0x17 (onCtx killCtx)

/-- Serves a RESET command whose level satisfies a test. -/
def serveReset (p : Nat → Bool) (act : Action) (s : State) : Host.Outcome State Fault Refusal :=
  .next (serveCommand (fun c => c.op == 0x18 && p (field (c.word 1) 2 0)) act s)

/-- RESET_ATOLL (R404, R439); a level that is none is BADARG. -/
def execResetAtoll : State → Host.Outcome State Fault Refusal :=
  serveReset (fun l => decide (l < 5)) fun c s =>
    let a := field (c.word 1) 10 8
    if field (c.word 1) 2 0 ≠ 4 then refuse c (-2) s
    else if !(s.atoll a).live then refuse c (-4) s
    else done c [] (resetAtoll a s)

/-- RESET_DIE (R404, R439). -/
def execResetDie : State → Host.Outcome State Fault Refusal :=
  serveReset (fun l => l == 5) fun c s =>
    let d := field (c.word 1) 10 8
    if 4 ≤ d then refuse c (-2) s else done c [] (resetDie d s)

/-- RESET_PACKAGE_WARM (R404, R439): no reply. -/
def execResetPackageWarm : State → Host.Outcome State Fault Refusal :=
  serveReset (fun l => l == 6) fun _ s => some (run resetWarm s)

/-- RESET_PACKAGE_COLD (R404, R439): no reply. -/
def execResetPackageCold : State → Host.Outcome State Fault Refusal :=
  serveReset (fun l => l == 7) fun _ s => some (run resetCold s)

/-! ### Answers to device requests (R401, R405) -/

/-- A request no longer awaits its answer. -/
def answered_ (a : Ask) : Micro := .sys fun y => { y with asks := y.asks.erase a }

/-- REPLY (R405): the action for a fault, an image address, or a counter block. -/
def replyTo : Action := fun c s =>
  let v := c.word 2
  match s.sys.asks.find? fun a => a.tag == field (c.word 1) 15 0 with
  | none => refuse c (-4) s
  | some a =>
    if !(((c.drop 3).take 5).all (· == 0)) then refuse c (-1) s
    else
      match a.code with
      | 0x80 =>
        if 4 ≤ v.toNat then refuse c (-1) s
        else if v = 3 then refuse c (-2) s
        else if (s.die (s.fault a.what).die).restart || (s.die (s.fault a.what).die).handover then none
        else done c [fun _ => [answered_ a]] (resumeAndSettle a.what v.toNat s)
      | 0x83 =>
        if v = 0 || !imageAddress v then refuse c (-2) s
        else done c [fun s => [answered_ a] ++ (match (s.ctx a.what).save with
          | .asked _ => [.ctx a.what fun x => { x with saveTo := v.toNat }]
          | _ => [])] s
      | 0x84 =>
        if v = 0 || v.toNat % 8 != 0 || decide (2 ^ 56 ≤ v.toNat) then refuse c (-2) s
        else
          (done c [fun _ => [answered_ a, .ctx a.what fun x => if x.save == .none then x else { x with cntTo := v.toNat }]] s).map
            resumeRestore
      | _ => refuse c (-4) s

def execReply : State → Host.Outcome State Fault Refusal := serveOp 0x20 replyTo

/-- MIGRATE (R401, R404): it waits while the page is pinned or in a move. -/
def migrateCtx : Nat → Action := fun n c s =>
  let va := (c.word 2).toNat
  let new := (c.word 3).toNat
  let page := 2 ^ 40 * n + va / 65536
  if !hostAssisted s (s.ctx n).atoll 1 then refuse c (-5) s
  else if 2 ^ 56 ≤ va then refuse c (-2) s
  else
    match leafOf s n va with
    | none => refuse c (-2) s
    | some x =>
      if pinned s x.old x.size || inMove s x.old x.size || (s.migration page).live then none
      else if !takesPage s (s.ctx n).atoll new x.old x.size then refuse c (-2) s
      else some (run [fun s => beginMove s page x new (some c.tag) false] s)

def execMigrate : State → Host.Outcome State Fault Refusal := serveOp 0x21 (onCtx migrateCtx)

/-- The first request of a code for something is answered. -/
def settleAsk (code what : Nat) : Micro :=
  .sys fun y => match y.asks.find? fun a => a.code == code && a.what == what with
    | some a => { y with asks := y.asks.erase a }
    | none => y

/-- TOKENS (R404, R405, R417). -/
def setTokens : Action := fun c s =>
  if !tokensByHost s then refuse c (-5) s
  else done c [fun _ => [.sys (fun y => { y with nextBudget := (c.word 1).toNat }), settleAsk 0x82 0]] s

def execTokens : State → Host.Outcome State Fault Refusal := serveOp 0x22 setTokens

/-- A grant lies in the ranges of R316. -/
def grantOk (kc : Nat) (g : List Nat) : Bool :=
  let x := fun i => g.getD i 0
  decide (4 ≤ x 0) && decide (x 0 ≤ 32) && decide (x 1 ≤ kc) && decide (1 ≤ x 2) && decide (x 2 ≤ 8) && decide (8 ≤ x 3)
    && decide (x 3 ≤ 64)

/-- GRANTS (R401, R404, R405): in force at once. -/
def setGrants : Action := fun c s =>
  let a := field (c.word 1) 2 0
  let n := field (c.word 1) 13 8
  let g := unpackGrant (c.word 2)
  if !(s.atoll a).live || !(s.ctx n).live || (s.ctx n).atoll != a then refuse c (-4) s
  else if !hostAssisted s a 2 then refuse c (-5) s
  else if !grantOk (s.ctx n).tide.kc g then refuse c (-2) s
  else done c ([fun _ => [.ctx n (fun x => { x with tide := x.tide.grantTo g }), settleAsk 0x81 n], dissolvePairs a] ++ settleAllReefs) s

def execGrants : State → Host.Outcome State Fault Refusal := serveOp 0x23 setGrants

end Sys2Proof.Machine
end

