-- ==== Sys2Proof/Machine/VectorInt.lean ====
section
/-! DEFINITION. Group 0x3, vector integer (R115 to R124). -/

namespace Sys2Proof.Machine

/-! ### Operands and results -/

/-- Source modifiers on a 32-bit pattern read as signed: absolute value, then negation, both wrapping
(R41). -/
def modInt (n x : BitVec 1) (v : W32) : W32 :=
  let v := if x = 1 && v.msb then -v else v
  if n = 1 then -v else v

/-- A pattern read under a type: .i32 for 0, .n32 for 1 (R40, R115). -/
def readAs (t : Nat) (v : W32) : Int := if t = 0 then v.toInt else v.toNat

/-- The destination clamp of an exact integer (R42). -/
def clampInt (cl : BitVec 2) (e : Int) : W32 :=
  match cl.toNat with
  | 1 => BitVec.ofInt 32 (sat e 0 (2 ^ 32 - 1))
  | 2 => BitVec.ofInt 32 (sat e (-2 ^ 31) (2 ^ 31 - 1))
  | _ => BitVec.ofInt 32 e

/-- One lane's result from the values that the source fields read, in field order. -/
abbrev LaneOp := List W32 → W32

/-- The source values of a lane, in field order. -/
def sources (s : State) (iss : Issue) (sh : Shape) (l : Nat) : List W32 :=
  (List.range sh.vsrc.length).map fun i => operand s iss sh i l

/-- The lanes that perform: those of Active(g) that no verdict strikes (R86, R115). -/
def performing (s : State) (iss : Issue) (sh : Shape) (vs : List (Nat × Bad)) : List Nat :=
  lanesOf (spared s iss vs &&& active s iss sh.g)

/-- Writes one vector register in the lanes that perform; lanes that consume poison trap (R115, R279). -/
def vectorBody (sh : Shape) (d : Nat) (op : LaneOp) (iss : Issue) (s : State) : List Phase :=
  let vs := poisonVerdicts s iss sh
  [fun s => writeVec s iss d ((performing s iss sh vs).map fun l => (l, op (sources s iss sh l)))
    ++ strike s iss.thr iss.pc iss.lanes vs ++ [moveLanes iss (spared s iss vs)]]

/-- A per-lane instruction with one vector result. -/
def vectorOp (g d : Nat) (srcs : List Nat) (op : LaneOp) : State → Host.Outcome State Fault Refusal :=
  let sh : Shape := { g, vsrc := srcs, vdst := [d] }
  issue sh (vectorBody sh d op)

/-- A binary form: modifiers on a and b, the exact result by the type, cl (R115). -/
def intBinary (f : FV2) (op : Int → Int → Int) : State → Host.Outcome State Fault Refusal :=
  vectorOp f.g.toNat f.d.toNat [f.a.toNat, f.b.toNat] fun v =>
    let x := readAs f.t.toNat (modInt f.na f.xa (v.getD 0 0))
    let y := readAs f.t.toNat (modInt f.nb f.xb (v.getD 1 0))
    clampInt f.cl (op x y)

/-- A binary form on patterns. -/
def bitBinary (f : FV2) (op : W32 → W32 → W32) : State → Host.Outcome State Fault Refusal :=
  vectorOp f.g.toNat f.d.toNat [f.a.toNat, f.b.toNat] fun v => op (v.getD 0 0) (v.getD 1 0)

/-- A unary form on the pattern of a. -/
def bitUnary (f : FV2) (op : W32 → W32) : State → Host.Outcome State Fault Refusal :=
  vectorOp f.g.toNat f.d.toNat [f.a.toNat] fun v => op (v.getD 0 0)

/-- The shift amount: bits 7:0 of b's pattern (R119). -/
def shiftOf (b : W32) : Nat := b.toNat % 256

/-! ### Format FV2 (R119) -/

/-- VADD. -/
def execVadd (f : FV2) : State → Host.Outcome State Fault Refusal := intBinary f fun x y => x + y
/-- VSUB. -/
def execVsub (f : FV2) : State → Host.Outcome State Fault Refusal := intBinary f fun x y => x - y
/-- VMUL. -/
def execVmul (f : FV2) : State → Host.Outcome State Fault Refusal := intBinary f fun x y => x * y
/-- VMULH: the high word of the 64-bit product. -/
def execVmulh (f : FV2) : State → Host.Outcome State Fault Refusal := intBinary f fun x y => x * y / 2 ^ 32
/-- VMIN. -/
def execVmin (f : FV2) : State → Host.Outcome State Fault Refusal := intBinary f fun x y => if y < x then y else x
/-- VMAX. -/
def execVmax (f : FV2) : State → Host.Outcome State Fault Refusal := intBinary f fun x y => if x < y then y else x
/-- VAND. -/
def execVand (f : FV2) : State → Host.Outcome State Fault Refusal := bitBinary f fun x y => x &&& y
/-- VOR. -/
def execVor (f : FV2) : State → Host.Outcome State Fault Refusal := bitBinary f fun x y => x ||| y
/-- VXOR. -/
def execVxor (f : FV2) : State → Host.Outcome State Fault Refusal := bitBinary f fun x y => x ^^^ y
/-- VANDN. -/
def execVandn (f : FV2) : State → Host.Outcome State Fault Refusal := bitBinary f fun x y => x &&& ~~~y

/-- VSHL: x × 2^s, then cl (R119, R120). -/
def execVshl (f : FV2) : State → Host.Outcome State Fault Refusal :=
  vectorOp f.g.toNat f.d.toNat [f.a.toNat, f.b.toNat] fun v =>
    clampInt f.cl (readAs f.t.toNat (modInt f.na f.xa (v.getD 0 0)) * 2 ^ shiftOf (v.getD 1 0))

/-- VSHR. -/
def execVshr (f : FV2) : State → Host.Outcome State Fault Refusal := bitBinary f fun x y => x >>> shiftOf y
/-- VSRA. -/
def execVsra (f : FV2) : State → Host.Outcome State Fault Refusal := bitBinary f fun x y => x.sshiftRight (shiftOf y)
/-- VPOPC. -/
def execVpopc (f : FV2) : State → Host.Outcome State Fault Refusal := bitUnary f fun x => BitVec.ofNat 32 (setBits 32 x)
/-- VCLZ. -/
def execVclz (f : FV2) : State → Host.Outcome State Fault Refusal := bitUnary f fun x => BitVec.ofNat 32 (leadingZeros 32 x)
/-- VBREV. -/
def execVbrev (f : FV2) : State → Host.Outcome State Fault Refusal := bitUnary f fun x => x.reverse
/-- VABSD. -/
def execVabsd (f : FV2) : State → Host.Outcome State Fault Refusal := intBinary f fun x y => if x < y then y - x else x - y

/-- VMOV. -/
def execVmov (f : FV2) : State → Host.Outcome State Fault Refusal :=
  vectorOp f.g.toNat f.d.toNat [f.a.toNat] fun v =>
    clampInt f.cl (readAs f.t.toNat (modInt f.na f.xa (v.getD 0 0)))

/-! ### Compares (R122) -/

/-- The condition of a compare. -/
def cmpHolds (t : Nat) (x y : W32) : Bool :=
  match t with
  | 0x0 => x == y
  | 0x1 => x != y
  | 0x2 => x.slt y
  | 0x3 => x.sle y
  | 0x4 => y.slt x
  | 0x5 => y.sle x
  | 0x6 => x.ult y
  | 0x7 => x.ule y
  | 0x8 => y.ult x
  | 0x9 => y.ule x
  | 0xA => x &&& y != 0
  | _ => x &&& y == 0

/-- A mask with the bits of some lanes replaced. -/
def replaceBits (m : W64) (bits : List (Nat × Bool)) : W64 :=
  let put := setOf (bits.map Prod.fst)
  let on := setOf ((bits.filter fun b => b.2).map Prod.fst)
  (m &&& ~~~(BitVec.ofNat 64 put)) ||| BitVec.ofNat 64 on

/-- What a compare names: the d field is a mask register. -/
def cmpShape (g d : Nat) (srcs : List Nat) : Shape := { g, vsrc := srcs, mdst := [d] }

/-- Writes a mask register as one write, formed from its value before the fc (R122). -/
def compareBody (sh : Shape) (d : Nat) (holds : List W32 → Bool) (iss : Issue) (s : State) : List Phase :=
  let vs := poisonVerdicts s iss sh
  [fun s =>
    let bits := (performing s iss sh vs).map fun l => (l, holds (sources s iss sh l))
    (if bits.isEmpty then [] else [writeM iss.thr d (replaceBits (maskReg s iss d) bits)])
      ++ strike s iss.thr iss.pc iss.lanes vs ++ [moveLanes iss (spared s iss vs)]]

/-- VCMP. -/
def execVcmp (f : FV2) : State → Host.Outcome State Fault Refusal :=
  let sh := cmpShape f.g.toNat f.d.toNat [f.a.toNat, f.b.toNat]
  issue sh (compareBody sh f.d.toNat fun v =>
    cmpHolds f.t.toNat (modInt f.na f.xa (v.getD 0 0)) (modInt f.nb f.xb (v.getD 1 0)))

/-! ### Format FV3 (R123) -/

/-- VMAD: x × y + z, all read signed. -/
def execVmad (f : FV3) : State → Host.Outcome State Fault Refusal :=
  vectorOp f.g.toNat f.d.toNat [f.a.toNat, f.b.toNat, f.c.toNat] fun v =>
    let x := (modInt f.na f.xa (v.getD 0 0)).toInt
    let y := (modInt f.nb f.xb (v.getD 1 0)).toInt
    let z := (modInt f.nc f.xc (v.getD 2 0)).toInt
    clampInt f.cl (x * y + z)

/-- VSEL: a when c is nonzero, else b. -/
def execVsel (f : FV3) : State → Host.Outcome State Fault Refusal :=
  vectorOp f.g.toNat f.d.toNat [f.a.toNat, f.b.toNat, f.c.toNat] fun v =>
    if v.getD 2 0 = 0 then v.getD 1 0 else v.getD 0 0

/-- Position and field mask of VBFX and VBFI: ones at pos to min(pos + len, 32) − 1. -/
def bitField (b : W32) : Nat × W32 :=
  let pos := b.toNat % 32
  let top := min (pos + b.toNat / 256 % 64) 32
  (pos, BitVec.ofNat 32 (2 ^ top - 2 ^ pos))

/-- VBFX. -/
def execVbfx (f : FV3) : State → Host.Outcome State Fault Refusal :=
  vectorOp f.g.toNat f.d.toNat [f.a.toNat, f.b.toNat] fun v =>
    let (pos, m) := bitField (v.getD 1 0)
    (v.getD 0 0 >>> pos) &&& (m >>> pos)

/-- VBFI. -/
def execVbfi (f : FV3) : State → Host.Outcome State Fault Refusal :=
  vectorOp f.g.toNat f.d.toNat [f.a.toNat, f.b.toNat, f.c.toNat] fun v =>
    let (pos, m) := bitField (v.getD 1 0)
    (v.getD 2 0 &&& ~~~m) ||| ((v.getD 0 0 <<< pos) &&& m)

/-! ### Format FVI (R124) -/

/-- The immediate: sign-extended, zero-extended, or shifted high over `low`. -/
def immOf (t : Nat) (imm : BitVec 16) (low : W32) : W32 :=
  match t with
  | 0 => imm.signExtend 32
  | 1 => imm.setWidth 32
  | _ => (imm.setWidth 32 <<< 16) ||| low

/-- VMOVI. -/
def execVmovi (f : FVI) : State → Host.Outcome State Fault Refusal :=
  vectorOp f.g.toNat f.d.toNat [] fun _ => immOf f.t.toNat f.imm 0

/-- VADDI. -/
def execVaddi (f : FVI) : State → Host.Outcome State Fault Refusal :=
  vectorOp f.g.toNat f.d.toNat [f.a.toNat] fun v =>
    let t := f.t.toNat
    clampInt f.cl (readAs t (modInt f.na f.xa (v.getD 0 0)) + readAs t (immOf t f.imm 0))

/-- A bitwise form with an immediate. -/
def bitImm (f : FVI) (low : W32) (op : W32 → W32 → W32) : State → Host.Outcome State Fault Refusal :=
  vectorOp f.g.toNat f.d.toNat [f.a.toNat] fun v => op (v.getD 0 0) (immOf f.t.toNat f.imm low)

/-- VANDI: the high form keeps the low half of a. -/
def execVandi (f : FVI) : State → Host.Outcome State Fault Refusal := bitImm f 0xFFFF fun a i => a &&& i
/-- VORI. -/
def execVori (f : FVI) : State → Host.Outcome State Fault Refusal := bitImm f 0 fun a i => a ||| i
/-- VXORI. -/
def execVxori (f : FVI) : State → Host.Outcome State Fault Refusal := bitImm f 0 fun a i => a ^^^ i

/-- VSHLI: as VSHL with s from imm. -/
def execVshli (f : FVI) : State → Host.Outcome State Fault Refusal :=
  vectorOp f.g.toNat f.d.toNat [f.a.toNat] fun v =>
    clampInt f.cl (readAs f.t.toNat (modInt f.na f.xa (v.getD 0 0)) * 2 ^ (f.imm.toNat % 32))

/-- VSHRI. -/
def execVshri (f : FVI) : State → Host.Outcome State Fault Refusal :=
  vectorOp f.g.toNat f.d.toNat [f.a.toNat] fun v => v.getD 0 0 >>> (f.imm.toNat % 32)

/-- VSRAI. -/
def execVsrai (f : FVI) : State → Host.Outcome State Fault Refusal :=
  vectorOp f.g.toNat f.d.toNat [f.a.toNat] fun v => (v.getD 0 0).sshiftRight (f.imm.toNat % 32)

/-- VCMPI: the conditions up to .ge extend the sign of imm, the others zeros (R122). -/
def execVcmpi (f : FVI) : State → Host.Outcome State Fault Refusal :=
  let sh := cmpShape f.g.toNat f.d.toNat [f.a.toNat]
  let y := immOf (if f.t.toNat ≤ 5 then 0 else 1) f.imm 0
  issue sh (compareBody sh f.d.toNat fun v => cmpHolds f.t.toNat (modInt f.na f.xa (v.getD 0 0)) y)

end Sys2Proof.Machine
end

