-- ==== Sys2Proof/Machine/Exchange.lean ====
section
/-! DEFINITION. Group 0x4, lane exchange, but for the floating-point reduction (R116, R117, R125 to
R128, R131 to R133). -/

namespace Sys2Proof.Machine

/-! ### What the group shares -/

/-- The values that a lane's result depends on, as source field and lane. -/
abbrev Reads := Issue → State → Nat → List (Nat × Nat)

/-- Lanes that read a poisoned value (R279, R379). -/
def readVerdicts (s : State) (iss : Issue) (sh : Shape) (reads : Reads) : List (Nat × Bad) :=
  (activeLanes s iss sh).filterMap fun l =>
    if (reads iss s l).any fun r => poisonedField s iss sh r.1 r.2 then some (l, .trap .poison 0) else none

/-- The lanes whose guard bits decide what a lane's result is made of. -/
abbrev Peers := Issue → State → Nat → List Nat

/-- Only its own, where an instruction reads what it reads whoever is active (R125). -/
def ownGuard : Peers := fun _ _ l => [l]

/-- Every lane of the group, where the active lanes' values are combined (R117). -/
def groupPeers : Peers := fun iss _ _ => lanesOf iss.lanes

/-- A value that contributes to a lane's result is invalid in an episode; a port's value always is, and an invalid
guard bit leaves open what contributes (R117, R153, R257). -/
def readInvalid (s : State) (iss : Issue) (sh : Shape) (reads : Reads) (peers : Peers) (l : Nat) : Bool :=
  let t := s.thread iss.thr
  let e : Episode := t.episode.getD {}
  (sh.g != 0 && (l :: peers iss s l).any fun j => e.badM.contains (64 * sh.g + j))
    || (reads iss s l).any fun r =>
        let reg := sh.vsrc.getD r.1 0
        (portOf (hasPorts s t) reg).isSome || e.badV.contains (64 * reg + r.2)

/-- Marks one vector register by what each lane reads; a lane that keeps d keeps its mark too. -/
def markReads (s : State) (iss : Issue) (sh : Shape) (reads : Reads) (peers : Peers) (keeps : Nat → Bool) (d : Nat) : Micro :=
  let e : Episode := (s.thread iss.thr).episode.getD {}
  let marks := (markedLanes s iss sh e).map fun l =>
    (64 * d + l, readInvalid s iss sh reads peers l || (keeps l && e.badV.contains (64 * d + l)))
  .thread iss.thr fun t =>
    { t with episode := t.episode.map fun (e : Episode) =>
        { e with badV := marks.foldl (fun acc m => mark m.2 m.1 acc) e.badV } }

/-- An exchange instruction: lanes that consume poison trap, the others write d (R125). `value` gives no
value for a lane that keeps d. -/
def exchange (sh : Shape) (d : Nat) (reads : Reads) (peers : Peers) (value : Issue → State → Nat → Option W32)
    (s : State) : Host.Outcome State Fault Refusal :=
  let write := fun (iss : Issue) (s : State) (lanes : List Nat) =>
    writeVec s iss d (lanes.filterMap fun l => (value iss s l).map fun v => (l, v))
  issue sh
    (fun iss s =>
      let vs := readVerdicts s iss sh reads
      [fun s => write iss s (performing s iss sh vs) ++ strike s iss.thr iss.pc iss.lanes vs
        ++ [moveLanes iss (spared s iss vs)]])
    (.own fun iss s => some [fun _ =>
      write iss s (activeLanes s iss sh)
        ++ [markReads s iss sh reads peers (fun l => (value iss s l).isNone) d, moveOn iss]])
    (fun _ _ => true) s

/-- The warp width of the issue in hand. -/
def widthOf (s : State) (iss : Issue) : Nat := (s.thread iss.thr).width

/-- A form that takes one lane of a, or zero. -/
def pick (f : FV2) (undef : Bool) (srcs : List Nat) (src : Issue → State → Nat → Option Nat) :
    State → Host.Outcome State Fault Refusal :=
  let sh : Shape := { g := f.g.toNat, vsrc := srcs, vdst := [f.d.toNat], undef, wide := true }
  let more := fun (l : Nat) => if srcs.length = 2 then [(1, l)] else []
  exchange sh f.d.toNat
    (fun iss s l => more l ++ (match src iss s l with | some j => [(0, j)] | none => [])) ownGuard
    (fun iss s l => some (match src iss s l with | some j => operand s iss sh 0 j | none => 0))

/-! ### Data movement (R126) -/

/-- VPERM. -/
def execVperm (f : FV2) : State → Host.Outcome State Fault Refusal :=
  let srcs := [f.a.toNat, f.b.toNat]
  let sh : Shape := { g := f.g.toNat, vsrc := srcs }
  pick f false srcs fun iss s l =>
    let w := widthOf s iss
    let b := (operand s iss sh 1 l).toNat
    if f.t = 0 then (if b % 64 < w then some (b % 64) else none) else some (b % w)

/-- The lane that `VSHFL` takes (R126). -/
def shuffle (t w k l : Nat) : Nat :=
  match t with
  | 0 => if k ≤ l then l - k else l
  | 1 => if l + k < w then l + k else l
  | 2 => if l ^^^ k < w then l ^^^ k else l
  | _ => (l + k) % w

/-- VSHFL: the b field is the constant. -/
def execVshfl (f : FV2) : State → Host.Outcome State Fault Refusal :=
  pick f false [f.a.toNat] fun iss s l => some (shuffle f.t.toNat (widthOf s iss) f.b.toNat l)

/-- VBCAST: a lane at or above the width traps UNDEF. -/
def execVbcast (f : FV2) (s : State) : Host.Outcome State Fault Refusal :=
  pick f (laneBeyond s f.b.toNat) [f.a.toNat] (fun _ _ _ => some f.b.toNat) s

/-! ### Reductions and scans (R127, R128) -/

/-- Combines values under an op of R127; add is exact and clamped. -/
def reduce (op : Nat) (cl : BitVec 2) (vs : List W32) : W32 :=
  let pickBy := fun (init : W32) (better : W32 → W32 → Bool) => vs.foldl (fun m v => if better v m then v else m) init
  match op with
  | 0 => clampInt cl (vs.foldl (fun e v => e + v.toInt) 0)
  | 1 => pickBy 0x7FFFFFFF fun v m => v.slt m
  | 2 => pickBy 0xFFFFFFFF fun v m => v.ult m
  | 3 => pickBy 0x80000000 fun v m => m.slt v
  | 4 => pickBy 0 fun v m => m.ult v
  | 5 => vs.foldl (· &&& ·) 0xFFFFFFFF
  | 6 => vs.foldl (· ||| ·) 0
  | _ => vs.foldl (· ^^^ ·) 0

/-- The lanes whose values a reduction or scan combines for a lane. -/
def combined (s : State) (iss : Issue) (sh : Shape) (keep : Nat → Nat → Bool) (l : Nat) : List Nat :=
  (activeLanes s iss sh).filter fun j => keep j l

/-- A reduction or scan over the active lanes that `keep` admits. -/
def reduction (f : FV2) (keep : Nat → Nat → Bool) : State → Host.Outcome State Fault Refusal :=
  let sh : Shape := { g := f.g.toNat, vsrc := [f.a.toNat], vdst := [f.d.toNat], wide := true }
  exchange sh f.d.toNat (fun iss s l => (combined s iss sh keep l).map fun j => (0, j))
    (fun iss _ l => (lanesOf iss.lanes).filter fun j => keep j l)
    (fun iss s l => some (reduce (f.t.toNat % 8) f.cl ((combined s iss sh keep l).map (operand s iss sh 0))))

/-- VRED. -/
def execVred (f : FV2) : State → Host.Outcome State Fault Refusal := reduction f fun _ _ => true

/-- VSCAN: inclusive, or exclusive under t bit 3. -/
def execVscan (f : FV2) : State → Host.Outcome State Fault Refusal :=
  reduction f fun j l => if 8 ≤ f.t.toNat then decide (j < l) else decide (j ≤ l)

/-! ### Match (R131) -/

/-- VMATCH: the lowest active lane with the same pattern, or how many there are. -/
def execVmatch (f : FV2) : State → Host.Outcome State Fault Refusal :=
  let sh : Shape := { g := f.g.toNat, vsrc := [f.a.toNat], vdst := [f.d.toNat], wide := true }
  exchange sh f.d.toNat (fun iss s _ => (activeLanes s iss sh).map fun j => (0, j)) groupPeers
    (fun iss s l =>
      let same := (activeLanes s iss sh).filter fun j => operand s iss sh 0 j == operand s iss sh 0 l
      some (BitVec.ofNat 32 (if f.t = 0 then same.headD l else same.length)))

/-! ### Indirect registers (R132) -/

/-- A computed register that a lane may not name. -/
def beyondRange (s : State) (iss : Issue) (n : Nat) : Bool :=
  let t := s.thread iss.thr
  decide (t.budget ≤ n) || decide (1023 < n) || (portOf (hasPorts s t) n).isSome

/-- The register that a lane computes: the base, which a stepped sequence may take past v1023, and the unsigned
value of b. -/
def computed (s : State) (iss : Issue) (sh : Shape) (base i l : Nat) : Nat := base + (operand s iss sh i l).toNat

/-- REGRANGE of the lanes whose computed register is out of range, or POISON of their operands. -/
def indirectVerdicts (s : State) (iss : Issue) (sh : Shape) (base i : Nat) (skip : Nat → Bool) (reads : Bool) :
    List (Nat × Bad) :=
  (activeLanes s iss sh).filterMap fun l =>
    let n := computed s iss sh base i l
    if skip l then none
    else if poisonedField s iss sh i l then some (l, .trap .poison 0)
    else if beyondRange s iss n then some (l, .trap .regRange (BitVec.ofNat 64 n))
    else if (reads && (s.thread iss.thr).lostAt n l) || poisonedLane s iss sh l then some (l, .trap .poison 0)
    else none

/-- No lane's computed register has a pending write, and where it is read its value is there (R76). -/
def computedFree (sh : Shape) (base i : Nat) (reads : Bool) (iss : Issue) (s : State) : Bool :=
  let t := s.thread iss.thr
  let ds := pendingDsts s iss
  (activeLanes s iss sh).all fun l =>
    let n := computed s iss sh base i l
    !awaitsV ds n && (!reads || iss.second || !t.owed [n] (2 ^ l) (tickOf s t))

/-- The index of a lane is invalid in its episode (R117). -/
def indexInvalid (s : State) (iss : Issue) (sh : Shape) (i l : Nat) : Bool :=
  readInvalid s iss sh (fun _ _ l => [(i, l)]) ownGuard l

/-- `VMOVX` from a base register. -/
def moveIndexed (f : FV2) (base : Nat) : State → Host.Outcome State Fault Refusal :=
  let d := f.d.toNat
  let sh : Shape := { g := f.g.toNat, vsrc := [f.b.toNat], vdst := [d] }
  let value := fun (s : State) (iss : Issue) (l : Nat) => (l, vreg s iss (computed s iss sh base 0 l) l)
  issue sh
    (fun iss s =>
      let vs := indirectVerdicts s iss sh base 0 (fun _ => false) true
      [fun s => writeVec s iss d ((performing s iss sh vs).map (value s iss))
        ++ strike s iss.thr iss.pc iss.lanes vs ++ [moveLanes iss (spared s iss vs)]])
    (.own fun iss s =>
      let t := s.thread iss.thr
      let e : Episode := t.episode.getD {}
      let vs := indirectVerdicts s iss sh base 0 (indexInvalid s iss sh 0) true
      let marks := (markedLanes s iss sh e).map fun l =>
        (64 * d + l, indexInvalid s iss sh 0 l || e.badV.contains (64 * computed s iss sh base 0 l + l))
      if !vs.isEmpty then none
      else some [fun s => writeVec s iss d ((activeLanes s iss sh).map (value s iss))
        ++ [.thread iss.thr fun t =>
              { t with episode := t.episode.map fun (e : Episode) =>
                  { e with badV := marks.foldl (fun acc m => mark m.2 m.1 acc) e.badV } },
            moveOn iss]])
    (computedFree sh base 0 true)

/-- Writes one register per lane; each is there after the latency of the form (R118). -/
def scatter (s : State) (iss : Issue) (ws : List (Nat × Nat × W32)) : List Micro :=
  let now := tickOf s (s.thread iss.thr)
  (ws.flatMap fun w => writeVec s iss w.1 [w.2] ++ [.thread iss.thr (Thread.owe [w.1] (2 ^ w.2.1) now (now + iss.lat))])
    ++ touchReef s iss.thr (distinct (ws.map Prod.fst))

/-- `VMOVXW` from a base register. -/
def moveIndexedTo (f : FV2) (base : Nat) : State → Host.Outcome State Fault Refusal :=
  let sh : Shape := { g := f.g.toNat, vsrc := [f.a.toNat, f.b.toNat] }
  let value := fun (s : State) (iss : Issue) (l : Nat) => (computed s iss sh base 1 l, l, operand s iss sh 0 l)
  issue sh
    (fun iss s =>
      let vs := indirectVerdicts s iss sh base 1 (fun _ => false) false
      [fun s => scatter s iss ((performing s iss sh vs).map (value s iss))
        ++ strike s iss.thr iss.pc iss.lanes vs ++ [moveLanes iss (spared s iss vs)]])
    (.own fun iss s =>
      let unsure := indexInvalid s iss sh 1
      let vs := indirectVerdicts s iss sh base 1 unsure false
      let sure := (activeLanes s iss sh).filter fun l => !unsure l
      let budget := (s.thread iss.thr).budget
      let e : Episode := (s.thread iss.thr).episode.getD {}
      let marks := (markedLanes s iss sh e).flatMap fun l =>
        if unsure l then (List.range (budget - base)).map fun k => (64 * (base + k) + l, true)
        else [(64 * computed s iss sh base 1 l + l, readInvalid s iss sh (fun _ _ l => [(0, l)]) ownGuard l)]
      if !vs.isEmpty then none
      else some [fun s => scatter s iss (sure.map (value s iss))
        ++ [.thread iss.thr fun t =>
              { t with episode := t.episode.map fun (e : Episode) =>
                  { e with badV := marks.foldl (fun acc m => mark m.2 m.1 acc) e.badV } },
            moveOn iss]])
    (computedFree sh base 1 false)

/-- VMOVX: a is the base. -/
def execVmovx (f : FV2) : State → Host.Outcome State Fault Refusal := moveIndexed f f.a.toNat

/-- VMOVXW: d is the base. -/
def execVmovxw (f : FV2) : State → Host.Outcome State Fault Refusal := moveIndexedTo f f.d.toNat

/-! ### Compaction (R133) -/

/-- The active lanes whose b pattern is nonzero. -/
def selected (s : State) (iss : Issue) (sh : Shape) : List Nat :=
  (activeLanes s iss sh).filter fun l => operand s iss sh 1 l != 0

/-- A lane's place in a list of lanes. -/
def rankIn (l : Nat) (ls : List Nat) : Nat := (ls.filter fun j => decide (j < l)).length

/-- A form that moves values by rank; lanes without one keep d, or take zero under .zero. -/
def byRank (f : FV2) (source : Issue → State → Nat → Option Nat) (sh : Shape) : State → Host.Outcome State Fault Refusal :=
  exchange sh f.d.toNat
    (fun iss s _ => (activeLanes s iss sh).flatMap fun j => [(0, j), (1, j)]) groupPeers
    (fun iss s l =>
      match source iss s l with
      | some j => some (operand s iss sh 0 j)
      | none => if f.t = 1 then some 0 else none)

/-- What both compaction forms name. -/
def rankShape (f : FV2) : Shape := { g := f.g.toNat, vsrc := [f.a.toNat, f.b.toNat], vdst := [f.d.toNat], wide := true }

/-- VCOMP. -/
def execVcomp (f : FV2) : State → Host.Outcome State Fault Refusal :=
  let sh := rankShape f
  byRank f (fun iss s l => (selected s iss sh)[rankIn l (activeLanes s iss sh)]?) sh

/-- VEXPD. -/
def execVexpd (f : FV2) : State → Host.Outcome State Fault Refusal :=
  let sh := rankShape f
  byRank f (fun iss s l =>
    if (selected s iss sh).contains l then (activeLanes s iss sh)[rankIn l (selected s iss sh)]? else none) sh

end Sys2Proof.Machine
end

