-- ==== Sys2Proof/Machine/Transc.lean ====
section
/-! DEFINITION. The special functions, correctly rounded (R163, R164): exact values where the value is
rational, else the value enclosed at growing precision until its leading bits stand. -/

namespace Sys2Proof.Machine

/-! ### Square roots -/

/-- Bit by bit from bit `b` down, the largest `r` with r × r ≤ n. -/
def sqrtFrom (n : Nat) : Nat → Nat → Nat
  | 0, r => r
  | b + 1, r => sqrtFrom n b (if (r + 2 ^ b) * (r + 2 ^ b) ≤ n then r + 2 ^ b else r)

/-- The whole part of a square root. -/
def isqrt (n : Nat) : Nat := sqrtFrom n (n.log2 / 2 + 1) 0

/-- An irrational magnitude strictly between i and i + 1 units of 2^e, as any value between them: the
rounding bits lie above. -/
def between (neg : Bool) (i : Nat) (e : Int) : Exact := .fin neg (2 * i + 1) 1 (e - 1)

/-- √(m × 2^e). -/
def sqrtExact (m : Nat) (e : Int) : Exact :=
  let (m, e) := if e % 2 = 0 then (m, e) else (2 * m, e - 1)
  let i := isqrt (m * 2 ^ 96)
  if i * i = m * 2 ^ 96 then .fin false i 1 (e / 2 - 48) else between false i (e / 2 - 48)

/-- 1 / √(m × 2^e). -/
def rsqrtExact (m : Nat) (e : Int) : Exact :=
  let (m, e) := if e % 2 = 0 then (m, e) else (2 * m, e - 1)
  let i := isqrt (2 ^ 128 / m)
  if i * i * m = 2 ^ 128 then .fin false i 1 (-(e / 2) - 64) else between false i (-(e / 2) - 64)

/-! ### Fixed-point approximations

A number x stands as a whole number near x × 2^p; every one below is within 2^20 of it. -/

/-- Σ term(n), term(n + 1) = term(n) × y / 2^p / (n + 1): e^y for 0 ≤ y ≤ 1. -/
def expSum (p y : Nat) : Nat → Nat → Nat → Nat → Nat
  | 0, _, _, sum => sum
  | fuel + 1, n, term, sum => expSum p y fuel (n + 1) (term * y / 2 ^ p / (n + 1)) (sum + term)

/-- e^y. -/
def expFix (p y : Nat) : Nat := expSum p y p 0 (2 ^ p) 0

/-- Σ z^(2k+1) / (2k+1), the signs alternating if `alt`: the inverse tangents. -/
def atanSum (p sq : Nat) (alt : Bool) : Nat → Nat → Nat → Int → Int
  | 0, _, _, sum => sum
  | fuel + 1, k, pow, sum =>
    let t : Int := (pow / (2 * k + 1) : Nat)
    atanSum p sq alt fuel (k + 1) (pow * sq / 2 ^ p) (if alt && k % 2 == 1 then sum - t else sum + t)

/-- atanh z, or atan z if `alt`, for 0 ≤ z ≤ 1/3. -/
def atanFix (p z : Nat) (alt : Bool) : Nat := (atanSum p (z * z / 2 ^ p) alt p 0 z 0).toNat

/-- ln 2. -/
def ln2Fix (p : Nat) : Nat := 2 * atanFix p (2 ^ p / 3) false

/-- 2π, by 16 atan(1/5) − 4 atan(1/239). -/
def twoPiFix (p : Nat) : Nat := 2 * (16 * atanFix p (2 ^ p / 5) true - 4 * atanFix p (2 ^ p / 239) true)

/-- Σ of alternating terms, term ← term × x² / (k (k + 1)): sine from k = 2, cosine from k = 1. -/
def waveSum (p sq : Nat) : Nat → Nat → Nat → Bool → Int → Int
  | 0, _, _, _, sum => sum
  | fuel + 1, k, term, neg, sum =>
    let t : Int := term
    waveSum p sq fuel (k + 2) (term * sq / 2 ^ p / (k * (k + 1))) (!neg) (if neg then sum - t else sum + t)

/-- sin x, or cos x if `cosine`, for 0 ≤ x ≤ π / 4. -/
def waveFix (p x : Nat) (cosine : Bool) : Nat :=
  (waveSum p (x * x / 2 ^ p) p (if cosine then 1 else 2) (if cosine then 2 ^ p else x) false 0).toNat

/-- m × 2^e in fixed point. -/
def fixed (p m : Nat) (e : Int) : Nat := m * 2 ^ (e + p).toNat / 2 ^ (-(e + p)).toNat

/-- Squares a number below 1 repeatedly. -/
def squares (p : Nat) : Nat → Nat → Nat
  | 0, x => x
  | n + 1, x => squares p n (x * x / 2 ^ p)

/-! ### Settling the leading bits -/

/-- An irrational number that `approx p` approximates in fixed point, times 2^scale, at the first of the
precisions at which its 27 leading bits are certain. -/
def enclose (neg : Bool) (scale : Int) (approx : Nat → Nat) : List Nat → Exact
  | [] => .fin neg 0 1 0
  | p :: ps =>
    let c := approx p
    let lo := c - 2 ^ 20
    let hi := c + 2 ^ 20
    let sh : Nat := lo.log2 - 26
    if 2 ^ 27 ≤ lo ∧ lo / 2 ^ sh = hi / 2 ^ sh then between neg (lo / 2 ^ sh) ((sh : Int) - p + scale)
    else enclose neg scale approx ps

/-- The precisions tried. -/
def precisions : List Nat := [256, 512, 1024, 2048, 4096]

/-! ### The functions -/

/-- m × 2^e as whole part and fraction in units of 2^e (e ≤ 0), or a whole number. -/
def isWhole (m : Nat) (e : Int) : Bool := decide (0 ≤ e) || m % 2 ^ (-e).toNat == 0

/-- The whole part of m × 2^e. -/
def wholePart (m : Nat) (e : Int) : Nat := m * 2 ^ e.toNat / 2 ^ (-e).toNat

/-- 2^x for x = ± m × 2^e, m nonzero. Beyond ±1,024 every result overflows or is tiny alike. -/
def exp2Exact (neg : Bool) (m : Nat) (e : Int) : Exact :=
  if 11 ≤ (m.log2 : Int) + e then .fin false 1 1 (if neg then -1024 else 1024)
  else
    let n : Int := wholePart m e
    if isWhole m e then .fin false 1 1 (if neg then -n else n)
    else
      let frac := fun p =>
        let f := fixed p m e % 2 ^ p
        if neg then 2 ^ p - f else f
      enclose false (if neg then -n - 1 else n) (fun p => expFix p (frac p * ln2Fix p / 2 ^ p)) precisions

/-- log2 of m × 2^e, m nonzero: n + log2 v with v in [3/4, 3/2). -/
def log2Exact (m : Nat) (e : Int) : Exact :=
  let n : Int := (m.log2 : Int) + e
  if m = 2 ^ m.log2 then .fin (n < 0) n.natAbs 1 0
  else
    let high := decide (3 * 2 ^ m.log2 ≤ 2 * m)
    let n := if high then n + 1 else n
    let one := if high then 2 * 2 ^ m.log2 else 2 ^ m.log2
    let gap := if high then one - m else m - one
    let part := fun p => 2 * atanFix p (gap * 2 ^ p / (m + one)) false * 2 ^ p / ln2Fix p
    let neg := if n = 0 then high else n < 0
    let same := n = 0 ∨ ((n < 0) = high)
    enclose neg 0 (fun p => if same then n.natAbs * 2 ^ p + part p else n.natAbs * 2 ^ p - part p) precisions

/-- sin(2πx) of a fraction of a turn t / 2^k with 0 < t < 2^k, not a multiple of a quarter. -/
def sineOf (neg : Bool) (t k : Nat) : Exact :=
  let turn := 2 ^ k
  let below := decide (2 * t < turn)
  let t := if below then t else t - turn / 2
  let t := if 4 * t < turn then t else turn / 2 - t
  let cosine := decide (turn < 8 * t)
  let u := if cosine then turn / 4 - t else t
  enclose (neg != !below) 0 (fun p => waveFix p (twoPiFix p * u / turn) cosine) precisions

/-- The fraction of a turn of m × 2^e, as t / 2^k with k at least 3. -/
def turnOf (m : Nat) (e : Int) : Nat × Nat :=
  let k := max 3 (-e).toNat
  (m * 2 ^ (e + k).toNat % 2 ^ k, k)

/-- sin(2πx) for x = ± m × 2^e. -/
def sinExact (neg : Bool) (m : Nat) (e : Int) : Exact :=
  let (t, k) := turnOf m e
  if 2 * t % 2 ^ k = 0 then .fin neg 0 1 0
  else if 4 * t = 2 ^ k then .fin neg 1 1 0
  else if 4 * t = 3 * 2 ^ k then .fin (!neg) 1 1 0
  else sineOf neg t k

/-- cos(2πx): the sine a quarter of a turn on. -/
def cosExact (m : Nat) (e : Int) : Exact :=
  let (t, k) := turnOf m e
  let t := (t + 2 ^ k / 4) % 2 ^ k
  if 2 * t % 2 ^ k = 0 then .fin false 0 1 0
  else if 4 * t = 2 ^ k then .fin false 1 1 0
  else if 4 * t = 3 * 2 ^ k then .fin true 1 1 0
  else sineOf false t k

/-- tanh of ± m × 2^e, m nonzero: (1 − u) / (1 + u) with u = e^(−2x). From 32 on it lies between 1 − 2^−30
and 1. -/
def tanhExact (neg : Bool) (m : Nat) (e : Int) : Exact :=
  if 5 ≤ (m.log2 : Int) + e then between neg (2 ^ 30 - 1) (-30)
  else
    enclose neg 0 (fun p =>
      let u := squares p 6 (2 ^ (2 * p) / expFix p (fixed p m (e - 5)))
      (2 ^ p - u) * 2 ^ p / (2 ^ p + u)) precisions

/-- The eight functions (R164): the exact value and the flags of the special operands. -/
def specialFn (k : Nat) (x : Val) : Exact × Nat :=
  match k, x with
  | _, .nan quiet => (.nan, if quiet then 0 else flagNV)
  | 0, .inf n => (.fin n 0 1 0, 0)
  | 0, .fin n m e => if m = 0 then (.inf n, flagDZ) else (.fin n 1 m (-e), 0)
  | 1, .inf n => if n then (.nan, flagNV) else (.fin false 0 1 0, 0)
  | 1, .fin n m e => if m = 0 then (.inf n, flagDZ) else if n then (.nan, flagNV) else (rsqrtExact m e, 0)
  | 2, .inf n => if n then (.nan, flagNV) else (.inf false, 0)
  | 2, .fin n m e => if m = 0 then (.fin n 0 1 0, 0) else if n then (.nan, flagNV) else (sqrtExact m e, 0)
  | 3, .inf n => if n then (.fin false 0 1 0, 0) else (.inf false, 0)
  | 3, .fin n m e => if m = 0 then (.fin false 1 1 0, 0) else (exp2Exact n m e, 0)
  | 4, .inf n => if n then (.nan, flagNV) else (.inf false, 0)
  | 4, .fin n m e => if m = 0 then (.inf true, flagDZ) else if n then (.nan, flagNV) else (log2Exact m e, 0)
  | 5, .inf _ | 6, .inf _ => (.nan, flagNV)
  | 5, .fin n m e => (sinExact n m e, 0)
  | 6, .fin _ m e => (cosExact m e, 0)
  | _, .inf n => (.fin n 1 1 0, 0)
  | _, .fin n m e => if m = 0 then (.fin n 0 1 0, 0) else (tanhExact n m e, 0)

end Sys2Proof.Machine
end

