-- ==== Sys2Proof/Machine/VectorFloat.lean ====
section
/-! DEFINITION. Group 0x5, vector floating point, and the floating-point reduction (R129, R130, R147,
R152 to R162). -/

namespace Sys2Proof.Machine

/-! ### One lane's result (R152) -/

/-- What a lane computes: its result, the flags it raises, its generator afterwards. -/
structure LaneOut where
  value : W32
  flags : Nat := 0
  gen   : W32
  deriving DecidableEq, Repr

/-- A lane's computation from FPCTL, its generator and its source values. -/
abbrev FloatOp := W32 → W32 → List W32 → LaneOut

/-- FPCTL as an issue reads it (R148). -/
def fpctlOf (s : State) (iss : Issue) : W32 := (sourceRegs s iss).fpctl

/-- The lanes that compute, with what they compute. -/
def laneOuts (s : State) (iss : Issue) (sh : Shape) (op : FloatOp) : List (Nat × LaneOut) :=
  ((activeLanes s iss sh).filter fun l => !poisonedLane s iss sh l).map fun l =>
    (l, op (fpctlOf s iss) ((s.thread iss.thr).lane l).gen (sources s iss sh l))

/-- The lanes that raise an enabled flag (R147). -/
def fpeVerdicts (ctl : W32) (outs : List (Nat × LaneOut)) : List (Nat × Bad) :=
  outs.filterMap fun o =>
    if o.2.flags &&& enables ctl != 0 then some (o.1, .trap .fpe (BitVec.ofNat 64 o.2.flags)) else none

/-- Merges flags into FPSTAT and stores generators (R144, R147). -/
def mergeFlags (k : Nat) (done gens : List (Nat × LaneOut)) : Micro :=
  .thread k fun t =>
    let t := gens.foldl (fun t o => t.updLane o.1 fun l => { l with gen := o.2.gen }) t
    t.updRegs fun r => { r with fpstat := r.fpstat ||| BitVec.ofNat 32 (done.foldl (fun f o => f ||| o.2.flags) 0) }

/-- The lanes that complete an instruction of group 0x5 or 0x6, and what strikes the others. A lane that
traps on a flag has advanced its generator (R144). -/
def floatBody (sh : Shape) (op : FloatOp) (write : State → Issue → List (Nat × LaneOut) → List Micro)
    (iss : Issue) (s : State) : List Phase :=
  let outs := laneOuts s iss sh op
  let fpe := fpeVerdicts (fpctlOf s iss) outs
  let vs := poisonVerdicts s iss sh ++ fpe
  let go := spared s iss vs
  let done := outs.filter fun o => has go o.1
  let gens := outs.filter fun o => has go o.1 || fpe.any fun v => v.1 == o.1
  [fun s => write s iss done ++ [mergeFlags iss.thr done gens] ++ strike s iss.thr iss.pc iss.lanes vs
    ++ [moveLanes iss go]]

/-- An instruction with one vector result. -/
def floatOp (g d : Nat) (srcs : List Nat) (op : FloatOp) : State → Host.Outcome State Fault Refusal :=
  let sh : Shape := { g, vsrc := srcs, vdst := [d] }
  issue sh (floatBody sh op fun s iss done => writeVec s iss d (done.map fun o => (o.1, o.2.value)))

/-! ### Elements -/

/-- Applies an operation on codes to one FP32 element, or to the two halves of BF16X2 (R152). -/
def elementwise (t : Nat) (op : Format → List Nat → Nat × Nat) (vs : List W32) : W32 × Nat :=
  if t = 0 then
    let r := op fp32 (vs.map BitVec.toNat)
    (BitVec.ofNat 32 r.1, r.2)
  else
    let lo := op bf16 (vs.map fun v => v.toNat % 2 ^ 16)
    let hi := op bf16 (vs.map fun v => v.toNat / 2 ^ 16)
    (BitVec.ofNat 32 (lo.1 + hi.1 * 2 ^ 16), lo.2 ||| hi.2)

/-- A lane's computation that leaves the generator alone. -/
def pureOp (op : W32 → List W32 → W32 × Nat) : FloatOp := fun ctl g vs =>
  let r := op ctl vs
  { value := r.1, flags := r.2, gen := g }

/-- Invalid, when it holds. -/
def invalidIf (b : Bool) : Nat := if b then flagNV else 0

/-- The one rounding of an arithmetic result, then the clamp (R152). -/
def finish (f : Format) (ctl : W32) (cl : BitVec 2) (sc : Int) (x : Exact) (flags : Nat) : Nat × Nat :=
  let r := roundTo f (arith ctl) (x.scale sc)
  (clampCode f cl r.1, r.2 ||| flags)

/-- The operands of an FV2 form after flushing and modifiers. -/
def pairOf (f : FV2) (fm : Format) (ctl : W32) (cs : List Nat) : Nat × Nat :=
  (operandCode fm ctl f.na f.xa (cs.getD 0 0), operandCode fm ctl f.nb f.xb (cs.getD 1 0))

/-- The negative of a value. -/
def Val.negate : Val → Val
  | .nan q => .nan q
  | .inf n => .inf (!n)
  | .fin n m e => .fin (!n) m e

/-- x + y. -/
def addCodes (mode : Nat) (x y : Val) : Exact × Nat :=
  let r := sumVals mode [x, y]
  (r.1, invalidIf (r.2 || x.signals || y.signals))

/-- x × y. -/
def mulCodes (x y : Val) : Exact × Nat :=
  let r := mulVal x y
  (r.1.exact, invalidIf (r.2 || x.signals || y.signals))

/-- A two-operand arithmetic form. -/
def floatBinary (f : FV2) (op : Nat → Val → Val → Exact × Nat) : State → Host.Outcome State Fault Refusal :=
  floatOp f.g.toNat f.d.toNat [f.a.toNat, f.b.toNat] (pureOp fun ctl =>
    elementwise f.t.toNat fun fm cs =>
      let (x, y) := pairOf f fm ctl cs
      let r := op (ctl.toNat % 4) (valueOf fm x) (valueOf fm y)
      finish fm ctl f.cl f.sc.toInt r.1 r.2)

/-- VFADD. -/
def execVfadd (f : FV2) : State → Host.Outcome State Fault Refusal := floatBinary f fun m x y => addCodes m x y
/-- VFSUB. -/
def execVfsub (f : FV2) : State → Host.Outcome State Fault Refusal := floatBinary f fun m x y => addCodes m x y.negate
/-- VFMUL. -/
def execVfmul (f : FV2) : State → Host.Outcome State Fault Refusal := floatBinary f fun _ x y => mulCodes x y

/-! ### Minimum and maximum (R157) -/

/-- The smaller or larger of two codes, with NaN propagation under `prop`. -/
def minMax (f : Format) (larger prop : Bool) (x y : Nat) : Nat × Nat :=
  let nx := (valueOf f x).isNan
  let ny := (valueOf f y).isNan
  let flags := invalidIf ((valueOf f x).signals || (valueOf f y).signals)
  let least := if keyOf f y < keyOf f x then y else x
  let most := if keyOf f x < keyOf f y then y else x
  (if nx && ny || prop && (nx || ny) then f.nanCode
   else if nx then y else if ny then x else if larger then most else least, flags)

/-- A minimum or maximum form. -/
def floatMinMax (f : FV2) (larger prop : Bool) : State → Host.Outcome State Fault Refusal :=
  floatOp f.g.toNat f.d.toNat [f.a.toNat, f.b.toNat] (pureOp fun ctl =>
    elementwise f.t.toNat fun fm cs =>
      let (x, y) := pairOf f fm ctl cs
      let r := minMax fm larger prop x y
      (clampCode fm f.cl r.1, r.2))

/-- VFMIN. -/
def execVfmin (f : FV2) : State → Host.Outcome State Fault Refusal := floatMinMax f false false
/-- VFMAX. -/
def execVfmax (f : FV2) : State → Host.Outcome State Fault Refusal := floatMinMax f true false
/-- VFMINM. -/
def execVfminm (f : FV2) : State → Host.Outcome State Fault Refusal := floatMinMax f false true
/-- VFMAXM. -/
def execVfmaxm (f : FV2) : State → Host.Outcome State Fault Refusal := floatMinMax f true true

/-! ### Compare and classify (R158, R159) -/

/-- The order of two numbers: −0 equals +0. -/
def numKey (f : Format) (code : Nat) : Int :=
  let mag : Int := (code % 2 ^ f.signBit : Nat)
  if code.testBit f.signBit then -mag else mag

/-- The condition of `VFCMP` and whether it raises invalid. -/
def floatHolds (t x y : Nat) : Bool × Nat :=
  let vx := valueOf fp32 x
  let vy := valueOf fp32 y
  let un := vx.isNan || vy.isNan
  let a := numKey fp32 x
  let b := numKey fp32 y
  let holds := match t with
    | 0 => !un && a == b
    | 1 => un || a != b
    | 2 => !un && decide (a < b)
    | 3 => !un && decide (a ≤ b)
    | 4 => !un && decide (b < a)
    | 5 => !un && decide (b ≤ a)
    | 6 => un
    | _ => !un
  (holds, invalidIf (vx.signals || vy.signals || un && decide (2 ≤ t) && decide (t ≤ 5)))

/-- VFCMP. -/
def execVfcmp (f : FV2) : State → Host.Outcome State Fault Refusal :=
  let sh := cmpShape f.g.toNat f.d.toNat [f.a.toNat, f.b.toNat]
  let op : FloatOp := pureOp fun ctl vs =>
    let (x, y) := pairOf f fp32 ctl (vs.map BitVec.toNat)
    let r := floatHolds f.t.toNat x y
    (if r.1 then 1 else 0, r.2)
  issue sh (floatBody sh op fun s iss done =>
    if done.isEmpty then []
    else [writeM iss.thr f.d.toNat (replaceBits (maskReg s iss f.d.toNat) (done.map fun o => (o.1, o.2.value != 0)))])

/-- The class bit of a code. -/
def classBit (f : Format) (code : Nat) : Nat :=
  let sub := code / 2 ^ f.mbits % 2 ^ f.ebits == 0
  match valueOf f code with
  | .nan quiet => if quiet then 9 else 8
  | .inf neg => if neg then 0 else 7
  | .fin neg m _ => if m = 0 then (if neg then 3 else 4) else if sub then (if neg then 2 else 5) else if neg then 1 else 6

/-- VFCLASS. -/
def execVfclass (f : FV2) : State → Host.Outcome State Fault Refusal :=
  floatOp f.g.toNat f.d.toNat [f.a.toNat] (pureOp fun _ =>
    elementwise f.t.toNat fun fm cs => (2 ^ classBit fm (cs.getD 0 0), 0))

/-! ### Round to integral, scale the exponent (R160, R161) -/

/-- A code rounded to an integral value in a mode. -/
def integral (f : Format) (mode code : Nat) : Nat × Nat :=
  match valueOf f code with
  | .nan quiet => (f.nanCode, invalidIf (!quiet))
  | .inf _ => (code, 0)
  | .fin neg m e =>
    if 0 ≤ e then (code, 0)
    else
      let (i, r, d) := inUnits m 1 e 0
      ((roundTo f {} (.fin neg (roundUnits mode neg i r d) 1 0)).1, 0)

/-- VFRND: the b field is the mode code. -/
def execVfrnd (f : FV2) : State → Host.Outcome State Fault Refusal :=
  floatOp f.g.toNat f.d.toNat [f.a.toNat] (pureOp fun ctl =>
    elementwise f.t.toNat fun fm cs =>
      let mode := if f.b = 0 then ctl.toNat % 4 else f.b.toNat - 1
      let r := integral fm mode (operandCode fm ctl f.na f.xa (cs.getD 0 0))
      (clampCode fm f.cl r.1, r.2))

/-- The exponent of VFLDX. Beyond ±2,000 every nonzero result overflows or is tiny alike. -/
def ldxCount (f : Format) (b : Nat) : Int :=
  let n := if f.ebits + f.mbits = 31 then (BitVec.ofNat 32 b).toInt else (BitVec.ofNat 16 b).toInt
  max (-2000) (min 2000 n)

/-- VFLDX. -/
def execVfldx (f : FV2) : State → Host.Outcome State Fault Refusal :=
  floatOp f.g.toNat f.d.toNat [f.a.toNat, f.b.toNat] (pureOp fun ctl =>
    elementwise f.t.toNat fun fm cs =>
      let x := valueOf fm (operandCode fm ctl f.na f.xa (cs.getD 0 0))
      finish fm ctl f.cl (ldxCount fm (cs.getD 1 0) + f.sc.toInt) x.exact (invalidIf x.signals))

/-! ### Fused forms (R162) -/

/-- x × y + z with one rounding. -/
def fused (mode : Nat) (x y z : Val) : Exact × Nat :=
  let p := mulVal x y
  let r := sumVals mode [p.1, z]
  (r.1, invalidIf (p.2 || r.2 || x.signals || y.signals || z.signals))

/-- A fused form on elements. -/
def floatFused (f : FV3) (t : Nat) : State → Host.Outcome State Fault Refusal :=
  floatOp f.g.toNat f.d.toNat [f.a.toNat, f.b.toNat, f.c.toNat] (pureOp fun ctl =>
    elementwise t fun fm cs =>
      let v := fun n x i => valueOf fm (operandCode fm ctl n x (cs.getD i 0))
      let r := fused (ctl.toNat % 4) (v f.na f.xa 0) (v f.nb f.xb 1) (v f.nc f.xc 2)
      finish fm ctl f.cl f.sc.toInt r.1 r.2)

/-- VFMA.f32. -/
def execVfmaF32 (f : FV3) : State → Host.Outcome State Fault Refusal := floatFused f 0
/-- VFMA.bf16x2. -/
def execVfmaBf16x2 (f : FV3) : State → Host.Outcome State Fault Refusal := floatFused f 1

/-- a_lo × b_lo + a_hi × b_hi + z. -/
def dotTwo (mode : Nat) (al bl ah bh z : Val) : Exact × Nat :=
  let p := mulVal al bl
  let q := mulVal ah bh
  let r := sumVals mode [p.1, q.1, z]
  (r.1, invalidIf (p.2 || q.2 || r.2 || [al, bl, ah, bh, z].any Val.signals))

/-- VFDOT2. -/
def execVfdot2 (f : FV3) : State → Host.Outcome State Fault Refusal :=
  floatOp f.g.toNat f.d.toNat [f.a.toNat, f.b.toNat, f.c.toNat] (pureOp fun ctl vs =>
    let half := fun n x i (h : Nat) => valueOf bf16 (operandCode bf16 ctl n x ((vs.getD i 0).toNat / 2 ^ (16 * h) % 2 ^ 16))
    let z := valueOf fp32 (operandCode fp32 ctl f.nc f.xc (vs.getD 2 0).toNat)
    let r := dotTwo (ctl.toNat % 4) (half f.na f.xa 0 0) (half f.nb f.xb 1 0) (half f.na f.xa 0 1) (half f.nb f.xb 1 1) z
    let w := finish fp32 ctl f.cl f.sc.toInt r.1 r.2
    (BitVec.ofNat 32 w.1, w.2))

/-! ### VFRED (R129, R130) -/

/-- A node of the tree: its pattern, or nothing when no active lane lies below it. -/
abbrev Node := Option W32

/-- Two nodes combined: the pattern and the flags of the node's rounding. -/
def combineNodes (t : Nat) (ctl : W32) : Node → Node → Node × Nat
  | none, q => (q, 0)
  | p, none => (p, 0)
  | some x, some y =>
    let r := elementwise (if t = 1 then 1 else 0) (fun fm cs =>
      let a := cs.getD 0 0
      let b := cs.getD 1 0
      match t with
      | 2 => minMax fm false false a b
      | 3 => minMax fm true false a b
      | _ =>
        let e := addCodes (ctl.toNat % 4) (valueOf fm a) (valueOf fm b)
        finish fm ctl 0 0 e.1 e.2) [x, y]
    (some r.1, r.2)

/-- One level of the tree, with the flags of its nodes in order. -/
def treeLevel (t : Nat) (ctl : W32) : List Node → List Node × List Nat
  | p :: q :: ns =>
    let r := combineNodes t ctl p q
    let rest := treeLevel t ctl ns
    (r.1 :: rest.1, r.2 :: rest.2)
  | ns => (ns, [])

/-- All levels: the root, and the flags of every node by level and index. -/
def treeRoot (t : Nat) (ctl : W32) : Nat → List Node → Node × List Nat
  | 0, ns => (ns.headD none, [])
  | k + 1, ns =>
    let l := treeLevel t ctl ns
    let r := treeRoot t ctl k l.1
    (r.1, l.2 ++ r.2)

/-- The reduction of the active lanes: the clamped result and the flags of every node. -/
def reduceTree (s : State) (iss : Issue) (sh : Shape) (f : FV2) : W32 × List Nat :=
  let ctl := fpctlOf s iss
  let act := activeLanes s iss sh
  let fm := if f.t = 1 then 1 else 0
  let leaf := fun l => (elementwise fm (fun m cs => (operandCode m ctl f.na f.xa (cs.getD 0 0), 0)) [operand s iss sh 0 l]).1
  let leaves := (List.range (widthOf s iss)).map fun l => if act.contains l then some (leaf l) else none
  let r := treeRoot f.t.toNat ctl 6 leaves
  ((elementwise fm (fun m cs => (clampCode m f.cl (cs.getD 0 0), 0)) [r.1.getD 0]).1, r.2)

/-- VFRED: an enabled flag of any node traps every active lane with the flags of the first such node. -/
def execVfred (f : FV2) : State → Host.Outcome State Fault Refusal :=
  let sh : Shape := { g := f.g.toNat, vsrc := [f.a.toNat], vdst := [f.d.toNat], wide := true }
  let reads : Reads := fun iss s _ => (activeLanes s iss sh).map fun j => (0, j)
  let first := fun (iss : Issue) (s : State) =>
    (reduceTree s iss sh f).2.find? fun fl => fl &&& enables (fpctlOf s iss) != 0
  let struckBy := fun (iss : Issue) (s : State) =>
    match first iss s with
    | some fl => (activeLanes s iss sh).map fun l => (l, Bad.trap .fpe (BitVec.ofNat 64 fl))
    | none => []
  let write := fun (iss : Issue) (s : State) (lanes : List Nat) =>
    let r := reduceTree s iss sh f
    if lanes.isEmpty then []
    else writeVec s iss f.d.toNat (lanes.map fun l => (l, r.1))
      ++ [.thread iss.thr fun t => t.updRegs fun g =>
            { g with fpstat := g.fpstat ||| BitVec.ofNat 32 (r.2.foldl (· ||| ·) 0) }]
  issue sh
    (fun iss s =>
      let poison := readVerdicts s iss sh reads
      let vs := if poison.isEmpty then struckBy iss s else poison
      [fun s => write iss s (performing s iss sh vs) ++ strike s iss.thr iss.pc iss.lanes vs
        ++ [moveLanes iss (spared s iss vs)]])
    (.own fun iss s =>
      if !(struckBy iss s).isEmpty then none
      else some [fun _ => write iss s (activeLanes s iss sh) ++ [markReads s iss sh reads groupPeers (fun _ => false) f.d.toNat, moveOn iss]])

end Sys2Proof.Machine
end

