-- ==== Sys2Proof/Machine/Convert.lean ====
section
/-! DEFINITION. Group 0x6, special functions, conversions, scales and generators (R138, R144, R150, R163 to
R171). -/

namespace Sys2Proof.Machine

/-! ### Special functions (R163, R164) -/

/-- A special function of FP32. -/
def special (f : FV2) (k : Nat) : State → Host.Outcome State Fault Refusal :=
  floatOp f.g.toNat f.d.toNat [f.a.toNat] (pureOp fun ctl vs =>
    let x := specialFn k (valueOf fp32 (operandCode fp32 ctl f.na f.xa (vs.getD 0 0).toNat))
    let r := finish fp32 ctl f.cl 0 x.1 x.2
    (BitVec.ofNat 32 r.1, r.2))

/-- VRCP. -/
def execVrcp (f : FV2) : State → Host.Outcome State Fault Refusal := special f 0
/-- VRSQ. -/
def execVrsq (f : FV2) : State → Host.Outcome State Fault Refusal := special f 1
/-- VSQRT. -/
def execVsqrt (f : FV2) : State → Host.Outcome State Fault Refusal := special f 2
/-- VEXP2. -/
def execVexp2 (f : FV2) : State → Host.Outcome State Fault Refusal := special f 3
/-- VLOG2. -/
def execVlog2 (f : FV2) : State → Host.Outcome State Fault Refusal := special f 4
/-- VSIN. -/
def execVsin (f : FV2) : State → Host.Outcome State Fault Refusal := special f 5
/-- VCOS. -/
def execVcos (f : FV2) : State → Host.Outcome State Fault Refusal := special f 6
/-- VTANH. -/
def execVtanh (f : FV2) : State → Host.Outcome State Fault Refusal := special f 7

/-! ### Conversions (R144, R165, R166) -/

/-- The narrow formats by their code in `VSCL`, `VQNT` and `VDQNT`. -/
def narrowFormat (k : Nat) : Format :=
  match k with
  | 0 => e4m3
  | 1 => e5m2
  | 2 => e3m2
  | _ => e2m3

/-- The draw of one element: under SR the generator advances and gives 24 bits (R144). -/
def drawFrom (ctl g : W32) : Option Nat × W32 :=
  if ctl.toNat.testBit 4 then (some ((advanceGen g).toNat / 2 ^ 8), advanceGen g) else (none, g)

/-- One element converted into a format. -/
def convertTo (f : Format) (ctl : W32) (draw : Option Nat) (sc : Int) (x : Val) : Nat × Nat :=
  let r := roundTo f (converting ctl draw) (x.exact.scale sc)
  (r.1, r.2 ||| invalidIf x.signals)

/-- FP32 to an integer range (R166). -/
def toInteger (mode : Nat) (lo hi : Int) (x : Val) : Int × Nat :=
  match x with
  | .nan _ => (0, flagNV)
  | .inf neg => (if neg then lo else hi, flagNV)
  | .fin neg m e =>
    let (i, r, d) := inUnits m 1 e 0
    let n : Int := roundUnits mode neg i r d
    let v := if neg then -n else n
    if v < lo then (lo, flagNV) else if hi < v then (hi, flagNV) else (v, if r = 0 then 0 else flagNX)

/-- An integer as an exact value. -/
def exactInt (x : Int) : Exact := .fin (x < 0) x.natAbs 1 0

/-- VCVT. -/
def cvtOp (f : FV2) : FloatOp := fun ctl g vs =>
  let a := vs.getD 0 0
  let fa := valueOf fp32 (operandCode fp32 ctl f.na f.xa a.toNat)
  let fb := valueOf fp32 (operandCode fp32 ctl f.nb f.xb (vs.getD 1 0).toNat)
  let sc := f.sc.toInt
  let wide := fun (x : Exact) (flags : Nat) =>
    let r := finish fp32 ctl f.cl sc x flags
    ({ value := BitVec.ofNat 32 r.1, flags := r.2, gen := g } : LaneOut)
  let half := fun (code : Nat) =>
    let x := valueOf bf16 (operandCode bf16 ctl f.na f.xa code)
    wide x.exact (invalidIf x.signals)
  let int := fun mode (lo hi : Int) =>
    let r := toInteger mode lo hi fa
    ({ value := BitVec.ofInt 32 r.1, flags := r.2, gen := g } : LaneOut)
  match f.t.toNat with
  | 0x0 =>
    let d1 := drawFrom ctl g
    let d2 := drawFrom ctl d1.2
    let lo := convertTo bf16 ctl d1.1 sc fa
    let hi := convertTo bf16 ctl d2.1 sc fb
    { value := BitVec.ofNat 32 (clampCode bf16 f.cl lo.1 + clampCode bf16 f.cl hi.1 * 2 ^ 16), flags := lo.2 ||| hi.2, gen := d2.2 }
  | 0x1 => half (a.toNat % 2 ^ 16)
  | 0x2 => half (a.toNat / 2 ^ 16)
  | 0x3 => int (ctl.toNat % 4) (-2 ^ 31) (2 ^ 31 - 1)
  | 0x4 => int (ctl.toNat % 4) 0 (2 ^ 32 - 1)
  | 0x5 => wide (exactInt a.toInt) 0
  | 0x6 => wide (exactInt a.toNat) 0
  | 0x7 => int 1 (-2 ^ 31) (2 ^ 31 - 1)
  | 0x8 | 0x9 | 0xA | 0xB =>
    let d := drawFrom ctl g
    let r := convertTo (narrowFormat (f.t.toNat - 8)) ctl d.1 sc fa
    { value := BitVec.ofNat 32 r.1, flags := r.2, gen := d.2 }
  | k =>
    let fm := narrowFormat (k - 0xC)
    wide (valueOf fm (a.toNat % 2 ^ (fm.signBit + 1))).exact 0

/-- VCVT. -/
def execVcvt (f : FV2) : State → Host.Outcome State Fault Refusal :=
  floatOp f.g.toNat f.d.toNat (if f.t = 0 then [f.a.toNat, f.b.toNat] else [f.a.toNat]) (cvtOp f)

/-! ### Block scales (R150, R167 to R169) -/

/-- The lanes of a lane's block of 32. -/
def blockLanes (s : State) (iss : Issue) (sh : Shape) (l : Nat) : List Nat :=
  (activeLanes s iss sh).filter fun j => j / 32 == l / 32

/-- VSCL. -/
def execVscl (f : FV2) : State → Host.Outcome State Fault Refusal :=
  let sh : Shape := { g := f.g.toNat, vsrc := [f.a.toNat], vdst := [f.d.toNat], wide := true }
  let reads : Reads := fun iss s l => (blockLanes s iss sh l).map fun j => (0, j)
  exchange sh f.d.toNat reads (fun iss _ l => (lanesOf iss.lanes).filter fun j => j / 32 == l / 32) fun iss s l =>
    let ctl := fpctlOf s iss
    let vals := (blockLanes s iss sh l).map fun j => valueOf fp32 (operandCode fp32 ctl f.na f.xa (operand s iss sh 0 j).toNat)
    some (BitVec.ofNat 32 (scaleFor (narrowFormat f.t.toNat) (amaxOf vals)))

/-- One element quantised by a scale code. -/
def quantise (fm : Format) (ctl g : W32) (scale : Nat) (x : Val) : LaneOut :=
  let d := drawFrom ctl g
  match scaleOf scale with
  | none => { value := BitVec.ofNat 32 fm.nanCode, flags := invalidIf fm.nan.isNone, gen := d.2 }
  | some s =>
    let r := roundTo fm (converting ctl d.1) (x.exact.scaledDown s)
    { value := BitVec.ofNat 32 r.1, flags := r.2 ||| invalidIf x.signals, gen := d.2 }

/-- VQNT. -/
def execVqnt (f : FV2) : State → Host.Outcome State Fault Refusal :=
  floatOp f.g.toNat f.d.toNat [f.a.toNat, f.b.toNat] fun ctl g vs =>
    quantise (narrowFormat f.t.toNat) ctl g ((vs.getD 1 0).toNat % 1024)
      (valueOf fp32 (operandCode fp32 ctl f.na f.xa (vs.getD 0 0).toNat))

/-- VDQNT. -/
def execVdqnt (f : FV2) : State → Host.Outcome State Fault Refusal :=
  floatOp f.g.toNat f.d.toNat [f.a.toNat, f.b.toNat] (pureOp fun ctl vs =>
    let fm := narrowFormat f.t.toNat
    let x := valueOf fm ((vs.getD 0 0).toNat % 2 ^ (fm.signBit + 1))
    let e := match scaleOf ((vs.getD 1 0).toNat % 1024) with
      | none => Exact.nan
      | some s => x.exact.times s
    let r := finish fp32 ctl f.cl f.sc.toInt e 0
    (BitVec.ofNat 32 r.1, r.2))

/-! ### Packing (R170) -/

/-- The field width. -/
def packWidth (t : Nat) : Nat :=
  match t with
  | 0 => 4
  | 1 => 6
  | 2 => 8
  | _ => 16

/-- VPACK: the rest of d keeps its value. -/
def execVpack (f : FV2) : State → Host.Outcome State Fault Refusal :=
  let d := f.d.toNat
  let w := packWidth f.t.toNat
  let sh : Shape := { g := f.g.toNat, vsrc := [f.a.toNat], vmore := [d], vdst := [d] }
  let low : W32 := BitVec.ofNat 32 (2 ^ w - 1)
  let put := fun (old a : W32) =>
    let at_ := w * f.b.toNat
    (old &&& ~~~(low <<< at_)) ||| ((a &&& low) <<< at_)
  issue sh fun iss s =>
    let vs := poisonVerdicts s iss sh
    [fun s => writeVec s iss d ((performing s iss sh vs).map fun l =>
        (l, put (vreg s iss d l) (operand s iss sh 0 l)))
      ++ strike s iss.thr iss.pc iss.lanes vs ++ [moveLanes iss (spared s iss vs)]]

/-- VUNPK. -/
def execVunpk (f : FV2) : State → Host.Outcome State Fault Refusal :=
  let w := packWidth f.t.toNat
  vectorOp f.g.toNat f.d.toNat [f.a.toNat] fun v =>
    (v.getD 0 0 >>> (w * f.b.toNat)) &&& BitVec.ofNat 32 (2 ^ w - 1)

/-! ### VRAND (R171) -/

/-- VRAND. -/
def execVrand (f : FV2) : State → Host.Outcome State Fault Refusal :=
  floatOp f.g.toNat f.d.toNat [] fun _ g _ =>
    let g := advanceGen g
    let real := (roundTo fp32 {} (.fin false (g.toNat / 2 ^ 8) 1 (-24))).1
    { value := if f.t = 0 then g else BitVec.ofNat 32 real, gen := g }

end Sys2Proof.Machine
end

