-- ==== Sys2Proof/Machine/Firmware.lean ====
section
/-! DEFINITION. Harbour interrupts and timers, the lock-step pair, live update over PLDM, attestation over SPDM
and telemetry (R388, R423 to R438). The codes of PLDM (DSP0267) and SPDM (DSP0274) are PRESUMED from those
standards (log entry 42). -/

namespace Sys2Proof.Machine

/-! ### Interrupts and timers (R388, R425 to R427) -/

/-- HARBOUR_INTERRUPT (R388, R426): an inter-die message, a base-die, thermal or token interrupt (classes 3 to 6)
arrives at core 0 of a die; the other classes have been made pending by what raises them. The core goes on if its
`HALT` names a class that is pending. -/
def execHarbourInterrupt (die core cls : Nat) (s : State) : Host.Outcome State Fault Refusal :=
  .next <|
    if die < 4 ∧ core < 5 then
      let arrives := decide (core = 0 ∧ 3 ≤ cls ∧ cls ≤ 6)
      wakeHalt die core (run [fun _ => if arrives then [pend die core cls] else []] s)
    else s

/-- HTIMER_EXPIRY (R425, R426): the time in HTIMER has come, and class 2 becomes pending once. -/
def execHtimerExpiry (die core : Nat) (s : State) : Host.Outcome State Fault Refusal :=
  .next <|
    let d := s.die die
    let at_ := look 0 d.htimer core
    if die < 4 ∧ core < 5 ∧ at_ ≠ 0 ∧ at_ ≤ s.dtAt die ∧ !d.rung.contains core then
      wakeHalt die core (run [fun _ => [pend die core 2, .die die fun d => { d with rung := core :: d.rung }]] s)
    else s

/-- WATCHDOG_KICK (R427). -/
def execWatchdogKick (die : Nat) (s : State) : Host.Outcome State Fault Refusal :=
  .next (if die < 4 then run [fun s => [.die die fun d => { d with kickAt := s.dtAt die, kicked := false }]] s else s)

/-- TTHRESH_WRITE (R427). -/
def execTthreshWrite (die value : Nat) (s : State) : Host.Outcome State Fault Refusal :=
  .next (if die < 4 then run [fun _ => [.die die fun d => d.writeTthresh (num value)]] s else s)

/-! ### Inter-die messages (R432) -/

/-- A die writes to another: the message carries the sender's PROTOMAJ and PROTOMIN, is written in the lower of the two
minors, and makes class 3 pending. -/
def sendDieMail (src dst : Nat) (body : W64) (s : State) : State :=
  let f := (s.die src).fw
  if src < 4 ∧ dst < 4 ∧ src ≠ dst then
    run [fun s => [.sys fun y => { y with dieMail := y.dieMail ++
      [{ src, dst, major := f.major, minor := f.minor, written := min f.minor (s.die dst).fw.minor, body }] }, pend dst 0 3]] s
  else s

/-- A die takes the oldest message to it. -/
def takeDieMail (die : Nat) (s : State) : State :=
  match s.sys.dieMail.find? fun m => m.dst == die with
  | some m => run [fun _ => [.sys fun y => { y with dieMail := y.dieMail.erase m }]] s
  | none => s

/-! ### The lock-step pair (R424) -/

/-- The pair restarts from the active bank, or a second mismatch within 1 s resets the die. -/
def restartPair (die : Nat) (s : State) : State :=
  let soon := match (s.die die).mismatchAt with
    | some t => decide (s.sys.dt ≤ t + 1000000000)
    | none => false
  if soon then resetDie die s
  else
    run [fun s => dropThread s (harbourKey die 0),
         fun s => [.die die fun d => { d with restart := true, mismatchAt := some s.sys.dt, kickAt := s.dtAt die, kicked := false }]] s

/-- PAIR_MISMATCH (R424). -/
def execPairMismatch (die : Nat) (s : State) : Host.Outcome State Fault Refusal :=
  .next (if die < 4 then restartPair die s else s)

/-- PAIR_RESTART_END (R424): what the pair had to defer goes on. -/
def execPairRestartEnd (die : Nat) (s : State) : Host.Outcome State Fault Refusal :=
  .next (if (s.die die).restart then run [fun _ => [.die die fun d => { d with restart := false }], askDeferred die] s else s)

/-- LIVENESS_TIMEOUT (R424, R427): expiry makes class 7 pending; a second one restarts the pair. -/
def execLivenessTimeout (die : Nat) (s : State) : Host.Outcome State Fault Refusal :=
  .next <|
    let d := s.die die
    if die < 4 ∧ d.kickAt + 1000 * d.kickto ≤ s.dtAt die then
      if d.kicked then restartPair die s
      else
        wakeHalt die 0 (run [fun s => [pend die 0 7, .die die fun d => { d with kickAt := s.dtAt die, kicked := true }]] s)
    else s

/-! ### PLDM firmware update (R429, R430) -/

/-- A state's number, as GetStatus gives it. -/
def Pldm.code : Pldm → Nat
  | .idle => 0 | .learn => 1 | .ready => 2 | .download => 3 | .verify => 4 | .apply => 5 | .activate => 6

/-- Completion codes. -/
def pldmOk : Nat := 0
def notInUpdate : Nat := 0x80
def alreadyInUpdate : Nat := 0x81
def wrongState : Nat := 0x84
def incompleteUpdate : Nat := 0x85

/-- PLDM travels in an SPDM session and is served by die 0's pair. -/
def pldmServed (s : State) : Bool := s.sys.spdm.session == 2 && !(s.die 0).restart && !(s.die 0).handover

/-- A PLDM message goes out and the update takes a state. -/
def pldmTo (p : Pldm) (cmd status : Nat) (data : List Nat := []) : Phase := fun _ =>
  [send (.pldm cmd status data), .sys fun y => { y with pldm := p }]

/-- A PLDM command is served, or waits. -/
def pldm (ps : State → List Phase) (s : State) : Host.Outcome State Fault Refusal :=
  .next (if pldmServed s then run (ps s) s else s)

/-- A command that is permitted in some states of an update. -/
def pldmIn (cmd : Nat) (ok : Pldm → Bool) (ps : State → List Phase) : State → Host.Outcome State Fault Refusal :=
  pldm fun s =>
    let p := s.sys.pldm
    if ok p then ps s else [pldmTo p cmd (if p = .idle then notInUpdate else wrongState)]

/-- QUERY_DEVICE_IDENTIFIERS (R429): the spec gives no identifiers. -/
def execQueryDeviceIdentifiers : State → Host.Outcome State Fault Refusal :=
  pldm fun s => [pldmTo s.sys.pldm 0x01 pldmOk]

/-- GET_FIRMWARE_PARAMETERS (R429): the one component's active and pending versions. -/
def execGetFirmwareParameters : State → Host.Outcome State Fault Refusal :=
  pldm fun s => [pldmTo s.sys.pldm 0x02 pldmOk [(s.die 0).fw.version, if s.sys.pldm = .idle then 0 else s.sys.staged.version]]

/-- REQUEST_UPDATE (R429). -/
def execRequestUpdate : State → Host.Outcome State Fault Refusal :=
  pldm fun s => if s.sys.pldm = .idle then [pldmTo .learn 0x10 pldmOk] else [pldmTo s.sys.pldm 0x10 alreadyInUpdate]

/-- PASS_COMPONENT_TABLE (R429): there is one component. -/
def execPassComponentTable : State → Host.Outcome State Fault Refusal :=
  pldmIn 0x13 (· == .learn) fun _ => [pldmTo .ready 0x13 pldmOk]

/-- Every die's STATE changes as a function says. -/
def eachDie (f : Firmware → Firmware) : Phase := fun _ => (List.range 4).map fun d => .die d fun x => { x with fw := f x.fw }

/-- The time for which all dies have been RUNNING begins anew (R433). -/
def restartRun : Phase := fun s => [.sys fun y => { y with running := s.sys.dt }]

/-- UPDATE_COMPONENT (R428, R429): staging begins. -/
def execUpdateComponent : State → Host.Outcome State Fault Refusal :=
  pldmIn 0x14 (· == .ready) fun _ => [pldmTo .download 0x14 pldmOk, eachDie fun f => { f with state := 1 }]

/-- REQUEST_FIRMWARE_DATA (R429): the device asks for at most 4,096 bytes. -/
def execRequestFirmwareData (offset length : Nat) : State → Host.Outcome State Fault Refusal :=
  pldm fun s =>
    if s.sys.pldm = .download ∧ 1 ≤ length ∧ length ≤ 4096 then [pldmTo .download 0x15 pldmOk [offset, length]] else []

/-- TRANSFER_COMPLETE (R429). -/
def execTransferComplete : State → Host.Outcome State Fault Refusal :=
  pldm fun s => if s.sys.pldm = .download then [pldmTo .verify 0x16 pldmOk] else []

/-- An image verifies, against the key of the configuration record (R430). -/
def verifies (s : State) (i : Image) : Bool :=
  i.signed && i.key == s.sys.imageKey && (List.range 4).all fun d => decide ((s.die d).fw.arctr ≤ i.svn) && (s.die d).fw.major == i.major

/-- VERIFY_COMPLETE (R430): a verified image is written to the inactive bank of every die; otherwise nothing is
staged. -/
def execVerifyComplete (i : Image) : State → Host.Outcome State Fault Refusal :=
  pldm fun s =>
    if s.sys.pldm ≠ .verify then []
    else if verifies s i then
      [pldmTo .apply 0x17 pldmOk, fun _ => [.sys fun y => { y with staged := i }],
       eachDie fun f => { f with state := 2, newSvn := i.svn, newMinor := i.minor, newMajor := i.major, newVersion := i.version
                                 newDigest := i.digest }]
    else [pldmTo .ready 0x17 1, eachDie fun f => { f with state := 0 }, restartRun]

/-- APPLY_COMPLETE (R429). -/
def execApplyComplete : State → Host.Outcome State Fault Refusal :=
  pldm fun s => if s.sys.pldm = .apply then [pldmTo .ready 0x18 pldmOk] else []

/-- Every die has the image staged. -/
def allStaged (s : State) : Bool := (List.range 4).all fun d => (s.die d).fw.state == 2

/-- ACTIVATE_FIRMWARE (R431): the handovers may begin. -/
def execActivateFirmware : State → Host.Outcome State Fault Refusal :=
  pldmIn 0x1A (· == .ready) fun s => 
    if allStaged s then [pldmTo .activate 0x1A pldmOk, eachDie fun f => { f with switched := false }]
    else [pldmTo .ready 0x1A incompleteUpdate]

/-- GET_STATUS (R429, R433): the state of the update, and each die's STATE, among which a failure shows. -/
def execGetStatus : State → Host.Outcome State Fault Refusal :=
  pldm fun s => [pldmTo s.sys.pldm 0x1B pldmOk (s.sys.pldm.code :: (List.range 4).map fun d => (s.die d).fw.state)]

/-- STATE after a cancellation: what was being staged is staged no longer. -/
def Firmware.unstage (f : Firmware) : Firmware := if f.state = 1 ∨ f.state = 2 then { f with state := 0 } else f

/-- CANCEL_UPDATE_COMPONENT (R429). -/
def execCancelUpdateComponent : State → Host.Outcome State Fault Refusal :=
  pldmIn 0x1C (fun p => p == .download || p == .verify || p == .apply)
    fun _ => [pldmTo .ready 0x1C pldmOk, eachDie Firmware.unstage, restartRun]

/-- CANCEL_UPDATE (R429). -/
def execCancelUpdate : State → Host.Outcome State Fault Refusal :=
  pldmIn 0x1D (fun p => p != .idle && p != .activate) 
    fun _ => [pldmTo .idle 0x1D pldmOk, eachDie Firmware.unstage, restartRun]

/-! ### The handover (R431 to R433) -/

/-- The messages that a die's workers had to leave become deliverable. -/
def resumeWorkers (die : Nat) : Phase := fun s =>
  (keysOf (s.ctxs.filter fun c => c.2.live && dieOfCluster c.2.home == die)).map fun n =>
    .ctx n fun c => (List.range 4).foldl (fun c b => c.updIn b fun r => r.advance 64) c

/-- The first report that a die owes is sent. -/
def sendOwed (die : Nat) : Phase := fun s =>
  match (s.die die).owed with
  | [] => []
  | x :: _ =>
    .die die (fun d => { d with owed := d.owed.drop 1 })
      :: if x < 2 ^ 16 then telemeter s die x else noteOverflow s ((x - 2 ^ 16) / 8) ((x - 2 ^ 16) % 8) 0

/-- What a die in a handover had to leave goes on: mailboxes, second-stage faults, telemetry (R431). -/
def endHandover (die : Nat) (s : State) : State :=
  run (resumeWorkers die :: askDeferred die :: List.replicate (s.die die).owed.length (sendOwed die)) s

/-- The firmware of a die that switches banks runs the new image. -/
def Firmware.switch (dt : Nat) (f : Firmware) : Firmware :=
  { f with state := 0, bank := 1 - f.bank, pend := true, switched := true, since := dt, svn := f.newSvn, minor := f.newMinor
           major := f.newMajor, version := f.newVersion, digest := f.newDigest
           newSvn := f.svn, newMinor := f.minor, newMajor := f.major, newVersion := f.version, newDigest := f.digest }

/-- A die runs the image of the last activation (R433). -/
def onNew (s : State) (die : Nat) : Bool := (s.die die).fw.state == 0 && (s.die die).fw.switched

/-- A die is the next to be handed over: every die below it has been. -/
def nextToHand (s : State) (die : Nat) : Bool :=
  s.sys.pldm == .activate && (s.die die).fw.state == 2 && (List.range die).all (onNew s)

/-- DIE_HANDOVER (R431): the next step of a die's handover. With the last die the update is over. -/
def execDieHandover (die : Nat) (s : State) : Host.Outcome State Fault Refusal :=
  .next <|
    let f := (s.die die).fw
    let inTime := decide (s.sys.dt ≤ f.since + 5000000)
    if 4 ≤ die then s
    else if f.state = 3 ∧ inTime then
      run [dropHarbour die, fun _ => [.die die fun d => { d with fw := { d.fw with state := 4 } }]] s
    else if f.state = 4 ∧ inTime then
      endHandover die (run [fun s => [.die die fun d => { d with fw := d.fw.switch s.sys.dt }],
           fun s => if die = 3 then [.sys fun y => { y with pldm := .idle, running := s.sys.dt }] else []] s)
    else if nextToHand s die ∧ !(s.die die).restart then
      run [fun s => [.die die fun d => { d with fw := { d.fw with state := 3, since := s.sys.dt } }]] s
    else s

/-- HANDOVER_FAILURE (R433): the die restarts from its old bank and the update stops. -/
def execHandoverFailure (die : Nat) (s : State) : Host.Outcome State Fault Refusal :=
  .next <|
    if die < 4 ∧ (s.die die).handover then
      endHandover die (run [dropHarbour die,
           fun s => [.die die fun d => { d with fw := { d.fw with state := 5, since := s.sys.dt } }, .sys fun y => { y with pldm := .idle }]] s)
    else s

/-- The base-die firmware counter may rise at a commit or a record update: by how much is open (R437; log entry 102). -/
def raiseBase : Phase := fun s =>
  [.sys fun y => { y with baseCtr := y.baseCtr + (Config.freeValue s.fresh).toNat % 2 ^ 16 }, .fresh 1]

/-- A configuration record is written to flash by a PLDM update, if it checks: the record counter rises to its SVN, and the
next package cold reset reads it (R436, R437). -/
def updateRecord (r : ConfigRecord) (s : State) : State :=
  if pldmServed s && r.signed && decide (s.sys.recCtr ≤ r.svn) then
    run [fun _ => [.sys fun y => { y with record := r, recCtr := r.svn }], raiseBase] s
  else s

/-- UPDATE_COMMIT (R433, R437). -/
def execUpdateCommit (s : State) : Host.Outcome State Fault Refusal :=
  .next <|
    let ready := (List.range 4).all fun d => onNew s d && (s.die d).fw.pend
    if ready ∧ s.sys.running + 60000000000 ≤ s.sys.dt then
      run [eachDie fun f => { f with arctr := max f.arctr f.svn, pend := false }, raiseBase] s
    else s

/-! ### SPDM (R434, R435) -/

/-- The die that answers: the lowest that is in no handover. -/
def attester (s : State) : Option Nat := (List.range 4).find? fun d => !(s.die d).handover

/-- An SPDM request is answered once the answering die's pair is not restarting (R424). -/
def spdm (ps : State → List Phase) (s : State) : Host.Outcome State Fault Refusal :=
  .next <|
    match attester s with
    | some d => if (s.die d).restart then s else run (ps s) s
    | none => s

/-- An SPDM response, with the connection as it leaves it. -/
def spdmTo (c : Spdm) (code : Nat) (data : List Nat := []) : Phase := fun _ =>
  [send (.spdm code 0 data), .sys fun y => { y with spdm := c }, .fresh 1]

/-- An SPDM error response: 1 invalid request, 4 unexpected request. -/
def spdmError (code : Nat) : Phase := fun _ => [send (.spdm 0x7F code [])]

/-- A request that needs a connection in some state. -/
def spdmIn (ok : Spdm → Bool) (ps : State → List Phase) : State → Host.Outcome State Fault Refusal :=
  spdm fun s => if ok s.sys.spdm then ps s else [spdmError 4]

/-- Bytes whose value the spec does not state: digests, certificates, signatures, key shares. -/
def openData (s : State) : List Nat := [(Config.freeValue s.fresh).toNat]

/-- GET_VERSION (R434): version 1.3 only; the connection begins anew. -/
def execGetVersion : State → Host.Outcome State Fault Refusal :=
  spdm fun _ => [spdmTo { version := true } 0x04 [0x13]]

/-- GET_CAPABILITIES (R434). -/
def execGetCapabilities : State → Host.Outcome State Fault Refusal :=
  spdmIn (·.version) fun s => [spdmTo { s.sys.spdm with caps := true } 0x61]

/-- NEGOTIATE_ALGORITHMS (R434): ML-DSA-65, SHAKE256, ML-KEM-768 and AES-256-GCM. -/
def execNegotiateAlgorithms : State → Host.Outcome State Fault Refusal :=
  spdmIn (·.caps) fun s => [spdmTo { s.sys.spdm with algs := true } 0x63 [65, 256, 768, 256]]

/-- GET_DIGESTS (R434). -/
def execGetDigests : State → Host.Outcome State Fault Refusal :=
  spdmIn (·.algs) fun s => [spdmTo s.sys.spdm 0x01 (openData s)]

/-- GET_CERTIFICATE (R434): slot 0 alone holds a chain. -/
def execGetCertificate (slot offset length : Nat) : State → Host.Outcome State Fault Refusal :=
  spdmIn (·.algs) fun s =>
    if slot = 0 then [spdmTo s.sys.spdm 0x02 (offset :: length :: openData s)] else [spdmError 1]

/-- CHALLENGE (R434). -/
def execChallenge (slot : Nat) : State → Host.Outcome State Fault Refusal :=
  spdmIn (·.algs) fun s => if slot = 0 then [spdmTo s.sys.spdm 0x03 (openData s)] else [spdmError 1]

/-- A die's entry in a measurement report (R435). -/
def measurement (s : State) (d : Nat) : List Nat :=
  let f := (s.die d).fw
  [d, f.state, f.version, f.svn, f.digest] ++ (if (s.die d).handover then [f.newVersion, f.newDigest] else [])
    ++ [f.bank, if f.pend then 1 else 0]

/-- GET_MEASUREMENTS (R435): the answering die, one entry for each die, and the signature. It waits for the share of a die
whose pair restarts (R424). -/
def execGetMeasurements : State → Host.Outcome State Fault Refusal :=
  fun s =>
    if (List.range 4).any fun d => (s.die d).restart then .next s
    else
      spdmIn (·.algs) (fun s =>
        [spdmTo s.sys.spdm 0x60 ((attester s).getD 0 :: (List.range 4).flatMap (measurement s) ++ openData s)]) s

/-- KEY_EXCHANGE (R434). -/
def execKeyExchange : State → Host.Outcome State Fault Refusal :=
  spdmIn (fun c => c.algs && c.session == 0) fun s => [spdmTo { s.sys.spdm with session := 1 } 0x64 (openData s)]

/-- FINISH (R434): the session is open. -/
def execFinish : State → Host.Outcome State Fault Refusal :=
  spdmIn (·.session == 1) fun s => [spdmTo { s.sys.spdm with session := 2 } 0x65]

/-- END_SESSION (R434). -/
def execEndSession : State → Host.Outcome State Fault Refusal :=
  spdmIn (·.session == 2) fun s => [spdmTo { s.sys.spdm with session := 0 } 0x6C]

/-! ### Telemetry (R431, R438) -/

/-- The die whose Harbour reports a sensor; none for an identifier that is no sensor's. -/
def sensorDie (id : Nat) : Option Nat :=
  let i := id % 16
  match id / 16 with
  | 0x10 | 0x11 | 0x14 | 0x16 => if i < 4 then some i else none
  | 0x12 | 0x15 => if i < 12 then some (i / 3) else none
  | 0x13 | 0x17 => if i = 0 then some 0 else none
  | _ => none

/-- SENSOR_THRESHOLD_EVENT (R408, R438): paused while the die is in a handover. -/
def execSensorThresholdEvent (sensor : Nat) (s : State) : Host.Outcome State Fault Refusal :=
  .next <|
    match sensorDie sensor with
    | some d => if (s.die d).handover then s else run [fun s => telemeter s d sensor] s
    | none => s

end Sys2Proof.Machine
end

