-- ==== Sys2Proof/Machine/Host.lean ====
section
/-! DEFINITION. What the host does through the BARs: mailboxes and their payloads, the control page, device memory
and the PF's registers (R337, R338, R390 to R395, R402, R403). -/

namespace Sys2Proof.Machine

/-! ### Inbound messages (R337, R338, R359, R393, R395) -/

/-- The messages that a producer index completes are kept as their slots stand. -/
def Ring.complete (r : Ring) (v : Nat) : Ring :=
  let n := (v % 2 ^ 32 + 2 ^ 32 - r.pi) % 2 ^ 32
  let words := (List.range n).flatMap fun i => (List.range 8).map fun w => 8 * ((r.pi + i) % 64) + w
  { r with pi := v % 2 ^ 32, kept := words.foldl (fun m k => put 0 m k (look 0 r.slots k)) r.kept }

/-- A host's write of INPI: it completes messages, of which a MAILBOX event tells the steward and an interrupt
the worker, or it is ignored and sets PIERR. -/
def writeInpi (s : State) (n box v : Nat) : List Micro :=
  let r := (s.ctx n).inRing box
  if within v r.pi 64 && within v r.ci 64 then
    let away := workerAway s n
    [.ctx n fun c =>
      let c := c.updIn box fun r => let r := r.complete v; if away then r else r.advance 64
      c.post 3 (0x0200 + box) (num (c.inRing box).held),
     pend (dieOfCluster (s.ctx n).home) (1 + n % 4) 0]
  else signal s n 4

/-- INBOUND_MESSAGE (R393). -/
def execInboundMessage (n box value : Nat) (s : State) : Host.Outcome State Fault Refusal :=
  .next (if (s.ctx n).live && decide (box < 4) then run [fun s => writeInpi s n box (value % 2 ^ 32)] s else s)

/-- The copy that fetches the payload of a message (R395). -/
def payloadOf (c : Ctx) (n box : Nat) (r : Ring) : Copy :=
  let w := fun i => look 0 r.kept (8 * (r.ready % 64) + i)
  { live := true, owner := .payload n box, thr := orphanKey (4 * n + box), ctx := n, cluster := c.home, accepted := true
    dst := field (w 5) 55 0, src := field (w 6) 55 0, len := field (w 7) 31 0 }

/-- PAYLOAD_COPY (R395): the worker has the copy engine of the home cluster fetch a payload. A byte count out of
its range copies nothing, and the message carries PFAIL. -/
def execPayloadCopy (n box : Nat) (s : State) : Host.Outcome State Fault Refusal :=
  .next <|
    let c := s.ctx n
    let r := c.inRing box
    if c.live && decide (box < 4) && r.fetch.isNone && r.ready != r.pi && r.wantsPayload r.ready && !workerAway s n
        && c.save == .none then
      let x := payloadOf c n box r
      if 1 ≤ x.len ∧ x.len ≤ 65536 then
        run [fun s =>
          [.bump 1, .copy s.fl.next fun _ => x, .cluster c.home fun y => { y with queue := y.queue ++ [s.fl.next] },
           .ctx n fun c => c.updIn box fun r => { r with fetch := some s.fl.next }]] s
      else run [fun _ => copyDone { x with abandoned := true }] s
    else s

/-! ### Outbound messages, notices and interrupts (R337, R393, R394) -/

/-- The notices that wait are written while places are free. -/
def Ctx.drainNotices (c : Ctx) : List (List W64) → Ctx
  | [] => { c with notices := [] }
  | m :: ms => if (c.outRing 3).hasSpace then (c.updOut 3 fun r => r.push m).drainNotices ms else { c with notices := m :: ms }

/-- A host's write of OUTCI: it frees places, or it is ignored and sets PIERR. -/
def writeOutci (s : State) (n box v : Nat) : List Micro :=
  let r := (s.ctx n).outRing box
  if within v r.ci ((r.pi + 2 ^ 32 - r.ci) % 2 ^ 32) then
    let c := (s.ctx n).updOut box fun r => { r with ci := v % 2 ^ 32 }
    let after := if box = 3 then c.drainNotices c.notices else c
    .ctx n (fun x => { x with outb := after.outb, notices := after.notices })
      :: (if after.notices.length < c.notices.length then signal s n 0 else [])
  else signal s n 4

/-- OUTCI_WRITE (R337, R393). -/
def execOutciWrite (n box value : Nat) (s : State) : Host.Outcome State Fault Refusal :=
  .next (if (s.ctx n).live && decide (box < 4) then run [fun s => writeOutci s n box (value % 2 ^ 32)] s else s)

/-- ISTAT's bits that a host writes as one are cleared. -/
def clearIstat (n v : Nat) : Micro := .ctx n fun c => { c with istat := without c.istat (v % 32) }

/-- ISTAT_CLEAR (R394). -/
def execIstatClear (n value : Nat) (s : State) : Host.Outcome State Fault Refusal :=
  .next (if (s.ctx n).live then run [fun _ => [clearIstat n value]] s else s)

/-- A host's write of IMASK: the vector of each bit that it enables and that is set is sent. -/
def writeImask (s : State) (n v : Nat) : List Micro :=
  let c := s.ctx n
  .ctx n (fun c => { c with imask := v % 32 })
    :: (members 5 (without (v % 32) c.imask &&& c.istat)).map fun b => send (.vector c.fn (vectorOf c.fslot b))

/-- IMASK_WRITE (R394). -/
def execImaskWrite (n value : Nat) (s : State) : Host.Outcome State Fault Refusal :=
  .next (if (s.ctx n).live then run [fun s => writeImask s n value] s else s)

/-! ### The fault ring and the reply ring (R372, R392, R403, R406) -/

/-- A host's write of FRCI under the rules of an outbound ring. -/
def writeFrci (s : State) (n v : Nat) : List Micro :=
  let c := s.ctx n
  if within v c.frci ((c.frpi + 2 ^ 32 - c.frci) % 2 ^ 32) then [.ctx n fun c => { c with frci := v % 2 ^ 32 }] else signal s n 4

/-- FRCI_WRITE (R372): records that wait take the places. -/
def execFrciWrite (n value : Nat) (s : State) : Host.Outcome State Fault Refusal :=
  .next (if (s.ctx n).live then run [fun s => writeFrci s n (value % 2 ^ 32), serveRing n] s else s)

/-- SVRCI_WRITE (R403, R406). -/
def execSvrciWrite (value : Nat) (s : State) : Host.Outcome State Fault Refusal :=
  .next (run [fun _ => [.sys fun y => y.writeSvrci value]] s)

/-- REGISTER_WRITE (R3, R402, R403, R427). -/
def execRegisterWrite (r : PfReg) (value : W64) (s : State) : Host.Outcome State Fault Refusal :=
  .next (run [fun s => pfWrite s r value] s)

/-! ### The BARs (R391, R392, R402, R425) -/

/-- The context in a slot of a function. -/
def ctxAt (s : State) (fn slot : Nat) : Option Nat :=
  (s.ctxs.find? fun c => c.2.live && c.2.fn == fn && c.2.fslot == slot).map Prod.fst

/-- A read of the control page (R392). -/
def controlRead (s : State) (n off : Nat) : W64 :=
  let c := s.ctx n
  let i := off % 0x20 / 8
  if off < 0x20 then num (c.inRing i).pi
  else if off < 0x40 then num (c.inRing i).ci
  else if off < 0x60 then num (c.outRing i).pi
  else if off < 0x80 then num (c.outRing i).ci
  else
    match off with
    | 0x80 => num c.frpi
    | 0x88 => num c.frci
    | 0x90 => num c.istat
    | 0x98 => num c.imask
    | 0xA0 => num (n % 64 + c.atoll % 8 * 2 ^ 8 + 2 ^ 16)
    | _ => 0

/-- A write of the control page (R392). -/
def controlWrite (s : State) (n off : Nat) (v : W64) : List Micro :=
  let i := off % 0x20 / 8
  let index := v.toNat % 2 ^ 32
  if off < 0x20 then writeInpi s n i index
  else if 0x60 ≤ off ∧ off < 0x80 then writeOutci s n i index
  else
    match off with
    | 0x88 => writeFrci s n index
    | 0x90 => [clearIstat n v.toNat]
    | 0x98 => writeImask s n v.toNat
    | _ => []

/-- A read of the window of a context slot (R391). -/
def windowRead0 (s : State) (n off : Nat) : W64 :=
  let c := s.ctx n
  if off < 0x4000 then look 0 (c.inRing (off / 0x1000)).slots (off % 0x1000 / 8)
  else if off < 0x8000 then look 0 (c.outRing (off / 0x1000 - 4)).slots (off % 0x1000 / 8)
  else if off < 0x8100 then controlRead s n (off - 0x8000) else 0

/-- A write of the window of a context slot (R391). -/
def windowWrite0 (s : State) (n off : Nat) (v : W64) : List Micro :=
  if off < 0x4000 then
    [.ctx n fun c => c.updIn (off / 0x1000) fun r => { r with slots := put 0 r.slots (off % 0x1000 / 8) v }]
  else if 0x8000 ≤ off ∧ off < 0x8100 then controlWrite s n (off - 0x8000) v
  else []

/-- The physical address that an offset of BAR2 names, if the function is enabled and the address is one of the atoll that
FNCFG gives its BAR2 (R391, R402). -/
def bar2Address (s : State) (fn off : Nat) : Option Nat :=
  let w := look 0 s.sys.fncfg fn
  let pa := field w 51 36 * 2 ^ 36 + off
  if has w.toNat 0 && decide (off < 2 ^ 36) && ownedBy s (field w 10 8) pa then some pa else none

/-- The answer to a host's read. -/
def answer (v : W64) : List Micro := [send (.barData v)]

/-- An access of `size` bytes touches these bytes of its aligned 8-byte words: the word, and which of its bytes with the
byte of the access. -/
def barWords (offset size : Nat) : List (Nat × List (Nat × Nat)) :=
  (distinct ((List.range size).map fun i => (offset + i) / 8)).map fun w =>
    (8 * w, ((List.range size).filter fun i => (offset + i) / 8 == w).map fun i => ((offset + i) % 8, i))

/-- Byte `i` of a word. -/
def byteAt (v : W64) (i : Nat) : W64 := (v >>> (8 * i)) &&& 0xFF

/-- What a read of words gives, byte by byte. -/
def gather (ws : List (Nat × List (Nat × Nat))) (read : Nat → W64) : W64 :=
  ws.foldl (fun x w => w.2.foldl (fun x b => x ||| (byteAt (read w.1) b.1 <<< (8 * b.2))) x) 0

/-- A word with the bytes that a write gives it. -/
def blend (old v : W64) (bs : List (Nat × Nat)) : W64 :=
  bs.foldl (fun x b => (x &&& ~~~((0xFF : W64) <<< (8 * b.1))) ||| (byteAt v b.2 <<< (8 * b.1))) old

/-- The bits of a word that a write changes. -/
def blendMask (bs : List (Nat × Nat)) : Nat := bs.foldl (fun m b => m ||| 255 * 2 ^ (8 * b.1)) 0

/-- A message slot, which a host reads and writes in any bytes; the registers of the control page take aligned 8-byte
accesses alone (R391, R392). -/
def ofSlots (off : Nat) : Bool := decide (off % 0x10000 < 0x8000)

/-- HOST_BAR_ACCESS (R228, R391, R392, R425): a host's read or write of 1 to 8 bytes through BAR0 or BAR2 of a
function, or BAR4 of the PF. Registers take aligned 8-byte accesses (log entry 103). Anything else reads zero and writes
nothing. -/
def execHostBarAccess (fn bar offset : Nat) (act : BarAct) (s : State) : Host.Outcome State Fault Refusal :=
  .next <|
    let whole := act.size == 8 && offset % 8 == 0
    let ws := if 1 ≤ act.size ∧ act.size ≤ 8 then barWords offset act.size else []
    match bar with
    | 0 =>
      let reach := fun off => if (whole || ofSlots off) && decide (off < 2 ^ 20) then ctxAt s fn (off / 0x10000) else none
      match act.write with
      | none => run [fun s => answer (gather ws fun off => match reach off with
          | some n => windowRead0 s n (off % 0x10000)
          | none => 0)] s
      | some v => ws.foldl (fun s w => match reach w.1 with
          | some n =>
            run [fun s => windowWrite0 s n (w.1 % 0x10000) (blend (if ofSlots w.1 then windowRead0 s n (w.1 % 0x10000) else 0) v w.2),
                 serveRing n] s
          | none => s) s
    | 2 =>
      match act.write with
      | none => run [fun s => answer (gather ws fun off => match bar2Address s fn off with
          | some pa => dword s (forward s .dev pa)
          | none => 0)] s
      | some v =>
        if ws.any fun w => match bar2Address s fn w.1 with | some pa => pageHeld s .dev pa | none => false then s
        else
          run (ws.map fun w s => match bar2Address s fn w.1 with
            | some pa => storeAt s .dev 64 (forward s .dev pa) 8 (blendMask w.2) (blend 0 v w.2).toNat
            | none => []) s
    | 4 =>
      let mine := fn == 0 && whole && decide (offset < 2 ^ 26)
      match act.write with
      | none => run [fun s => answer (if mine then harbourRead s (offset / 2 ^ 24) (offset % 2 ^ 24) else 0)] s
      | some v => if mine then run [fun s => harbourWrite s .host (offset / 2 ^ 24) (offset % 2 ^ 24) v] s else s
    | _ => match act.write with
      | none => run [fun _ => answer 0] s
      | some _ => s

end Sys2Proof.Machine
end

