-- ==== Sys2Proof/Machine/Ordering.lean ====
section
/-! DEFINITION. Group 0x8, ordering, and the releases that it brings (R209 to R214). -/

namespace Sys2Proof.Machine

/-- FENCE (R210, R211): at warp scope it moves on at once; any other holds its group. -/
def execFence (f : FB) : State → Host.Outcome State Fault Refusal :=
  let kind := match f.n.toNat with
    | 0 => FenceKind.full
    | 1 => .rel
    | _ => .acq
  let scope := f.cc.toNat
  issue { engines := ctlEngines }
    (fun iss _ =>
      [fun _ => [if scope = 0 then moveOn iss else holdLanes iss iss.lanes (.fence kind scope iss.start .move)]])
    .skip

/-- No earlier load or atomic of the thread is still to write a vector register (R307), which other instructions do
within their latencies. -/
def vectorsWritten (s : State) (k before : Nat) : Bool :=
  (opsOf s k).all fun o => decide (before ≤ o.1) || o.2.dsts.all fun d => match d with | .v _ _ => false | _ => true

/-- FENCE_RELEASE (R100, R211, R212, R307): the conditions of a held fence hold, and its group does what it
was held for. -/
def execFenceRelease (thr lane : Nat) (s : State) : Host.Outcome State Fault Refusal :=
  .next <|
    let t := s.thread thr
    let x := t.lane lane
    match x.hold with
    | .fence kind scope before next =>
      let mask := heldGroup t lane
      if releasable s thr lane && fenceHolds s thr kind scope before then
        runThread thr [fun _ => fenceLinks thr scope,
          fun _ => [match next with
            | .move | .done => .thread thr fun t => t.moveOn x.pc mask 8
            | .access => .thread thr fun t => t.updLanes mask fun l => { l with hold := .passed }
            | .arrive op mem => arriveLanes thr mask op mem]] s
      else s
    | .written before until_ =>
      if releasable s thr lane && vectorsWritten s thr before && decide (until_ ≤ tickOf s t) then
        runThread thr [fun _ => [.thread thr fun t => t.moveOn x.pc (heldGroup t lane) 8]] s
      else s
    | _ => s

/-- Every store-like access that the warp issued in an earlier fc has returned its time. -/
def storesReturned (iss : Issue) (s : State) : Bool :=
  (opsOf s iss.thr).all fun o => decide (iss.start ≤ o.1) || !awaitedStore o.2

/-- GWCT (R213). -/
def execGwct (f : FB) : State → Host.Outcome State Fault Refusal :=
  let sd := f.s.toNat
  issue { engines := ctlEngines, sdst := [sd] }
    (fun iss s => [fun _ => [writeS iss.thr sd (BitVec.ofNat 64 (s.thread iss.thr).lgw), moveOn iss]])
    .skip storesReturned

/-- TWAIT (R214). -/
def execTwait (f : FB) : State → Host.Outcome State Fault Refusal :=
  let sa := f.s.toNat
  issue { engines := ctlEngines, ssrc := [sa] }
    (fun iss s =>
      let target := (scalar s iss sa + f.off.signExtend 64).toNat
      [fun _ => [if target ≤ dtOf s (s.thread iss.thr) then moveOn iss else holdLanes iss iss.lanes (.until target)]])
    .skip

/-- TWAIT_RELEASE (R214). -/
def execTwaitRelease (thr lane : Nat) (s : State) : Host.Outcome State Fault Refusal :=
  .next <|
    let t := s.thread thr
    let x := t.lane lane
    match x.hold with
    | .until target =>
      if releasable s thr lane && decide (target ≤ dtOf s t) then
        runThread thr [fun _ => [.thread thr fun y => y.moveOn x.pc (heldGroup t lane) 8]] s
      else s
    | _ => s

end Sys2Proof.Machine
end

