-- ==== Sys2Proof/Machine/Select.lean ====
section
/-! DEFINITION. Fetching the instruction of a PC group, and what an fc of an engine issues (R28, R53,
R75 to R80, R85, R96, R277, R370, R412). -/

namespace Sys2Proof.Machine

/-! ### Fetching -/

/-- A lane of a thread that may issue: running in a group that holds for nothing, in the episode if its
warp is in one (R75, R260). -/
def issuable (t : Thread) (l : Nat) : Bool :=
  let x := t.lane l
  let inside := match t.episode with
    | some e => has e.lanesIn l
    | none => true
  x.live && x.state == .running && x.need == .none && (x.hold == .none || x.hold == .passed)
    && has t.regs.em.toNat l && inside

/-- The lanes of an issue that still stand at its instruction. -/
def stillThere (s : State) (iss : Issue) : Nat :=
  let t := s.thread iss.thr
  setOf ((members t.width iss.lanes).filter fun l => issuable t l && (t.lane l).pc == iss.pc)

/-- What fetching the instruction of an issue comes to. -/
inductive Fetched
  | spent (s : State)               -- nothing is left to execute
  | run (i : Instr) (s : State)
  | unassigned (w : W64) (s : State)
  | past (i : Instr) (w : W64) (excess : List (Nat × Nat)) (s : State)   -- stepped fields pass v1023

/-- The lowest vector register of a stepped word that lies outside the budget (R37, R85). `over` holds the
stepped fields that pass v1023. -/
def stepFail (s : State) (t : Thread) (i : Instr) (w : W64) (excess : List (Nat × Nat)) : Nat :=
  let regs := ((stepPlaces w).zipIdx.filter fun p => has i.steps p.2).map fun p =>
    match excess.find? fun o => o.1 == p.2 with
    | some o => o.2
    | none => (w.extractLsb' p.1 10).toNat
  let bad := regs.filter fun r => decide (t.budget ≤ r) && (portOf (hasPorts s t) r).isNone
  bad.foldl min ((excess.map Prod.snd).headD 1024)

/-- The instruction of an issue whose stepped fields pass v1023: `VMOVX` and `VMOVXW` take the field as the
base of a computed register (R132), anything else traps REGRANGE. -/
def runStepped (i : Instr) (w : W64) (excess : List (Nat × Nat)) (s : State) : State :=
  match s.cur with
  | none => s
  | some iss =>
    let base := fun bit => (excess.find? fun o => o.1 == bit).map Prod.snd
    let plain := taken (if (s.thread iss.thr).episode.isSome then run [exitEpisode iss.thr] s
      else runThread iss.thr [fun s => trapGroup s iss .regRange
        (BitVec.ofNat 64 (stepFail s (s.thread iss.thr) i w excess))] s)
    let only := fun bit => excess.all fun o => o.1 == bit
    let settle := fun (o : Host.Outcome State Fault Refusal) => match o with
      | .next s' => s'
      | _ => s
    match i with
    | .vmovx f =>
      match base 1, only 1 with
      | some b, true => settle (moveIndexed f b s)
      | _, _ => plain
    | .vmovxw f =>
      match base 0, only 0 with
      | some b, true => settle (moveIndexedTo f b s)
      | _, _ => plain
    | _ => plain

/-- A word that an extension word follows (R28, R107). -/
def longWord (w : W64) : Bool := (decode w 0).any fun i => i.length == 16

/-! ### Latencies (R108, R118, R154) -/

/-- `n` lane cycles in front-end cycles, at lane ratio ½, 1 or 2. -/
def lcToFc (ratio n : Nat) : Nat :=
  match ratio with
  | 0 => 2 * n
  | 1 => n
  | _ => (n + 1) / 2

/-- The lane cycles after which the results of a vector instruction are there, by group and minor (R118, R154). -/
def laneLatency (group minor width : Nat) : Nat :=
  match group with
  | 3 => if [0x02, 0x03, 0x13].contains minor then 4 else 2
  | 4 =>
    match minor with
    | 0 => 4
    | 3 | 5 => 2 + Nat.log2 width
    | 4 => 4 * Nat.log2 width
    | 6 | 9 | 10 => 6
    | _ => 3
  | 5 => if [0x00, 0x01, 0x02, 0x0B, 0x0C].contains minor then 4 else if minor == 0x0D then 5 else 2
  | _ =>
    if minor < 5 then 12 else if minor < 8 then 16
    else match minor with
      | 8 => 3
      | 9 | 10 => 4
      | 11 => 6
      | _ => 2

/-- The front-end cycles after which the results of an instruction word are there. -/
def latencyOf (w : W64) (width ratio : Nat) : Nat :=
  let op := field w 63 54
  let minor := op % 64
  match op / 64 with
  | 1 => if minor == 2 then 3 else if minor == 3 || minor == 4 then 4
         else if 5 ≤ minor && minor ≤ 8 then (if w.getLsbD 53 then 18 else 34) else 1
  | 3 | 4 | 5 | 6 => lcToFc ratio (laneLatency (op / 64) minor width)
  | _ => 1

/-- Fetches and decodes the instruction of an issue (R28, R53, R370): in a `REP` sequence the word with its
fields stepped (R85). A word that decodes to nothing is an unassigned opcode point. The extension word is read only
where the block goes on (R28). -/
def fetchIssue (s : State) (iss : Issue) : Fetched :=
  let iss := { iss with lanes := stillThere s iss }
  let t := s.thread iss.thr
  if iss.lanes = 0 then .spent s
  else
    let parks := fun (b : Bad) =>
      if t.episode.isSome then run [exitEpisode iss.thr] s
      else runThread iss.thr [fun s => strike s iss.thr iss.pc iss.lanes ((lanesOf iss.lanes).map fun l => (l, b))] s
    match fetch s t iss.pc with
    | .error b => .spent (parks b)
    | .ok w =>
      let stepped := match t.seq with
        | some q => if q.pc == iss.pc && !q.paused then stepWord q.mask q.stride q.next w else (w, [])
        | none => (w, [])
      let more := longWord stepped.1 && hasNextWord s iss
      match (if more then fetch s t (iss.pc + 8) else .ok 0) with
      | .error b => .spent (parks b)
      | .ok ext =>
        let iss := { iss with lat := latencyOf stepped.1 t.width (s.cluster t.cluster).ratio }
        let s := { (run [fun s => touch s (whoOf t) iss.pc.toNat false,
          fun s => if more then touch s (whoOf t) (iss.pc + 8).toNat false else []] s) with cur := some iss }
        match decode stepped.1 ext with
        | none => .unassigned stepped.1 s
        | some i => if stepped.2.isEmpty then .run i s else .past i stepped.1 stepped.2 s

/-- UNASSIGNED_OPCODE (R29, R35, R53): the group traps UNDEF; in an episode the episode ends (R258). -/
def execUnassignedOpcode (_ : W64) (s : State) : Host.Outcome State Fault Refusal :=
  issue { engines := allEngines, undef := true } (fun _ _ => []) .stop (fun _ _ => true) s

/-! ### PC groups -/

/-- What holds a group holds the lanes that come to its PC as well, since they are one group from then on (R75):
a wait, or a fence whose instruction is still to have its effect, which then awaits their accesses too. -/
def Hold.shared (next due : Nat) : Hold → Option Hold
  | .counters l s c t => some (.counters l s c t)
  | .fence kind scope _ .move => some (.fence kind scope next .move)
  | .fence kind scope _ .access => some (.fence kind scope next .access)
  | .written _ _ => some (.written next due)
  | _ => none

/-- The lanes at one PC become one group (R75): newcomers take what holds the others; a release fence that some of
them have not passed is awaited by all. -/
def Thread.joinAt (next pc : Nat) (t : Thread) : Thread :=
  let mine := t.laneSet fun l => l.state == .running && l.need == .none && l.pc.toNat == pc
  let takes := fun (l : Lane) => l.hold == .none || l.hold == .passed || (l.hold.shared next 0).isSome
  let group := mine &&& t.laneSet takes
  match (members t.width group).findSome? fun l => (t.lane l).hold.shared next t.lastDue with
  | some h => if (members t.width group).all fun l => (t.lane l).hold == (t.lane ((members t.width group).headD 0)).hold then t
              else t.updLanes group fun l => { l with hold := h }
  | none =>
    if (members t.width group).all fun l => (t.lane l).hold == .passed then t
    else t.updLanes group fun l => { l with hold := .none }

/-- The lanes of a thread join at every PC. -/
def Thread.joinGroups (next : Nat) (t : Thread) : Thread :=
  (distinct (((List.range t.width).filter fun l => (t.lane l).live).map fun l => (t.lane l).pc.toNat)).foldl
    (fun t pc => t.joinAt next pc) t

/-- A ready PC group: its place, its lanes, whether a `YIELD` excludes it, its starvation count, and the
unit that it needs for itself: 1 lane exchange, 2 memory, 3 special functions, 4 the scalar divider, 0 none. -/
structure Group where
  pc       : Addr
  lanes    : Nat
  excluded : Bool
  starve   : Nat
  pipe     : Nat
  deriving DecidableEq, Repr

/-- The unit that an instruction word needs for itself (R108, R118, R154, R179). -/
def pipeOf (w : W64) : Nat :=
  let op := field w 63 54
  if op / 64 == 4 || op == 0x18B then 1
  else if op / 64 == 7 then 2
  else if op / 64 == 6 && op % 64 < 8 then 3
  else if 0x45 ≤ op && op ≤ 0x48 then 4
  else 0

/-- The unit that a thread's instruction at an address needs. -/
def pipeAt (s : State) (t : Thread) (pc : Addr) : Nat :=
  match fetch s t pc with
  | .ok w => pipeOf w
  | .error _ => 0

/-- The special-function unit and the divider are not occupied by an earlier instruction (R108, R154). -/
def unitFree (s : State) (core pipe : Nat) : Bool :=
  let c := s.core core
  match pipe with
  | 3 => decide (c.sfuFree ≤ c.tick)
  | 4 => decide (c.divFree ≤ c.tick)
  | _ => true

/-- An instruction occupies its unit from its issue on: the special-function unit for w / 16 lc (R154), the divider
until its result is there (R108). -/
def takeUnit (s : State) (core : Nat) (t : Thread) (pc : Addr) : List Micro :=
  let ratio := (s.cluster (clusterOf core)).ratio
  match fetch s t pc with
  | .error _ => []
  | .ok w =>
    match pipeOf w with
    | 3 => [.core core fun c => { c with sfuFree := c.tick + lcToFc ratio (t.width / 16) }]
    | 4 => [.core core fun c => { c with divFree := c.tick + latencyOf w t.width ratio }]
    | _ => []

/-- The PC groups of a thread at an address that may issue: a group whose lanes have all passed their release
fence, or none of which holds. -/
def groupsAt (s : State) (k : Nat) (pc : Addr) : List Group :=
  let t := s.thread k
  let pipe := pipeAt s t pc
  if !unitFree s t.core pipe then []
  else
    [Hold.none, Hold.passed].filterMap fun h =>
      let ls := (List.range t.width).filter fun l => issuable t l && (t.lane l).pc == pc && (t.lane l).hold == h
      if ls.isEmpty then none
      else some { pc, lanes := setOf ls, excluded := ls.any fun l => decide (1 < (t.lane l).excluded)
                  starve := ls.foldl (fun m l => max m (t.lane l).starve) 0, pipe }

/-- An excluded group counts as ready only when no other group of the warp is (R96). -/
def effective (gs : List Group) : List Group :=
  let free := gs.filter fun g => !g.excluded
  if free.isEmpty then gs else free

/-- More lanes first, then the lower PC (R77). -/
def Group.before (a b : Group) : Bool :=
  let m := popcount a.lanes
  let n := popcount b.lanes
  decide (n < m) || (m == n && decide (a.pc.toNat ≤ b.pc.toNat))

/-- Inserts a group into a list in order. -/
def insertGroup (le : Group → Group → Bool) (g : Group) : List Group → List Group
  | [] => [g]
  | h :: hs => if le g h then g :: h :: hs else h :: insertGroup le g hs

/-- Groups in order. -/
def sortGroups (le : Group → Group → Bool) (gs : List Group) : List Group := gs.foldr (insertGroup le) []

/-- Two instructions may issue in one fc. -/
def Group.beside (a b : Group) : Bool := a.pipe == 0 || b.pipe == 0 || a.pipe != b.pipe

/-- A unit that the first position takes leaves the other groups that need it not ready in that fc: the
special-function unit and the divider are then occupied (R108, R154). -/
def Group.spoils (a b : Group) : Bool := 3 ≤ a.pipe && a.pipe == b.pipe

/-- The groups in order that are ready beside the first. -/
def readyBeside : List Group → List Group
  | a :: gs => a :: gs.filter fun g => !a.spoils g
  | [] => []

/-- What R77 alone issues from groups in order: only the first where the second needs the same unit. -/
def plainPick : List Group → List Group
  | a :: b :: _ => if a.beside b then [a, b] else [a]
  | gs => gs

/-- The group that R78 forces: starved, and not issued by R77; the lowest PC of several. -/
def forced (gs : List Group) : Option Group :=
  let due := gs.filter fun g => decide (256 ≤ g.starve) && !(plainPick gs).contains g
  (sortGroups (fun a b => decide (a.pc.toNat ≤ b.pc.toNat)) due).head?

/-- What issues (R77, R78): with a forced group it takes the second position, or the first where it cannot
issue beside the one that stands there. -/
def pickGroups (ifp : Bool) (gs : List Group) : List Group :=
  let gs := readyBeside (sortGroups Group.before gs)
  match gs, if ifp then forced gs else none with
  | a :: _, some f =>
    if a.beside f then [a, f]
    else f :: ((gs.filter fun g => g != f && f.beside g).head?.toList)
  | _, none => plainPick gs
  | [], some f => [f]

/-! ### An fc of a core -/

/-- The warps of a core with ready groups, as key and groups. `avail` names the groups whose operands are
there. -/
def readyWarps (s : State) (core : Nat) (avail : List (Nat × Nat)) : List (Nat × List Group) :=
  (List.range 32).filterMap fun slot =>
    let k := warpKey core slot
    let pcs := distinct ((avail.filter fun a => a.1 == slot).map Prod.snd)
    let gs := pcs.flatMap fun pc => groupsAt s k (BitVec.ofNat 56 pc)
    if (s.thread k).live && !gs.isEmpty then some (k, effective gs) else none

/-- The key whose thread has been ready longest, the first of several (R76). -/
def oldest (s : State) : List Nat → Option Nat
  | [] => none
  | k :: ks =>
    match oldest s ks with
    | some j => if (s.thread k).age < (s.thread j).age then some j else some k
    | none => some k

/-- Ages after an fc: the threads that were ready and did not issue grow older, all others start anew. -/
def ageAfter (ready : List Nat) (chosen : Option Nat) (keys : List Nat) : List Micro :=
  keys.map fun k => .thread k fun t =>
    if !t.live then t
    else if chosen == some k || !ready.contains k then { t with age := 0 } else { t with age := t.age + 1 }

/-- A YIELD exclusion runs down; after its 64 fc it is over, which YIELD_EXCLUSION_END notes (R96). -/
def runDown (l : Lane) : Lane := if 1 < l.excluded then { l with excluded := l.excluded - 1 } else l

/-- Exclusions of a thread after an fc, a blocked one too (R96, R412). -/
def exclusionsAfter (t : Thread) : Thread := t.updLanes (t.laneSet fun l => l.excluded != 0) runDown

/-- Starvation counts and exclusions of a warp after an fc (R78, R96). -/
def lanesAfter (ready issued : Nat) (t : Thread) : Thread :=
  let t := exclusionsAfter t
  let t := t.updLanes (without ready issued) fun l => { l with starve := min 256 (l.starve + 1) }
  t.updLanes issued fun l => { l with starve := 0, excluded := 0 }

/-- The lanes of groups. -/
def groupLanes (gs : List Group) : Nat := gs.foldl (fun m g => m ||| g.lanes) 0

/-- Groups issue, the lower PC first, reading their sources as they stood (R77). -/
def queueIssues (s : State) (k : Nat) (gs : List Group) : Micro :=
  .fc (some (k, (s.thread k).regs)) ((sortGroups (fun a b => decide (a.pc.toNat ≤ b.pc.toNat)) gs).zipIdx.map fun g =>
    { thr := k, lanes := g.1.lanes, pc := g.1.pc, second := g.2 == 1, start := s.fl.next })

/-- The independent-forward-progress flag of a warp's launch (R79). -/
def forwardProgress (s : State) (k : Nat) : Bool :=
  let t := s.thread k
  ((s.ctx t.ctx).launch t.launch).ifp

/-- Some workgroup of a launch, or of any launch for 0, is resident on a core. -/
def holdsLaunch (s : State) (core ctx launch : Nat) : Bool :=
  s.wgs.any fun w => w.2.core == core && w.2.ctx == ctx && (launch == 0 || w.2.launch == launch)

/-- A freeze of a launch on the core has reached its cut (R368): the fc that contains the cut is the last. -/
def cutReached (s : State) (core : Nat) : Bool :=
  s.sys.cuts.any fun c => !c.thaw && decide (c.at_ < s.dtAt (dieOf core)) && holdsLaunch s core c.ctx c.launch

/-- A core's clocks stand still from a cut to its thaw (R368, R369). -/
def coreStopped (s : State) (core : Nat) : Bool := coreFrozen s core || cutReached s core

/-- A core issues in no fc that a throttle blocks, and in none from a cut to its thaw (R368, R412). -/
def coreBlocked (s : State) (core : Nat) : Bool :=
  let c := s.cluster (clusterOf core)
  coreStopped s core || decide (c.fc < c.throt)

/-- What an fc of a core counts: that a warp of a context issues, and the parked lanes (R386). -/
def countFc (s : State) (keys : List Nat) (pick : Option Nat) : List Micro :=
  (match pick with
    | some k => count s (s.thread k).ctx 0x01 1 (s.thread k).launch
    | none => [])
  ++ keys.flatMap fun k =>
      let t := s.thread k
      let parked := t.laneSet fun l => match l.state with | .parked _ => true | _ => false
      count s t.ctx 0x11 (popcount parked) t.launch

/-- The lanes that were ready in an fc: a group whose unit another group of the fc took was not (R154). -/
def readyLanes (gs issued : List Group) : Nat :=
  groupLanes (gs.filter fun g => issued.contains g || !issued.any fun a => a.spoils g)

/-- An fc of a core (R76 to R79, R96): nothing in a frozen one (R369); in one that a throttle blocks only the
exclusions run on (R412). `avail` names the ready groups, as slot and PC. -/
def coreFc (core : Nat) (avail : List (Nat × Nat)) : Phase := fun s =>
  let ws := readyWarps s core avail
  let keys := (List.range 32).map (warpKey core)
  let pick := oldest s (ws.map Prod.fst)
  let issued := match pick with
    | some k => pickGroups (forwardProgress s k) (((ws.find? fun w => w.1 == k).map Prod.snd).getD [])
    | none => []
  let live := keys.filter fun k => (s.thread k).live
  if coreStopped s core then countFc s keys none
  else if coreBlocked s core then countFc s keys none ++ live.map (fun k => .thread k exclusionsAfter)
  else
    countFc s keys pick ++ ageAfter (ws.map Prod.fst) pick keys
      ++ live.map (fun k =>
          let mine := readyLanes (((ws.find? fun w => w.1 == k).map Prod.snd).getD []) issued
          .thread k (lanesAfter mine (if pick == some k then groupLanes issued else 0)))
      ++ (match pick with
          | some k => (issued.flatMap fun g => takeUnit s core (s.thread k) g.pc) ++ [queueIssues s k issued]
          | none => [])

/-- A group of the selected warp is forced in an fc (R78). -/
def forceDue (s : State) (core : Nat) (avail : List (Nat × Nat)) : Bool :=
  let ws := readyWarps s core avail
  match oldest s (ws.map Prod.fst) with
  | some k =>
    let gs := readyBeside (sortGroups Group.before (((ws.find? fun w => w.1 == k).map Prod.snd).getD []))
    !coreBlocked s core && forwardProgress s k && (forced gs).isSome
  | none => false

/-- STARVATION_FORCE (R78): an fc in which a starved group of the selected warp takes an issue position.
`avail` names the ready groups, as slot and PC. -/
def execStarvationForce (core : Nat) (avail : List (Nat × Nat)) (s : State) : Host.Outcome State Fault Refusal :=
  .next (if forceDue s core avail then run [coreFc core avail] s else s)

/-! ### An fc of the other engines -/

/-- A single-lane thread may issue. -/
def threadReady (s : State) (k : Nat) : Bool :=
  let t := s.thread k
  t.live && !t.ended && issuable t 0

/-- The issue of the one lane of a thread. -/
def threadIssue (s : State) (k : Nat) : Issue := { thr := k, lanes := 1, pc := ((s.thread k).lane 0).pc, start := s.fl.next }

/-- Issues the one lane of a thread. -/
def queueThread (s : State) (k : Nat) : Micro := .fc none [threadIssue s k]

/-- A cluster begins an fc (R409, R412): its place in its window of 16 moves on, and where it is not blocked, ballast
of level n fills n sixteenths of the two issue slots of its 16 cores (R413 to R415). -/
def beginFc (cluster : Nat) : Micro := .cluster cluster fun c =>
  let fc := (c.fc + 1) % 16
  { c with tick := c.tick + 1, fc, ballastCnt := if fc < c.throt then c.ballastCnt else (c.ballastCnt + 2 * c.ballast) % 2 ^ 48 }

/-- An SCC's part of an fc (R80, R96, R412): the ready slot that has been ready longest issues. `avail` names the
ready slots. -/
def sccFc (cluster : Nat) (avail : List Nat) : Phase := fun s =>
  let c := s.cluster cluster
  let keys := (List.range 8).map (sccKey cluster)
  let ready := keys.filter fun k => avail.contains (k - sccKey cluster 0) && threadReady s k
  let free := ready.filter fun k => decide (((s.thread k).lane 0).excluded ≤ 1)
  let ready := if free.isEmpty then ready else free
  let pick := oldest s ready
  let live := keys.filter fun k => (s.thread k).live
  if c.fc < min c.throt 15 then live.map (fun k => .thread k exclusionsAfter)
  else
    ageAfter ready pick keys
      ++ live.map (fun k =>
          .thread k (lanesAfter 0 (if pick == some k then 1 else 0)))
      ++ (match pick with
          | some k => [queueThread s k]
          | none => [])

/-- An fc of a Harbour core (R80): its firmware thread issues when it is ready. -/
def harbourFc (die core : Nat) (ready : Bool) : Phase := fun s =>
  let k := harbourKey die core
  if ready && threadReady s k then [.thread k (lanesAfter 0 1), queueThread s k] else []

/-- A step of an access thread that skips a loop body (R281): nothing is executed, `AELOOP` counts 1 up and
`AEEND` 1 down. The immediate word of an `SLI` is no instruction (R28): it takes its fc and is passed over. -/
def skipWord (k : Nat) : List Phase :=
  [fun s =>
    let t := s.thread k
    match fetch s t (t.lane 0).pc with
    | .error b => strike s k (t.lane 0).pc 1 [(0, b)]
    | .ok w =>
      let op := field w 63 54
      let long := longWord w && hasNextWord s { thr := k, lanes := 1, pc := (t.lane 0).pc }
      [.thread k fun t =>
        let depth := if op == 0x287 then t.skip + 1 else if op == 0x288 then t.skip - 1 else t.skip
        { t.updLane 0 (Lane.advance (if long then 16 else 8)) with skip := depth }]
        ++ (if long then [.thread k fun t => t.rest s 1 2] else [])]

/-- A core's access engine in an fc (R277, R281, R412): the oldest ready access thread issues one
instruction, after those of the core's warps. A thread whose warp has exited is stopped here and treated as ended
(R284). -/
def accessFc (core : Nat) (avail : List Nat) (s : State) : State :=
  let keys := (List.range 32).map (accessKey core)
  let gone := fun k =>
    let t := s.thread (warpKey core (k - accessKey core 0))
    !t.live || (t.laneSet fun l => l.state != .exited) == 0
  let ready := keys.filter fun k => avail.contains (k - accessKey core 0) && threadReady s k
    && !(s.thread k).owed [dueIssue] 1 (s.core core).tick && unitFree s core (pipeAt s (s.thread k) ((s.thread k).lane 0).pc)
  let pick := oldest s ready
  match pick with
  | none => s
  | some k =>
    let s := run [fun _ => ageAfter ready pick keys] s
    if gone k then run [fun _ => [.thread k Thread.endAccess]] s
    else if 0 < (s.thread k).skip then runThread k (skipWord k) s
    else run [fun s => takeUnit s core (s.thread k) ((s.thread k).lane 0).pc ++ [.fc s.pre (s.fcq ++ [threadIssue s k])]] s

end Sys2Proof.Machine
end

