-- ==== Sys2Proof/Machine/Dispatch.lean ====
section
/-! DEFINITION. The one dispatch of every instruction to its meaning. -/

namespace Sys2Proof.Machine

/-- The meaning of an instruction: one arm for each. -/
def exec (i : Instr) (s : State) : Host.Outcome State Fault Refusal :=
  match i with
  | .nop f => Sys2Proof.Machine.execNop f s
  | .bra f => Sys2Proof.Machine.execBra f s
  | .brc f => Sys2Proof.Machine.execBrc f s
  | .bru f => Sys2Proof.Machine.execBru f s
  | .brx f => Sys2Proof.Machine.execBrx f s
  | .call f => Sys2Proof.Machine.execCall f s
  | .ret f => Sys2Proof.Machine.execRet f s
  | .enrol f => Sys2Proof.Machine.execEnrol f s
  | .await f => Sys2Proof.Machine.execAwait f s
  | .exit f => Sys2Proof.Machine.execExit f s
  | .yield f => Sys2Proof.Machine.execYield f s
  | .rep f => Sys2Proof.Machine.execRep f s
  | .wait f => Sys2Proof.Machine.execWait f s
  | .sleep f => Sys2Proof.Machine.execSleep f s
  | .bar f => Sys2Proof.Machine.execBar f s
  | .bara f => Sys2Proof.Machine.execBara f s
  | .barw f => Sys2Proof.Machine.execBarw f s
  | .sadd f => Sys2Proof.Machine.execSadd f s
  | .ssub f => Sys2Proof.Machine.execSsub f s
  | .smul f => Sys2Proof.Machine.execSmul f s
  | .smulh f => Sys2Proof.Machine.execSmulh f s
  | .smulhn f => Sys2Proof.Machine.execSmulhn f s
  | .sdiv f => Sys2Proof.Machine.execSdiv f s
  | .sdivn f => Sys2Proof.Machine.execSdivn f s
  | .srem f => Sys2Proof.Machine.execSrem f s
  | .sremn f => Sys2Proof.Machine.execSremn f s
  | .sand f => Sys2Proof.Machine.execSand f s
  | .sor f => Sys2Proof.Machine.execSor f s
  | .sxor f => Sys2Proof.Machine.execSxor f s
  | .sshl f => Sys2Proof.Machine.execSshl f s
  | .sshr f => Sys2Proof.Machine.execSshr f s
  | .ssra f => Sys2Proof.Machine.execSsra f s
  | .smin f => Sys2Proof.Machine.execSmin f s
  | .sminn f => Sys2Proof.Machine.execSminn f s
  | .smax f => Sys2Proof.Machine.execSmax f s
  | .smaxn f => Sys2Proof.Machine.execSmaxn f s
  | .sseq f => Sys2Proof.Machine.execSseq f s
  | .ssne f => Sys2Proof.Machine.execSsne f s
  | .sslt f => Sys2Proof.Machine.execSslt f s
  | .ssle f => Sys2Proof.Machine.execSsle f s
  | .ssltn f => Sys2Proof.Machine.execSsltn f s
  | .sslen f => Sys2Proof.Machine.execSslen f s
  | .spopc f => Sys2Proof.Machine.execSpopc f s
  | .sclz f => Sys2Proof.Machine.execSclz f s
  | .ssel f => Sys2Proof.Machine.execSsel f s
  | .sli f => Sys2Proof.Machine.execSli f s
  | .sld f => Sys2Proof.Machine.execSld f s
  | .sst f => Sys2Proof.Machine.execSst f s
  | .sget f => Sys2Proof.Machine.execSget f s
  | .vget f => Sys2Proof.Machine.execVget f s
  | .slane f => Sys2Proof.Machine.execSlane f s
  | .vsplat f => Sys2Proof.Machine.execVsplat f s
  | .mand f => Sys2Proof.Machine.execMand f s
  | .mor f => Sys2Proof.Machine.execMor f s
  | .mxor f => Sys2Proof.Machine.execMxor f s
  | .mandn f => Sys2Proof.Machine.execMandn f s
  | .mpopc f => Sys2Proof.Machine.execMpopc f s
  | .mfind f => Sys2Proof.Machine.execMfind f s
  | .mfroms f => Sys2Proof.Machine.execMfroms f s
  | .mtos f => Sys2Proof.Machine.execMtos f s
  | .vadd f => Sys2Proof.Machine.execVadd f s
  | .vsub f => Sys2Proof.Machine.execVsub f s
  | .vmul f => Sys2Proof.Machine.execVmul f s
  | .vmulh f => Sys2Proof.Machine.execVmulh f s
  | .vmin f => Sys2Proof.Machine.execVmin f s
  | .vmax f => Sys2Proof.Machine.execVmax f s
  | .vand f => Sys2Proof.Machine.execVand f s
  | .vor f => Sys2Proof.Machine.execVor f s
  | .vxor f => Sys2Proof.Machine.execVxor f s
  | .vandn f => Sys2Proof.Machine.execVandn f s
  | .vshl f => Sys2Proof.Machine.execVshl f s
  | .vshr f => Sys2Proof.Machine.execVshr f s
  | .vsra f => Sys2Proof.Machine.execVsra f s
  | .vpopc f => Sys2Proof.Machine.execVpopc f s
  | .vclz f => Sys2Proof.Machine.execVclz f s
  | .vbrev f => Sys2Proof.Machine.execVbrev f s
  | .vabsd f => Sys2Proof.Machine.execVabsd f s
  | .vcmp f => Sys2Proof.Machine.execVcmp f s
  | .vmov f => Sys2Proof.Machine.execVmov f s
  | .vmad f => Sys2Proof.Machine.execVmad f s
  | .vsel f => Sys2Proof.Machine.execVsel f s
  | .vbfx f => Sys2Proof.Machine.execVbfx f s
  | .vbfi f => Sys2Proof.Machine.execVbfi f s
  | .vmovi f => Sys2Proof.Machine.execVmovi f s
  | .vaddi f => Sys2Proof.Machine.execVaddi f s
  | .vandi f => Sys2Proof.Machine.execVandi f s
  | .vori f => Sys2Proof.Machine.execVori f s
  | .vxori f => Sys2Proof.Machine.execVxori f s
  | .vshli f => Sys2Proof.Machine.execVshli f s
  | .vshri f => Sys2Proof.Machine.execVshri f s
  | .vsrai f => Sys2Proof.Machine.execVsrai f s
  | .vcmpi f => Sys2Proof.Machine.execVcmpi f s
  | .vperm f => Sys2Proof.Machine.execVperm f s
  | .vshfl f => Sys2Proof.Machine.execVshfl f s
  | .vbcast f => Sys2Proof.Machine.execVbcast f s
  | .vred f => Sys2Proof.Machine.execVred f s
  | .vfred f => Sys2Proof.Machine.execVfred f s
  | .vscan f => Sys2Proof.Machine.execVscan f s
  | .vmatch f => Sys2Proof.Machine.execVmatch f s
  | .vmovx f => Sys2Proof.Machine.execVmovx f s
  | .vmovxw f => Sys2Proof.Machine.execVmovxw f s
  | .vcomp f => Sys2Proof.Machine.execVcomp f s
  | .vexpd f => Sys2Proof.Machine.execVexpd f s
  | .vfadd f => Sys2Proof.Machine.execVfadd f s
  | .vfsub f => Sys2Proof.Machine.execVfsub f s
  | .vfmul f => Sys2Proof.Machine.execVfmul f s
  | .vfmin f => Sys2Proof.Machine.execVfmin f s
  | .vfmax f => Sys2Proof.Machine.execVfmax f s
  | .vfminm f => Sys2Proof.Machine.execVfminm f s
  | .vfmaxm f => Sys2Proof.Machine.execVfmaxm f s
  | .vfcmp f => Sys2Proof.Machine.execVfcmp f s
  | .vfclass f => Sys2Proof.Machine.execVfclass f s
  | .vfrnd f => Sys2Proof.Machine.execVfrnd f s
  | .vfldx f => Sys2Proof.Machine.execVfldx f s
  | .vfmaF32 f => Sys2Proof.Machine.execVfmaF32 f s
  | .vfmaBf16x2 f => Sys2Proof.Machine.execVfmaBf16x2 f s
  | .vfdot2 f => Sys2Proof.Machine.execVfdot2 f s
  | .vrcp f => Sys2Proof.Machine.execVrcp f s
  | .vrsq f => Sys2Proof.Machine.execVrsq f s
  | .vsqrt f => Sys2Proof.Machine.execVsqrt f s
  | .vexp2 f => Sys2Proof.Machine.execVexp2 f s
  | .vlog2 f => Sys2Proof.Machine.execVlog2 f s
  | .vsin f => Sys2Proof.Machine.execVsin f s
  | .vcos f => Sys2Proof.Machine.execVcos f s
  | .vtanh f => Sys2Proof.Machine.execVtanh f s
  | .vcvt f => Sys2Proof.Machine.execVcvt f s
  | .vqnt f => Sys2Proof.Machine.execVqnt f s
  | .vdqnt f => Sys2Proof.Machine.execVdqnt f s
  | .vscl f => Sys2Proof.Machine.execVscl f s
  | .vrand f => Sys2Proof.Machine.execVrand f s
  | .vpack f => Sys2Proof.Machine.execVpack f s
  | .vunpk f => Sys2Proof.Machine.execVunpk f s
  | .ld f => Sys2Proof.Machine.execLd f s
  | .st f => Sys2Proof.Machine.execSt f s
  | .ldpk f => Sys2Proof.Machine.execLdpk f s
  | .stpk f => Sys2Proof.Machine.execStpk f s
  | .pref f => Sys2Proof.Machine.execPref f s
  | .disc f => Sys2Proof.Machine.execDisc f s
  | .flush f => Sys2Proof.Machine.execFlush f s
  | .lmap f => Sys2Proof.Machine.execLmap f s
  | .lunmap f => Sys2Proof.Machine.execLunmap f s
  | .atom f => Sys2Proof.Machine.execAtom f s
  | .atomr f => Sys2Proof.Machine.execAtomr f s
  | .acas f => Sys2Proof.Machine.execAcas f s
  | .acasw f => Sys2Proof.Machine.execAcasw f s
  | .fence f => Sys2Proof.Machine.execFence f s
  | .gwct f => Sys2Proof.Machine.execGwct f s
  | .twait f => Sys2Proof.Machine.execTwait f s
  | .ropen f => Sys2Proof.Machine.execRopen f s
  | .rrenew f => Sys2Proof.Machine.execRrenew f s
  | .rrel f => Sys2Proof.Machine.execRrel f s
  | .ldrow f => Sys2Proof.Machine.execLdrow f s
  | .strow f => Sys2Proof.Machine.execStrow f s
  | .rstat f => Sys2Proof.Machine.execRstat f s
  | .ractl f => Sys2Proof.Machine.execRactl f s
  | .rastat f => Sys2Proof.Machine.execRastat f s
  | .copy f => Sys2Proof.Machine.execCopy f s
  | .copy2d f => Sys2Proof.Machine.execCopy2d f s
  | .syncinit f => Sys2Proof.Machine.execSyncinit f s
  | .syncwait f => Sys2Proof.Machine.execSyncwait f s
  | .syncrd f => Sys2Proof.Machine.execSyncrd f s
  | .qld f => Sys2Proof.Machine.execQld f s
  | .qldrow f => Sys2Proof.Machine.execQldrow f s
  | .aeloop f => Sys2Proof.Machine.execAeloop f s
  | .aeend f => Sys2Proof.Machine.execAeend f s
  | .qdrop f => Sys2Proof.Machine.execQdrop f s
  | .rloadbQ4 f => Sys2Proof.Machine.execRloadbQ4 f s
  | .rloadbE4m3 f => Sys2Proof.Machine.execRloadbE4m3 f s
  | .rloadbE5m2 f => Sys2Proof.Machine.execRloadbE5m2 f s
  | .rloadbE3m2 f => Sys2Proof.Machine.execRloadbE3m2 f s
  | .rloadbE2m3 f => Sys2Proof.Machine.execRloadbE2m3 f s
  | .rloadbI8 f => Sys2Proof.Machine.execRloadbI8 f s
  | .rloadbBf16 f => Sys2Proof.Machine.execRloadbBf16 f s
  | .rcode f => Sys2Proof.Machine.execRcode f s
  | .rmacI8 f => Sys2Proof.Machine.execRmacI8 f s
  | .rmacE4m3 f => Sys2Proof.Machine.execRmacE4m3 f s
  | .rmacE5m2 f => Sys2Proof.Machine.execRmacE5m2 f s
  | .rmacBf16 f => Sys2Proof.Machine.execRmacBf16 f s
  | .rmacpI8 f => Sys2Proof.Machine.execRmacpI8 f s
  | .rmacpE4m3 f => Sys2Proof.Machine.execRmacpE4m3 f s
  | .rmacpE5m2 f => Sys2Proof.Machine.execRmacpE5m2 f s
  | .rmacpBf16 f => Sys2Proof.Machine.execRmacpBf16 f s
  | .rfence f => Sys2Proof.Machine.execRfence f s
  | .rdrain f => Sys2Proof.Machine.execRdrain f s
  | .rpair f => Sys2Proof.Machine.execRpair f s
  | .rstatReef f => Sys2Proof.Machine.execRstatReef f s
  | .beat f => Sys2Proof.Machine.execBeat f s
  | .tset f => Sys2Proof.Machine.execTset f s
  | .tread f => Sys2Proof.Machine.execTread f s
  | .pclass f => Sys2Proof.Machine.execPclass f s
  | .launch f => Sys2Proof.Machine.execLaunch f s
  | .lwait f => Sys2Proof.Machine.execLwait f s
  | .mbrecv f => Sys2Proof.Machine.execMbrecv f s
  | .mbsend f => Sys2Proof.Machine.execMbsend f s
  | .evwait f => Sys2Proof.Machine.execEvwait f s
  | .trap f => Sys2Proof.Machine.execTrap f s
  | .eret f => Sys2Proof.Machine.execEret f s
  | .csrr f => Sys2Proof.Machine.execCsrr f s
  | .csrw f => Sys2Proof.Machine.execCsrw f s
  | .dbgrd f => Sys2Proof.Machine.execDbgrd f s
  | .dbgwr f => Sys2Proof.Machine.execDbgwr f s
  | .tlbi f => Sys2Proof.Machine.execTlbi f s
  | .cntrd f => Sys2Proof.Machine.execCntrd f s
  | .cntcfg f => Sys2Proof.Machine.execCntcfg f s
  | .freeze f => Sys2Proof.Machine.execFreeze f s
  | .halt f => Sys2Proof.Machine.execHalt f s
  | .starvationForce core avail => Sys2Proof.Machine.execStarvationForce core avail s
  | .yieldExclusionEnd thr lane => Sys2Proof.Machine.execYieldExclusionEnd thr lane s
  | .joinRelease thr j => Sys2Proof.Machine.execJoinRelease thr j s
  | .barrierPhaseComplete wg => Sys2Proof.Machine.execBarrierPhaseComplete wg s
  | .sleepWake thr lane => Sys2Proof.Machine.execSleepWake thr lane s
  | .waitRelease thr lane => Sys2Proof.Machine.execWaitRelease thr lane s
  | .fenceRelease thr lane => Sys2Proof.Machine.execFenceRelease thr lane s
  | .twaitRelease thr lane => Sys2Proof.Machine.execTwaitRelease thr lane s
  | .loadComplete op => Sys2Proof.Machine.execLoadComplete op s
  | .storeComplete op => Sys2Proof.Machine.execStoreComplete op s
  | .sliceLineRequest piece dram => Sys2Proof.Machine.execSliceLineRequest piece dram s
  | .sliceStore piece => Sys2Proof.Machine.execSliceStore piece s
  | .sliceAtomic req => Sys2Proof.Machine.execSliceAtomic req s
  | .atomicHighHalf req => Sys2Proof.Machine.execAtomicHighHalf req s
  | .sliceDiscard req => Sys2Proof.Machine.execSliceDiscard req s
  | .tlbWalk cluster who va => Sys2Proof.Machine.execTlbWalk cluster who va s
  | .secondStageService fault action => Sys2Proof.Machine.execSecondStageService fault action s
  | .peerHomeFault fault action => Sys2Proof.Machine.execPeerHomeFault fault action s
  | .trapDelivery record => Sys2Proof.Machine.execTrapDelivery record s
  | .regionFill wg region granule => Sys2Proof.Machine.execRegionFill wg region granule s
  | .peerAck req gwct => Sys2Proof.Machine.execPeerAck req gwct s
  | .peerRequest request => Sys2Proof.Machine.execPeerRequest request s
  | .hostBarAccess fn bar offset act => Sys2Proof.Machine.execHostBarAccess fn bar offset act s
  | .runaheadEntry thr op => Sys2Proof.Machine.execRunaheadEntry thr op s
  | .runaheadExit thr => Sys2Proof.Machine.execRunaheadExit thr s
  | .rowHoldLapse ctx handle => Sys2Proof.Machine.execRowHoldLapse ctx handle s
  | .rowClose pa => Sys2Proof.Machine.execRowClose pa s
  | .subarrayRefresh subarray pa => Sys2Proof.Machine.execSubarrayRefresh subarray pa s
  | .patrolScrub pa lost => Sys2Proof.Machine.execPatrolScrub pa lost s
  | .copyAccept copy => Sys2Proof.Machine.execCopyAccept copy s
  | .copyPieceCount copy block => Sys2Proof.Machine.execCopyPieceCount copy block s
  | .copyPageFault copy byte => Sys2Proof.Machine.execCopyPageFault copy byte s
  | .copyComplete copy => Sys2Proof.Machine.execCopyComplete copy s
  | .syncwaitRelease thr lane => Sys2Proof.Machine.execSyncwaitRelease thr lane s
  | .queueEntryFill op => Sys2Proof.Machine.execQueueEntryFill op s
  | .reefSerialPhase core => Sys2Proof.Machine.execReefSerialPhase core s
  | .reefAccumulatorWrite op => Sys2Proof.Machine.execReefAccumulatorWrite op s
  | .reefSlotWrite op => Sys2Proof.Machine.execReefSlotWrite op s
  | .reefCodebookWrite op => Sys2Proof.Machine.execReefCodebookWrite op s
  | .workgroupPlacement atoll => Sys2Proof.Machine.execWorkgroupPlacement atoll s
  | .warpStart wg => Sys2Proof.Machine.execWarpStart wg s
  | .warpSlotRelease thr => Sys2Proof.Machine.execWarpSlotRelease thr s
  | .lwaitRelease thr => Sys2Proof.Machine.execLwaitRelease thr s
  | .evwaitRelease thr => Sys2Proof.Machine.execEvwaitRelease thr s
  | .mbrecvDelivery thr => Sys2Proof.Machine.execMbrecvDelivery thr s
  | .inboundMessage ctx box value => Sys2Proof.Machine.execInboundMessage ctx box value s
  | .payloadCopy ctx box => Sys2Proof.Machine.execPayloadCopy ctx box s
  | .outciWrite ctx box value => Sys2Proof.Machine.execOutciWrite ctx box value s
  | .istatClear ctx value => Sys2Proof.Machine.execIstatClear ctx value s
  | .imaskWrite ctx value => Sys2Proof.Machine.execImaskWrite ctx value s
  | .registerWrite reg value => Sys2Proof.Machine.execRegisterWrite reg value s
  | .periodEnd atoll => Sys2Proof.Machine.execPeriodEnd atoll s
  | .jobMinimum atoll job minimum => Sys2Proof.Machine.execJobMinimum atoll job minimum s
  | .mergeDeadline atoll job => Sys2Proof.Machine.execMergeDeadline atoll job s
  | .tideUpdate atoll => Sys2Proof.Machine.execTideUpdate atoll s
  | .slewApply atoll => Sys2Proof.Machine.execSlewApply atoll s
  | .clockRelockEnd cluster => Sys2Proof.Machine.execClockRelockEnd cluster s
  | .sliceEnd atoll => Sys2Proof.Machine.execSliceEnd atoll s
  | .preemptionRequest ctx => Sys2Proof.Machine.execPreemptionRequest ctx s
  | .contextSave ctx => Sys2Proof.Machine.execContextSave ctx s
  | .preemptionDeadline ctx => Sys2Proof.Machine.execPreemptionDeadline ctx s
  | .saveWatchdog ctx => Sys2Proof.Machine.execSaveWatchdog ctx s
  | .freezeCut cut => Sys2Proof.Machine.execFreezeCut cut s
  | .supplySagTrip cluster => Sys2Proof.Machine.execSupplySagTrip cluster s
  | .supplySagClear cluster => Sys2Proof.Machine.execSupplySagClear cluster s
  | .throttleStep cluster temperature others => Sys2Proof.Machine.execThrottleStep cluster temperature others s
  | .tcritTrip reading => Sys2Proof.Machine.execTcritTrip reading s
  | .clusterGate cluster => Sys2Proof.Machine.execClusterGate cluster s
  | .clusterUngate cluster => Sys2Proof.Machine.execClusterUngate cluster s
  | .tokenIntervalEnd accepted => Sys2Proof.Machine.execTokenIntervalEnd accepted s
  | .tokenGrant budget => Sys2Proof.Machine.execTokenGrant budget s
  | .tokenFallback => Sys2Proof.Machine.execTokenFallback s
  | .pageMigration page => Sys2Proof.Machine.execPageMigration page s
  | .oldFrameFree page => Sys2Proof.Machine.execOldFrameFree page s
  | .optimisticMigration page => Sys2Proof.Machine.execOptimisticMigration page s
  | .retirementRequest channel => Sys2Proof.Machine.execRetirementRequest channel s
  | .channelMove channel => Sys2Proof.Machine.execChannelMove channel s
  | .channelRetired channel => Sys2Proof.Machine.execChannelRetired channel s
  | .fabricPortFailure port => Sys2Proof.Machine.execFabricPortFailure port s
  | .softErrorCorrected place => Sys2Proof.Machine.execSoftErrorCorrected place s
  | .uncorrectableError place => Sys2Proof.Machine.execUncorrectableError place s
  | .pairMismatch die => Sys2Proof.Machine.execPairMismatch die s
  | .livenessTimeout die => Sys2Proof.Machine.execLivenessTimeout die s
  | .watchdogKick die => Sys2Proof.Machine.execWatchdogKick die s
  | .tthreshWrite die value => Sys2Proof.Machine.execTthreshWrite die value s
  | .htimerExpiry die core => Sys2Proof.Machine.execHtimerExpiry die core s
  | .harbourInterrupt die core cls => Sys2Proof.Machine.execHarbourInterrupt die core cls s
  | .atollCreate => Sys2Proof.Machine.execAtollCreate s
  | .atollDestroy => Sys2Proof.Machine.execAtollDestroy s
  | .ctxCreate => Sys2Proof.Machine.execCtxCreate s
  | .ctxDestroy => Sys2Proof.Machine.execCtxDestroy s
  | .ctxPreempt => Sys2Proof.Machine.execCtxPreempt s
  | .ctxRestore => Sys2Proof.Machine.execCtxRestore s
  | .ctxReset => Sys2Proof.Machine.execCtxReset s
  | .stewardStart => Sys2Proof.Machine.execStewardStart s
  | .ctxImage => Sys2Proof.Machine.execCtxImage s
  | .warpKill => Sys2Proof.Machine.execWarpKill s
  | .resetAtoll => Sys2Proof.Machine.execResetAtoll s
  | .resetDie => Sys2Proof.Machine.execResetDie s
  | .resetPackageWarm => Sys2Proof.Machine.execResetPackageWarm s
  | .resetPackageCold => Sys2Proof.Machine.execResetPackageCold s
  | .powerOn record => Sys2Proof.Machine.execPowerOn record s
  | .coreReset core => Sys2Proof.Machine.execCoreReset core s
  | .clusterReset cluster => Sys2Proof.Machine.execClusterReset cluster s
  | .reply => Sys2Proof.Machine.execReply s
  | .migrate => Sys2Proof.Machine.execMigrate s
  | .tokens => Sys2Proof.Machine.execTokens s
  | .grants => Sys2Proof.Machine.execGrants s
  | .queryDeviceIdentifiers => Sys2Proof.Machine.execQueryDeviceIdentifiers s
  | .getFirmwareParameters => Sys2Proof.Machine.execGetFirmwareParameters s
  | .requestUpdate => Sys2Proof.Machine.execRequestUpdate s
  | .passComponentTable => Sys2Proof.Machine.execPassComponentTable s
  | .updateComponent => Sys2Proof.Machine.execUpdateComponent s
  | .requestFirmwareData offset length => Sys2Proof.Machine.execRequestFirmwareData offset length s
  | .transferComplete => Sys2Proof.Machine.execTransferComplete s
  | .verifyComplete image => Sys2Proof.Machine.execVerifyComplete image s
  | .applyComplete => Sys2Proof.Machine.execApplyComplete s
  | .activateFirmware => Sys2Proof.Machine.execActivateFirmware s
  | .getStatus => Sys2Proof.Machine.execGetStatus s
  | .cancelUpdateComponent => Sys2Proof.Machine.execCancelUpdateComponent s
  | .cancelUpdate => Sys2Proof.Machine.execCancelUpdate s
  | .dieHandover die => Sys2Proof.Machine.execDieHandover die s
  | .handoverFailure die => Sys2Proof.Machine.execHandoverFailure die s
  | .updateCommit => Sys2Proof.Machine.execUpdateCommit s
  | .getVersion => Sys2Proof.Machine.execGetVersion s
  | .getCapabilities => Sys2Proof.Machine.execGetCapabilities s
  | .negotiateAlgorithms => Sys2Proof.Machine.execNegotiateAlgorithms s
  | .getDigests => Sys2Proof.Machine.execGetDigests s
  | .getCertificate slot offset length => Sys2Proof.Machine.execGetCertificate slot offset length s
  | .challenge slot => Sys2Proof.Machine.execChallenge slot s
  | .getMeasurements => Sys2Proof.Machine.execGetMeasurements s
  | .keyExchange => Sys2Proof.Machine.execKeyExchange s
  | .finish => Sys2Proof.Machine.execFinish s
  | .endSession => Sys2Proof.Machine.execEndSession s
  | .sensorThresholdEvent sensor => Sys2Proof.Machine.execSensorThresholdEvent sensor s
  | .unassignedOpcode word => Sys2Proof.Machine.execUnassignedOpcode word s
  | .l1Eviction core ctx va => Sys2Proof.Machine.execL1Eviction core ctx va s
  | .tlbEviction cluster ctx va => Sys2Proof.Machine.execTlbEviction cluster ctx va s
  | .frciWrite ctx value => Sys2Proof.Machine.execFrciWrite ctx value s
  | .svrciWrite value => Sys2Proof.Machine.execSvrciWrite value s
  | .unknownOp => Sys2Proof.Machine.execUnknownOp s
  | .pairRestartEnd die => Sys2Proof.Machine.execPairRestartEnd die s
  | .selfRefreshEntry stack => Sys2Proof.Machine.execSelfRefreshEntry stack s
  | .tokenOffer accepted => Sys2Proof.Machine.execTokenOffer accepted s

end Sys2Proof.Machine
end

