-- ==== Sys2Proof/Machine/Outside.lean ====
section
/-! DEFINITION. What happens of itself or from outside, without being a row of the opcode table: device
time, its offset on a die, writes of host and peer memory by their holders, and the tables that the
outside fills (R201, R371, R398, R423; log entry 1). -/

namespace Sys2Proof.Machine

/-- The latest device time that may come before a period end is served, a count is merged or an update is made: each
happens at its own time (R312, R318, R325). -/
def timeLimit (s : State) : Option Nat :=
  let ends := (keysOf s.atolls).filterMap (periodDue s)
  let steps := s.ctxs.filterMap fun c => match c.2.tide.step with
    | some x => if c.2.live then some (x.at_ + if x.merged.isNone then 2000 else 4000) else none
    | none => none
  (ends ++ steps).foldl (fun m t => match m with
    | none => some t
    | some x => some (min x t)) none

/-- Device time advances (R201), no further than what falls due. -/
def passTime (ns : Nat) (s : State) : State :=
  let dt := match timeLimit s with
    | some t => max s.sys.dt (min t (s.sys.dt + ns))
    | none => s.sys.dt + ns
  run [fun _ => [.sys fun y => { y with dt }]] s

/-- Device time advances by 2 ns, and a die takes another place in the 2 ns that any two dies agree within
(R201): its own time never goes back. -/
def setSkew (die ns : Nat) (s : State) : State :=
  if die < 4 ∧ ns ≤ 2 ∧ (timeLimit s).all (s.sys.dt + 2 ≤ ·) then
    run [fun _ => [.sys fun y => { y with dt := y.dt + 2, skew := put 0 y.skew die ns }]] s
  else s

/-- A byte of host or peer memory is written by whoever holds that memory. -/
def outsideWrites (key : Nat) (b : Byte) (s : State) : State :=
  if 2 ^ 61 ≤ key then run [fun _ => [.bytes [(key, b)]]] s else s

/-- The Harbour lists a device as an owner of a range of physical addresses (R398). -/
def listOwner (source first last : Nat) (s : State) : State :=
  run [fun _ => [.sys fun y => { y with owners := y.owners ++ [(source, first, last)] }]] s

/-- The home device of a home-served range loses or restores the translation of a page (R371, R397). -/
def setHomePage (page : Nat) (bad : Bool) (s : State) : State :=
  run [fun _ => [.sys fun y =>
    { y with homeBad := if bad then insertOnce page y.homeBad else y.homeBad.filter (· != page) }]] s

/-- A firmware thread starts on an idle Harbour core (R423). -/
def startFirmware (die core : Nat) (pc : Addr) (s : State) : State :=
  let k := harbourKey die core
  if die < 4 ∧ core < 5 ∧ !(s.thread k).live then
    runThread k [fun _ => [.thread k fun _ => scalarThread .harbour .harbour 64 (die * 8 + core) 0 pc [] 1]] s
  else s

/-- A job freeze or thaw that the fabric carries: every member context of the job on this device takes the
cut (R368). -/
def carryFreeze (job n cut : Nat) (thaw : Bool) (s : State) : State :=
  run [fun s => [.sys fun y =>
    { y with cuts := y.cuts ++ (keysOf (s.ctxs.filter fun c => c.2.live && c.2.tide.job == job && job != 0)).map fun c =>
        { at_ := cut, ctx := c, launch := n, thaw, id := 0 } }]] s

/-- The outside takes the oldest message sent to it. -/
def collectSent (s : State) : State := run [fun _ => [.sys fun y => { y with out := y.out.drop 1 }]] s

end Sys2Proof.Machine
end

