-- ==== Sys2Proof/Machine/Happen.lean ====
section
/-! DEFINITION. What a step runs: an issue, or what happens next (R75 to R80, R255; log entry 1); and what places a
word where the next step fetches it. -/

namespace Sys2Proof.Machine

/-- An instruction traps with a cause of a rank above REGRANGE (R6, R51). -/
def trapsBefore (i : Instr) (s : State) : Bool :=
  match exec i s with
  | .next u => let r := u.trap s.fl.next; r.live && (r.cause == .undef || r.cause == .priv)
  | _ => false

/-- Runs the instruction of an issue. -/
def runIssue (iss : Issue) (s : State) : Host.Outcome State Fault Refusal :=
  match fetchIssue s iss with
  | .spent s' => .next s'
  | .run i s' => exec i s'
  | .unassigned w s' => execUnassignedOpcode w s'
  | .past i w excess s' => if trapsBefore i s' then exec i s' else .next (runStepped i w excess s')

/-- A group that could issue would: its instruction does not leave the issue untaken (R76). -/
def wouldIssue (s : State) (iss : Issue) : Bool :=
  match runIssue iss s with
  | .next s' => s'.cur.isNone
  | _ => true

/-- The issue of a thread's group at a place. -/
def groupIssue (s : State) (k pc : Nat) : Issue :=
  let t := s.thread k
  { thr := k, lanes := setOf ((List.range t.width).filter fun l => issuable t l && (t.lane l).pc.toNat == pc)
    pc := BitVec.ofNat 56 pc, start := s.fl.next }

/-- The addresses at which a thread's lanes could issue. -/
def groupPcs (s : State) (k : Nat) : List Nat :=
  let t := s.thread k
  distinct (((List.range t.width).filter (issuable t)).map fun l => (t.lane l).pc.toNat)

/-- The ready groups of a core's warps, as slot and PC (R76). -/
def readyGroups (s : State) (core : Nat) : List (Nat × Nat) :=
  (List.range 32).flatMap fun slot =>
    let k := warpKey core slot
    if (s.thread k).live then
      ((groupPcs s k).filter fun pc => wouldIssue s (groupIssue s k pc)).map fun pc => (slot, pc)
    else []

/-- The slots, of `n`, of single-lane threads that are ready; one that skips a loop body always is. Only code of an active
context executes (R352). -/
def readySlots (s : State) (key : Nat → Nat) (n : Nat) : List Nat :=
  (List.range n).filter fun i =>
    let t := s.thread (key i)
    t.live && (s.ctx t.ctx).active && (decide (0 < t.skip) || wouldIssue s (groupIssue s (key i) (t.lane 0).pc.toNat))

/-- No group of a warp could issue, and one would if a load had no destination left to write (R255). -/
def blockedOn (s : State) (k op : Nat) : Bool :=
  let pcs := groupPcs s k
  let without := run [fun _ => [.op op fun o => { o with dsts := [] }]] s
  (pcs.all fun pc => !wouldIssue s (groupIssue s k pc)) && pcs.any fun pc => wouldIssue without (groupIssue without k pc)

/-- What a thread's lanes wait for by themselves, and has come, at the start of an fc: a `WAIT` whose counters have
fallen and a `SLEEP` whose time has come are over (R90); the lanes at one PC become one group (R75). -/
def rouse (s : State) (k : Nat) : State :=
  let settled := fun (o : Host.Outcome State Fault Refusal) (s : State) => match o with
    | .next u => u
    | _ => s
  let s := (List.range (s.thread k).width).foldl (fun s l => settled (execSleepWake k l s) (settled (execWaitRelease k l s) s)) s
  if (s.thread k).live then run [fun s => [.thread k (Thread.joinGroups s.fl.next)]] s else s

/-- A core's fc: its clock moves on unless it stands still, waits that are over end, and what is ready issues, the
access engine's instruction last. A starved group is forced by STARVATION_FORCE (R78). -/
def coreTurn (core : Nat) (s : State) : Host.Outcome State Fault Refusal :=
  if coreStopped s core then .next (run [coreFc core []] s)
  else
    let s := run [fun _ => [.core core fun c => { c with tick := c.tick + 1 }]] s
    let s := ((List.range 32).flatMap fun i => [warpKey core i, accessKey core i]).foldl rouse s
    let avail := readyGroups s core
    let engine := readySlots s (accessKey core) 32
    let engineTurn := fun (s : State) => if coreBlocked s core then s else accessFc core engine s
    match if forceDue s core avail then exec (.starvationForce core avail) s else .next (run [coreFc core avail] s) with
    | .next u => .next (engineTurn u)
    | o => o

/-- A core or an SCC has its part of the cluster's fc once. -/
def inTurn (s : State) (cl seen : Nat) : Bool := !(s.cluster cl).gated && decide (seen < (s.cluster cl).tick)

/-- Active places are taken up on the atolls of an SCC's waiting contexts: at most 8 runnable ones are all active (R347). -/
def seatWaiting (cl : Nat) (s : State) : State :=
  let atolls := distinct ((List.range 8).filterMap fun i =>
    let t := s.thread (sccKey cl i)
    if t.live && !(s.ctx t.ctx).active then some (s.ctx t.ctx).atoll else none)
  run (atolls.map seatContexts) s

/-- Every granule of every region is filled, but for one. -/
def allFilled (but : Option (Nat × Nat × Nat)) (s : State) : State :=
  run [fun s => (keysOf s.wgs).map fun w => .wg w fun g =>
    { g with regions := g.regions.zipIdx.map fun e =>
        { e.1 with filled := (List.range e.1.count).filter fun k => but != some (w, e.2, k) } }] s

/-- A granule that is not filled is being touched: an instruction that could issue awaits its fill alone, or a copy under
way has bytes or its sync word there (R176; log entry 38). -/
def touchesGranule (s : State) (w i granule : Nat) : Bool :=
  let all := allFilled none s
  let but := allFilled (some (w, i, granule)) s
  let dry := fun va => (unfilled but va).isSome
  ((keysOf s.threads).any fun k => (groupPcs s k).any fun pc =>
      let iss := groupIssue s k pc
      wouldIssue all iss && !wouldIssue but iss)
    || s.fl.copies.any fun c => c.2.runs
        && ((c.2.sync != 0 && dry c.2.sync)
          || (List.range c.2.total).any fun j =>
              (!c.2.got.contains j && dry (c.2.srcOf j)) || (!c.2.written.contains j && dry (c.2.dstOf j)))

/-- What happens comes about. A cluster's fc is had by its cores and its SCC before anything else happens. -/
def happen (h : Happening) (s : State) : Host.Outcome State Fault Refusal :=
  match h with
  | .occur (.starvationForce _ _) => .next s
  | .occur (.regionFill w i g) => if touchesGranule s w i g then exec (.regionFill w i g) s else .next s
  | .occur (.runaheadEntry thr op) => if blockedOn s thr op then exec (.runaheadEntry thr op) s else .next s
  | .occur i => exec i s
  | .clusterFc cl =>
    .next <| if cl < 48 && !(s.cluster cl).gated then
        run [fun _ => [beginFc cl,
          .agenda fun a => a ++ ((List.range 768).filter fun c => clusterOf c == cl).map Happening.coreFc ++ [.sccFc cl]]] s
      else s
  | .coreFc core =>
    if inTurn s (clusterOf core) (s.core core).seen then
      coreTurn core (run [fun s => [.core core fun c => { c with seen := (s.cluster (clusterOf core)).tick }]] s)
    else .next s
  | .sccFc cl =>
    if inTurn s cl (s.cluster cl).seen then
      let s := seatWaiting cl (run [fun _ => [.cluster cl fun c => { c with seen := c.tick }]] s)
      let s := ((List.range 8).map (sccKey cl)).foldl rouse s
      .next (run [sccFc cl (readySlots s (sccKey cl) 8)] s)
    else .next s
  | .harbourFc d c =>
    let s := run [fun _ => [.die d fun x => { x with ticks := put 0 x.ticks c (look 0 x.ticks c + 1) }]] s
    let s := rouse s (harbourKey d c)
    .next (run [harbourFc d c (wouldIssue s (groupIssue s (harbourKey d c) ((s.thread (harbourKey d c)).lane 0).pc.toNat))] s)
  | .pass ns => .next (passTime ns s)
  | .skew d ns => .next (setSkew d ns s)
  | .outside key b => .next (outsideWrites key b s)
  | .owner src a b => .next (listOwner src a b s)
  | .homePage p bad => .next (setHomePage p bad s)
  | .refused p => .next (refusePiece p s)
  | .l2Eviction line => .next (evictL2 line s)
  | .prefetched core line => .next (prefetchArrives core line s)
  | .walkEviction pa => .next (evictWalk pa s)
  | .dieMessage src dst body => .next (sendDieMail src dst body s)
  | .dieMessageTaken die => .next (takeDieMail die s)
  | .recordUpdate r => .next (updateRecord r s)
  | .firmware d c pc => .next (startFirmware d c pc s)
  | .carried job n cut thaw => .next (carryFreeze job n cut thaw s)
  | .collect => .next (collectSent s)

/-! ### A word placed where the next step fetches it -/

/-- The engine that runs an instruction in `withFetchWord`: one on which, at its level, it does not trap. -/
def placeEngine (i : Option Instr) : Engine × Level :=
  match i with
  | some (.qld _) | some (.qldrow _) | some (.aeloop _) | some (.aeend _) => (.access, .kernel)
  | some (.halt _) => (.harbour, .harbour)
  | some (.eret _) => (.scc, .handler)
  | some (.launch _) | some (.lwait _) | some (.mbrecv _) | some (.mbsend _) | some (.evwait _) | some (.tset _)
  | some (.csrw _) | some (.dbgrd _) | some (.dbgwr _) | some (.tlbi _) | some (.cntcfg _) | some (.freeze _) =>
    (.scc, .steward)
  | _ => (.core, .kernel)

/-- The key of the first thread of an engine. -/
def placeKey : Engine → Nat
  | .core => warpKey 0 0
  | .scc => sccKey 0 0
  | .harbour => harbourKey 0 0
  | .access => accessKey 0 0

/-- Where the block of `withFetchWord` stands, as a virtual and as a physical address, and its header: every
register group live, three words. -/
def placeAt : Nat := 0x10000
def placeHeader : W64 := 0xFC03FFFFFFFF0000

/-- The thread that stands at the word. -/
def placeThread (e : Engine × Level) : Thread :=
  let width := if e.1 = .core then 64 else 1
  let lane : Lane := { live := true, pc := BitVec.ofNat 56 (placeAt + 8), header := BitVec.ofNat 56 placeAt, word := placeHeader, gen := 1 }
  { live := true, engine := e.1, level := e.2, ctx := if e.1 = .harbour then 64 else 0, width, budget := if e.1 = .core then 1024 else 0
    regs := { em := BitVec.ofNat 64 (firstLanes width), lanes := (List.range width).map fun l => (l, lane) } }

end Sys2Proof.Machine
end

