-- ==== Sys2Proof/Machine/Step.lean ====
section
/-! DEFINITION. One step of the machine: the next issue of the current fc; else what the agenda puts next;
else what happens next by a free choice (log entry 1). -/

namespace Sys2Proof.Machine

/-- One step. -/
def step (s : State) : Host.Outcome State Fault Refusal :=
  match s.fcq with
  | iss :: rest => runIssue iss { s with fcq := rest, cur := none }
  | [] =>
    match s.agenda with
    | h :: rest => happen h { s with agenda := rest, cur := none, pre := none }
    | [] => happen (Config.freeHappening s.fresh) { s with fresh := s.fresh + 1, cur := none, pre := none }

/-- The machine with an instruction stored where the next step fetches it: a block of device memory, a thread of
context 0 on the first engine of its kind at it, a TLB entry that maps it, and the thread's issue next
(log entry 1: it stands for a program that is loaded and launched from outside). -/
def State.withFetchWord (s : State) (nbits w : Nat) : State :=
  let e := placeEngine (decodeTableWord nbits w)
  let k := placeKey e.1
  let t := placeThread e
  let iss : Issue := { thr := k, lanes := firstLanes t.width, pc := BitVec.ofNat 56 (placeAt + 8), start := s.fl.next }
  let page : Tlb := { live := true, cluster := 0, ctx := 0, vpn := 1, base := placeAt, flags := 0xCF, expiry := s.sys.dt + 2 ^ 40 }
  let code := bytesAt placeAt 8 placeHeader.toNat ++ bytesAt (placeAt + 8) 16 (w % 2 ^ nbits)
  run [fun s =>
    [.bytes code, .thread k fun _ => t, .caches fun c => { c with tlb := page :: c.tlb }, .fc none [iss]]
      ++ (if (s.ctx 0).live then [] else [.ctx 0 fun c => { c with live := true }])] s

end Sys2Proof.Machine
end

