-- ==== Sys2Proof/Laws/Encoding.lean ====
section
/-! SUPPORT. The formats of R34 as numbers, what a packed word's fields read as, and that parsing a packed word gives
its instruction back. -/

namespace Sys2Proof

theorem toNat_append_add {m n : Nat} (x : BitVec m) (y : BitVec n) : (x ++ y).toNat = x.toNat * 2 ^ n + y.toNat := by
  rw [BitVec.toNat_append, ← Nat.shiftLeft_add_eq_or_of_lt y.isLt, Nat.shiftLeft_eq]

theorem toNat_zero_field (n : Nat) : BitVec.toNat (0 : BitVec n) = 0 := by simp

theorem FB.toNat_pack (op : BitVec 10) (f : FB) : (f.pack op).toNat =
    op.toNat * 2 ^ 54 + f.g.toNat * 2 ^ 51 + f.s.toNat * 2 ^ 45 + f.m.toNat * 2 ^ 42 + f.j.toNat * 2 ^ 40 + f.cc.toNat * 2 ^ 36
      + f.n.toNat * 2 ^ 32 + f.off.toNat := by
  simp only [FB.pack, toNat_append_add]; omega

theorem FB.unpack_pack (op : BitVec 10) (f : FB) : FB.unpack (f.pack op) = f := by
  have h := f.toNat_pack op
  have h0 := op.isLt
  have h1 := f.g.isLt
  have h2 := f.s.isLt
  have h3 := f.m.isLt
  have h4 := f.j.isLt
  have h5 := f.cc.isLt
  have h6 := f.n.isLt
  have h7 := f.off.isLt
  obtain ⟨g, s, m, j, cc, n, off⟩ := f
  simp only [FB.unpack, FB.mk.injEq]
  refine ⟨?_, ?_, ?_, ?_, ?_, ?_, ?_⟩ <;> apply BitVec.eq_of_toNat_eq <;>
    simp only [BitVec.extractLsb'_toNat, h, Nat.shiftRight_eq_div_pow] at * <;> omega

theorem FB.low_pack (op : BitVec 10) (f : FB) : ∃ r, r < 2 ^ 54 ∧ (f.pack op).toNat = op.toNat * 2 ^ 54 + r := by
  have h1 := f.g.isLt
  have h2 := f.s.isLt
  have h3 := f.m.isLt
  have h4 := f.j.isLt
  have h5 := f.cc.isLt
  have h6 := f.n.isLt
  have h7 := f.off.isLt
  refine ⟨(f.pack op).toNat - op.toNat * 2 ^ 54, ?_, ?_⟩ <;> rw [f.toNat_pack op] <;> omega

theorem FB.group_pack (op : BitVec 10) (f : FB) : ((f.pack op).extractLsb' 60 4).toNat = (op.extractLsb' 6 4).toNat := by
  obtain ⟨r, h1, h2⟩ := f.low_pack op
  have h0 := op.isLt
  simp only [BitVec.extractLsb'_toNat, h2, Nat.shiftRight_eq_div_pow]; omega

theorem FB.minor_pack (op : BitVec 10) (f : FB) : ((f.pack op).extractLsb' 54 6).toNat = (op.extractLsb' 0 6).toNat := by
  obtain ⟨r, h1, h2⟩ := f.low_pack op
  have h0 := op.isLt
  simp only [BitVec.extractLsb'_toNat, h2, Nat.shiftRight_eq_div_pow]; omega

theorem FS.toNat_pack (op : BitVec 10) (f : FS) : (f.pack op).toNat =
    op.toNat * 2 ^ 54 + f.w.toNat * 2 ^ 53 + f.sd.toNat * 2 ^ 45 + f.sa.toNat * 2 ^ 39 + f.sb.toNat * 2 ^ 33 + f.i.toNat * 2 ^ 32
      + f.imm.toNat := by
  simp only [FS.pack, toNat_append_add, toNat_zero_field]; omega

theorem FS.unpack_pack (op : BitVec 10) (f : FS) : FS.unpack (f.pack op) = f := by
  have h := f.toNat_pack op
  have h0 := op.isLt
  have h1 := f.w.isLt
  have h2 := f.sd.isLt
  have h3 := f.sa.isLt
  have h4 := f.sb.isLt
  have h5 := f.i.isLt
  have h6 := f.imm.isLt
  obtain ⟨w, sd, sa, sb, i, imm⟩ := f
  simp only [FS.unpack, FS.mk.injEq]
  refine ⟨?_, ?_, ?_, ?_, ?_, ?_⟩ <;> apply BitVec.eq_of_toNat_eq <;>
    simp only [BitVec.extractLsb'_toNat, h, Nat.shiftRight_eq_div_pow] at * <;> omega

theorem FS.low_pack (op : BitVec 10) (f : FS) : ∃ r, r < 2 ^ 54 ∧ (f.pack op).toNat = op.toNat * 2 ^ 54 + r := by
  have h1 := f.w.isLt
  have h2 := f.sd.isLt
  have h3 := f.sa.isLt
  have h4 := f.sb.isLt
  have h5 := f.i.isLt
  have h6 := f.imm.isLt
  refine ⟨(f.pack op).toNat - op.toNat * 2 ^ 54, ?_, ?_⟩ <;> rw [f.toNat_pack op] <;> omega

theorem FS.group_pack (op : BitVec 10) (f : FS) : ((f.pack op).extractLsb' 60 4).toNat = (op.extractLsb' 6 4).toNat := by
  obtain ⟨r, h1, h2⟩ := f.low_pack op
  have h0 := op.isLt
  simp only [BitVec.extractLsb'_toNat, h2, Nat.shiftRight_eq_div_pow]; omega

theorem FS.minor_pack (op : BitVec 10) (f : FS) : ((f.pack op).extractLsb' 54 6).toNat = (op.extractLsb' 0 6).toNat := by
  obtain ⟨r, h1, h2⟩ := f.low_pack op
  have h0 := op.isLt
  simp only [BitVec.extractLsb'_toNat, h2, Nat.shiftRight_eq_div_pow]; omega

theorem FV2.toNat_pack (op : BitVec 10) (f : FV2) : (f.pack op).toNat =
    op.toNat * 2 ^ 54 + f.g.toNat * 2 ^ 51 + f.d.toNat * 2 ^ 41 + f.a.toNat * 2 ^ 31 + f.b.toNat * 2 ^ 21 + f.t.toNat * 2 ^ 17
      + f.na.toNat * 2 ^ 10 + f.xa.toNat * 2 ^ 9 + f.nb.toNat * 2 ^ 8 + f.xb.toNat * 2 ^ 7 + f.cl.toNat * 2 ^ 3 + f.sc.toNat := by
  simp only [FV2.pack, toNat_append_add, toNat_zero_field]; omega

theorem FV2.unpack_pack (op : BitVec 10) (f : FV2) : FV2.unpack (f.pack op) = f := by
  have h := f.toNat_pack op
  have h0 := op.isLt
  have h1 := f.g.isLt
  have h2 := f.d.isLt
  have h3 := f.a.isLt
  have h4 := f.b.isLt
  have h5 := f.t.isLt
  have h6 := f.na.isLt
  have h7 := f.xa.isLt
  have h8 := f.nb.isLt
  have h9 := f.xb.isLt
  have h10 := f.cl.isLt
  have h11 := f.sc.isLt
  obtain ⟨g, d, a, b, t, na, xa, nb, xb, cl, sc⟩ := f
  simp only [FV2.unpack, FV2.mk.injEq]
  refine ⟨?_, ?_, ?_, ?_, ?_, ?_, ?_, ?_, ?_, ?_, ?_⟩ <;> apply BitVec.eq_of_toNat_eq <;>
    simp only [BitVec.extractLsb'_toNat, h, Nat.shiftRight_eq_div_pow] at * <;> omega

theorem FV2.low_pack (op : BitVec 10) (f : FV2) : ∃ r, r < 2 ^ 54 ∧ (f.pack op).toNat = op.toNat * 2 ^ 54 + r := by
  have h1 := f.g.isLt
  have h2 := f.d.isLt
  have h3 := f.a.isLt
  have h4 := f.b.isLt
  have h5 := f.t.isLt
  have h6 := f.na.isLt
  have h7 := f.xa.isLt
  have h8 := f.nb.isLt
  have h9 := f.xb.isLt
  have h10 := f.cl.isLt
  have h11 := f.sc.isLt
  refine ⟨(f.pack op).toNat - op.toNat * 2 ^ 54, ?_, ?_⟩ <;> rw [f.toNat_pack op] <;> omega

theorem FV2.group_pack (op : BitVec 10) (f : FV2) : ((f.pack op).extractLsb' 60 4).toNat = (op.extractLsb' 6 4).toNat := by
  obtain ⟨r, h1, h2⟩ := f.low_pack op
  have h0 := op.isLt
  simp only [BitVec.extractLsb'_toNat, h2, Nat.shiftRight_eq_div_pow]; omega

theorem FV2.minor_pack (op : BitVec 10) (f : FV2) : ((f.pack op).extractLsb' 54 6).toNat = (op.extractLsb' 0 6).toNat := by
  obtain ⟨r, h1, h2⟩ := f.low_pack op
  have h0 := op.isLt
  simp only [BitVec.extractLsb'_toNat, h2, Nat.shiftRight_eq_div_pow]; omega

theorem FV3.toNat_pack (op : BitVec 10) (f : FV3) : (f.pack op).toNat =
    op.toNat * 2 ^ 54 + f.g.toNat * 2 ^ 51 + f.d.toNat * 2 ^ 41 + f.a.toNat * 2 ^ 31 + f.b.toNat * 2 ^ 21 + f.c.toNat * 2 ^ 11
      + f.na.toNat * 2 ^ 10 + f.xa.toNat * 2 ^ 9 + f.nb.toNat * 2 ^ 8 + f.xb.toNat * 2 ^ 7 + f.nc.toNat * 2 ^ 6 + f.xc.toNat * 2 ^ 5
      + f.cl.toNat * 2 ^ 3 + f.sc.toNat := by
  simp only [FV3.pack, toNat_append_add]; omega

theorem FV3.unpack_pack (op : BitVec 10) (f : FV3) : FV3.unpack (f.pack op) = f := by
  have h := f.toNat_pack op
  have h0 := op.isLt
  have h1 := f.g.isLt
  have h2 := f.d.isLt
  have h3 := f.a.isLt
  have h4 := f.b.isLt
  have h5 := f.c.isLt
  have h6 := f.na.isLt
  have h7 := f.xa.isLt
  have h8 := f.nb.isLt
  have h9 := f.xb.isLt
  have h10 := f.nc.isLt
  have h11 := f.xc.isLt
  have h12 := f.cl.isLt
  have h13 := f.sc.isLt
  obtain ⟨g, d, a, b, c, na, xa, nb, xb, nc, xc, cl, sc⟩ := f
  simp only [FV3.unpack, FV3.mk.injEq]
  refine ⟨?_, ?_, ?_, ?_, ?_, ?_, ?_, ?_, ?_, ?_, ?_, ?_, ?_⟩ <;> apply BitVec.eq_of_toNat_eq <;>
    simp only [BitVec.extractLsb'_toNat, h, Nat.shiftRight_eq_div_pow] at * <;> omega

theorem FV3.low_pack (op : BitVec 10) (f : FV3) : ∃ r, r < 2 ^ 54 ∧ (f.pack op).toNat = op.toNat * 2 ^ 54 + r := by
  have h1 := f.g.isLt
  have h2 := f.d.isLt
  have h3 := f.a.isLt
  have h4 := f.b.isLt
  have h5 := f.c.isLt
  have h6 := f.na.isLt
  have h7 := f.xa.isLt
  have h8 := f.nb.isLt
  have h9 := f.xb.isLt
  have h10 := f.nc.isLt
  have h11 := f.xc.isLt
  have h12 := f.cl.isLt
  have h13 := f.sc.isLt
  refine ⟨(f.pack op).toNat - op.toNat * 2 ^ 54, ?_, ?_⟩ <;> rw [f.toNat_pack op] <;> omega

theorem FV3.group_pack (op : BitVec 10) (f : FV3) : ((f.pack op).extractLsb' 60 4).toNat = (op.extractLsb' 6 4).toNat := by
  obtain ⟨r, h1, h2⟩ := f.low_pack op
  have h0 := op.isLt
  simp only [BitVec.extractLsb'_toNat, h2, Nat.shiftRight_eq_div_pow]; omega

theorem FV3.minor_pack (op : BitVec 10) (f : FV3) : ((f.pack op).extractLsb' 54 6).toNat = (op.extractLsb' 0 6).toNat := by
  obtain ⟨r, h1, h2⟩ := f.low_pack op
  have h0 := op.isLt
  simp only [BitVec.extractLsb'_toNat, h2, Nat.shiftRight_eq_div_pow]; omega

theorem FVI.toNat_pack (op : BitVec 10) (f : FVI) : (f.pack op).toNat =
    op.toNat * 2 ^ 54 + f.g.toNat * 2 ^ 51 + f.d.toNat * 2 ^ 41 + f.a.toNat * 2 ^ 31 + f.imm.toNat * 2 ^ 15 + f.t.toNat * 2 ^ 11
      + f.na.toNat * 2 ^ 10 + f.xa.toNat * 2 ^ 9 + f.cl.toNat * 2 ^ 3 + f.sc.toNat := by
  simp only [FVI.pack, toNat_append_add, toNat_zero_field]; omega

theorem FVI.unpack_pack (op : BitVec 10) (f : FVI) : FVI.unpack (f.pack op) = f := by
  have h := f.toNat_pack op
  have h0 := op.isLt
  have h1 := f.g.isLt
  have h2 := f.d.isLt
  have h3 := f.a.isLt
  have h4 := f.imm.isLt
  have h5 := f.t.isLt
  have h6 := f.na.isLt
  have h7 := f.xa.isLt
  have h8 := f.cl.isLt
  have h9 := f.sc.isLt
  obtain ⟨g, d, a, imm, t, na, xa, cl, sc⟩ := f
  simp only [FVI.unpack, FVI.mk.injEq]
  refine ⟨?_, ?_, ?_, ?_, ?_, ?_, ?_, ?_, ?_⟩ <;> apply BitVec.eq_of_toNat_eq <;>
    simp only [BitVec.extractLsb'_toNat, h, Nat.shiftRight_eq_div_pow] at * <;> omega

theorem FVI.low_pack (op : BitVec 10) (f : FVI) : ∃ r, r < 2 ^ 54 ∧ (f.pack op).toNat = op.toNat * 2 ^ 54 + r := by
  have h1 := f.g.isLt
  have h2 := f.d.isLt
  have h3 := f.a.isLt
  have h4 := f.imm.isLt
  have h5 := f.t.isLt
  have h6 := f.na.isLt
  have h7 := f.xa.isLt
  have h8 := f.cl.isLt
  have h9 := f.sc.isLt
  refine ⟨(f.pack op).toNat - op.toNat * 2 ^ 54, ?_, ?_⟩ <;> rw [f.toNat_pack op] <;> omega

theorem FVI.group_pack (op : BitVec 10) (f : FVI) : ((f.pack op).extractLsb' 60 4).toNat = (op.extractLsb' 6 4).toNat := by
  obtain ⟨r, h1, h2⟩ := f.low_pack op
  have h0 := op.isLt
  simp only [BitVec.extractLsb'_toNat, h2, Nat.shiftRight_eq_div_pow]; omega

theorem FVI.minor_pack (op : BitVec 10) (f : FVI) : ((f.pack op).extractLsb' 54 6).toNat = (op.extractLsb' 0 6).toNat := by
  obtain ⟨r, h1, h2⟩ := f.low_pack op
  have h0 := op.isLt
  simp only [BitVec.extractLsb'_toNat, h2, Nat.shiftRight_eq_div_pow]; omega

theorem FM.toNat_pack (op : BitVec 10) (f : FM) : (f.pack op).toNat =
    op.toNat * 2 ^ 54 + f.g.toNat * 2 ^ 51 + f.d.toNat * 2 ^ 41 + f.sb.toNat * 2 ^ 35 + f.vx.toNat * 2 ^ 25 + f.ix.toNat * 2 ^ 24
      + f.off.toNat * 2 ^ 12 + f.sz.toNat * 2 ^ 10 + f.n.toNat * 2 ^ 7 + f.h.toNat * 2 ^ 5 + f.o.toNat * 2 ^ 2 + f.k.toNat := by
  simp only [FM.pack, toNat_append_add]; omega

theorem FM.unpack_pack (op : BitVec 10) (f : FM) : FM.unpack (f.pack op) = f := by
  have h := f.toNat_pack op
  have h0 := op.isLt
  have h1 := f.g.isLt
  have h2 := f.d.isLt
  have h3 := f.sb.isLt
  have h4 := f.vx.isLt
  have h5 := f.ix.isLt
  have h6 := f.off.isLt
  have h7 := f.sz.isLt
  have h8 := f.n.isLt
  have h9 := f.h.isLt
  have h10 := f.o.isLt
  have h11 := f.k.isLt
  obtain ⟨g, d, sb, vx, ix, off, sz, n, h, o, k⟩ := f
  simp only [FM.unpack, FM.mk.injEq]
  refine ⟨?_, ?_, ?_, ?_, ?_, ?_, ?_, ?_, ?_, ?_, ?_⟩ <;> apply BitVec.eq_of_toNat_eq <;>
    simp only [BitVec.extractLsb'_toNat, h, Nat.shiftRight_eq_div_pow] at * <;> omega

theorem FM.low_pack (op : BitVec 10) (f : FM) : ∃ r, r < 2 ^ 54 ∧ (f.pack op).toNat = op.toNat * 2 ^ 54 + r := by
  have h1 := f.g.isLt
  have h2 := f.d.isLt
  have h3 := f.sb.isLt
  have h4 := f.vx.isLt
  have h5 := f.ix.isLt
  have h6 := f.off.isLt
  have h7 := f.sz.isLt
  have h8 := f.n.isLt
  have h9 := f.h.isLt
  have h10 := f.o.isLt
  have h11 := f.k.isLt
  refine ⟨(f.pack op).toNat - op.toNat * 2 ^ 54, ?_, ?_⟩ <;> rw [f.toNat_pack op] <;> omega

theorem FM.group_pack (op : BitVec 10) (f : FM) : ((f.pack op).extractLsb' 60 4).toNat = (op.extractLsb' 6 4).toNat := by
  obtain ⟨r, h1, h2⟩ := f.low_pack op
  have h0 := op.isLt
  simp only [BitVec.extractLsb'_toNat, h2, Nat.shiftRight_eq_div_pow]; omega

theorem FM.minor_pack (op : BitVec 10) (f : FM) : ((f.pack op).extractLsb' 54 6).toNat = (op.extractLsb' 0 6).toNat := by
  obtain ⟨r, h1, h2⟩ := f.low_pack op
  have h0 := op.isLt
  simp only [BitVec.extractLsb'_toNat, h2, Nat.shiftRight_eq_div_pow]; omega

theorem FT.toNat_pack (op : BitVec 10) (f : FT) : (f.pack op).toNat =
    op.toNat * 2 ^ 54 + f.g.toNat * 2 ^ 51 + f.acc.toNat * 2 ^ 41 + f.a.toNat * 2 ^ 31 + f.sa.toNat * 2 ^ 21 + f.slot.toNat * 2 ^ 19
      + f.bs.toNat * 2 ^ 17 + f.sx.toNat * 2 ^ 11 + f.sp.toNat * 2 ^ 5 + f.f.toNat * 2 ^ 4 + f.m.toNat := by
  simp only [FT.pack, toNat_append_add]; omega

theorem FT.unpack_pack (op : BitVec 10) (f : FT) : FT.unpack (f.pack op) = f := by
  have h := f.toNat_pack op
  have h0 := op.isLt
  have h1 := f.g.isLt
  have h2 := f.acc.isLt
  have h3 := f.a.isLt
  have h4 := f.sa.isLt
  have h5 := f.slot.isLt
  have h6 := f.bs.isLt
  have h7 := f.sx.isLt
  have h8 := f.sp.isLt
  have h9 := f.f.isLt
  have h10 := f.m.isLt
  obtain ⟨g, acc, a, sa, slot, bs, sx, sp, f, m⟩ := f
  simp only [FT.unpack, FT.mk.injEq]
  refine ⟨?_, ?_, ?_, ?_, ?_, ?_, ?_, ?_, ?_, ?_⟩ <;> apply BitVec.eq_of_toNat_eq <;>
    simp only [BitVec.extractLsb'_toNat, h, Nat.shiftRight_eq_div_pow] at * <;> omega

theorem FT.low_pack (op : BitVec 10) (f : FT) : ∃ r, r < 2 ^ 54 ∧ (f.pack op).toNat = op.toNat * 2 ^ 54 + r := by
  have h1 := f.g.isLt
  have h2 := f.acc.isLt
  have h3 := f.a.isLt
  have h4 := f.sa.isLt
  have h5 := f.slot.isLt
  have h6 := f.bs.isLt
  have h7 := f.sx.isLt
  have h8 := f.sp.isLt
  have h9 := f.f.isLt
  have h10 := f.m.isLt
  refine ⟨(f.pack op).toNat - op.toNat * 2 ^ 54, ?_, ?_⟩ <;> rw [f.toNat_pack op] <;> omega

theorem FT.group_pack (op : BitVec 10) (f : FT) : ((f.pack op).extractLsb' 60 4).toNat = (op.extractLsb' 6 4).toNat := by
  obtain ⟨r, h1, h2⟩ := f.low_pack op
  have h0 := op.isLt
  simp only [BitVec.extractLsb'_toNat, h2, Nat.shiftRight_eq_div_pow]; omega

theorem FT.minor_pack (op : BitVec 10) (f : FT) : ((f.pack op).extractLsb' 54 6).toNat = (op.extractLsb' 0 6).toNat := by
  obtain ⟨r, h1, h2⟩ := f.low_pack op
  have h0 := op.isLt
  simp only [BitVec.extractLsb'_toNat, h2, Nat.shiftRight_eq_div_pow]; omega

theorem FY.toNat_pack (op : BitVec 10) (f : FY) : (f.pack op).toNat =
    op.toNat * 2 ^ 54 + f.sd.toNat * 2 ^ 45 + f.sa.toNat * 2 ^ 39 + f.id.toNat * 2 ^ 27 + f.imm.toNat := by
  simp only [FY.pack, toNat_append_add, toNat_zero_field]; omega

theorem FY.unpack_pack (op : BitVec 10) (f : FY) : FY.unpack (f.pack op) = f := by
  have h := f.toNat_pack op
  have h0 := op.isLt
  have h1 := f.sd.isLt
  have h2 := f.sa.isLt
  have h3 := f.id.isLt
  have h4 := f.imm.isLt
  obtain ⟨sd, sa, id, imm⟩ := f
  simp only [FY.unpack, FY.mk.injEq]
  refine ⟨?_, ?_, ?_, ?_⟩ <;> apply BitVec.eq_of_toNat_eq <;>
    simp only [BitVec.extractLsb'_toNat, h, Nat.shiftRight_eq_div_pow] at * <;> omega

theorem FY.low_pack (op : BitVec 10) (f : FY) : ∃ r, r < 2 ^ 54 ∧ (f.pack op).toNat = op.toNat * 2 ^ 54 + r := by
  have h1 := f.sd.isLt
  have h2 := f.sa.isLt
  have h3 := f.id.isLt
  have h4 := f.imm.isLt
  refine ⟨(f.pack op).toNat - op.toNat * 2 ^ 54, ?_, ?_⟩ <;> rw [f.toNat_pack op] <;> omega

theorem FY.group_pack (op : BitVec 10) (f : FY) : ((f.pack op).extractLsb' 60 4).toNat = (op.extractLsb' 6 4).toNat := by
  obtain ⟨r, h1, h2⟩ := f.low_pack op
  have h0 := op.isLt
  simp only [BitVec.extractLsb'_toNat, h2, Nat.shiftRight_eq_div_pow]; omega

theorem FY.minor_pack (op : BitVec 10) (f : FY) : ((f.pack op).extractLsb' 54 6).toNat = (op.extractLsb' 0 6).toNat := by
  obtain ⟨r, h1, h2⟩ := f.low_pack op
  have h0 := op.isLt
  simp only [BitVec.extractLsb'_toNat, h2, Nat.shiftRight_eq_div_pow]; omega

theorem FB.parse_pack (op : BitVec 10) (f : FB) (ext : W64) :
    parse (f.pack op) ext = parseAt (op.extractLsb' 6 4).toNat (op.extractLsb' 0 6).toNat (f.pack op) ext := by
  rw [parse, f.group_pack, f.minor_pack]

theorem FS.parse_pack (op : BitVec 10) (f : FS) (ext : W64) :
    parse (f.pack op) ext = parseAt (op.extractLsb' 6 4).toNat (op.extractLsb' 0 6).toNat (f.pack op) ext := by
  rw [parse, f.group_pack, f.minor_pack]

theorem FV2.parse_pack (op : BitVec 10) (f : FV2) (ext : W64) :
    parse (f.pack op) ext = parseAt (op.extractLsb' 6 4).toNat (op.extractLsb' 0 6).toNat (f.pack op) ext := by
  rw [parse, f.group_pack, f.minor_pack]

theorem FV3.parse_pack (op : BitVec 10) (f : FV3) (ext : W64) :
    parse (f.pack op) ext = parseAt (op.extractLsb' 6 4).toNat (op.extractLsb' 0 6).toNat (f.pack op) ext := by
  rw [parse, f.group_pack, f.minor_pack]

theorem FVI.parse_pack (op : BitVec 10) (f : FVI) (ext : W64) :
    parse (f.pack op) ext = parseAt (op.extractLsb' 6 4).toNat (op.extractLsb' 0 6).toNat (f.pack op) ext := by
  rw [parse, f.group_pack, f.minor_pack]

theorem FM.parse_pack (op : BitVec 10) (f : FM) (ext : W64) :
    parse (f.pack op) ext = parseAt (op.extractLsb' 6 4).toNat (op.extractLsb' 0 6).toNat (f.pack op) ext := by
  rw [parse, f.group_pack, f.minor_pack]

theorem FT.parse_pack (op : BitVec 10) (f : FT) (ext : W64) :
    parse (f.pack op) ext = parseAt (op.extractLsb' 6 4).toNat (op.extractLsb' 0 6).toNat (f.pack op) ext := by
  rw [parse, f.group_pack, f.minor_pack]

theorem FY.parse_pack (op : BitVec 10) (f : FY) (ext : W64) :
    parse (f.pack op) ext = parseAt (op.extractLsb' 6 4).toNat (op.extractLsb' 0 6).toNat (f.pack op) ext := by
  rw [parse, f.group_pack, f.minor_pack]

/-- A word that parses to an instruction whose first word it is decodes to it where its fields are well formed. -/
theorem decode_of_parse {w ext : W64} {i : Instr} (hp : parse w ext = some i) (he : (encode i).head? = some w)
    (hw : i.wellFormed = true) : decode w ext = some i := by
  simp [decode, hp, he, hw]

end Sys2Proof
end

