-- ==== Sys2Proof/Laws/PerInstr.lean ====
section
/-! SUPPORT. Statements made for every instruction: the round trip of an instruction through its words. -/

namespace Sys2Proof.Laws.Encoding

open Sys2Proof.Machine

set_option Elab.async false

/-- The words of a well-formed instruction decode to it, whatever follows them; a step of the device, which has no word,
says nothing. -/
def Statement (i : Instr) : Prop :=
  ∀ after : W64, i.wellFormed = true →
    match encode i with
    | [] => True
    | [w] => decode w after = some i
    | w :: e :: _ => decode w e = some i

theorem nop (f : FB) : Statement (.nop f) := fun _ h =>
  decode_of_parse ((FB.parse_pack 0x000 f _).trans (congrArg (fun x : FB => some (Instr.nop x)) (FB.unpack_pack 0x000 f))) rfl h
theorem bra (f : FB) : Statement (.bra f) := fun _ h =>
  decode_of_parse ((FB.parse_pack 0x001 f _).trans (congrArg (fun x : FB => some (Instr.bra x)) (FB.unpack_pack 0x001 f))) rfl h
theorem brc (f : FB) : Statement (.brc f) := fun _ h =>
  decode_of_parse ((FB.parse_pack 0x002 f _).trans (congrArg (fun x : FB => some (Instr.brc x)) (FB.unpack_pack 0x002 f))) rfl h
theorem bru (f : FB) : Statement (.bru f) := fun _ h =>
  decode_of_parse ((FB.parse_pack 0x003 f _).trans (congrArg (fun x : FB => some (Instr.bru x)) (FB.unpack_pack 0x003 f))) rfl h
theorem brx (f : FB) : Statement (.brx f) := fun _ h =>
  decode_of_parse ((FB.parse_pack 0x004 f _).trans (congrArg (fun x : FB => some (Instr.brx x)) (FB.unpack_pack 0x004 f))) rfl h
theorem call (f : FB) : Statement (.call f) := fun _ h =>
  decode_of_parse ((FB.parse_pack 0x005 f _).trans (congrArg (fun x : FB => some (Instr.call x)) (FB.unpack_pack 0x005 f))) rfl h
theorem ret (f : FB) : Statement (.ret f) := fun _ h =>
  decode_of_parse ((FB.parse_pack 0x006 f _).trans (congrArg (fun x : FB => some (Instr.ret x)) (FB.unpack_pack 0x006 f))) rfl h
theorem enrol (f : FB) : Statement (.enrol f) := fun _ h =>
  decode_of_parse ((FB.parse_pack 0x007 f _).trans (congrArg (fun x : FB => some (Instr.enrol x)) (FB.unpack_pack 0x007 f))) rfl h
theorem await (f : FB) : Statement (.await f) := fun _ h =>
  decode_of_parse ((FB.parse_pack 0x008 f _).trans (congrArg (fun x : FB => some (Instr.await x)) (FB.unpack_pack 0x008 f))) rfl h
theorem exit (f : FB) : Statement (.exit f) := fun _ h =>
  decode_of_parse ((FB.parse_pack 0x009 f _).trans (congrArg (fun x : FB => some (Instr.exit x)) (FB.unpack_pack 0x009 f))) rfl h
theorem yield (f : FB) : Statement (.yield f) := fun _ h =>
  decode_of_parse ((FB.parse_pack 0x00A f _).trans (congrArg (fun x : FB => some (Instr.yield x)) (FB.unpack_pack 0x00A f))) rfl h
theorem rep (f : FB) : Statement (.rep f) := fun _ h =>
  decode_of_parse ((FB.parse_pack 0x00B f _).trans (congrArg (fun x : FB => some (Instr.rep x)) (FB.unpack_pack 0x00B f))) rfl h
theorem wait (f : FB) : Statement (.wait f) := fun _ h =>
  decode_of_parse ((FB.parse_pack 0x00C f _).trans (congrArg (fun x : FB => some (Instr.wait x)) (FB.unpack_pack 0x00C f))) rfl h
theorem sleep (f : FB) : Statement (.sleep f) := fun _ h =>
  decode_of_parse ((FB.parse_pack 0x00D f _).trans (congrArg (fun x : FB => some (Instr.sleep x)) (FB.unpack_pack 0x00D f))) rfl h
theorem bar (f : FB) : Statement (.bar f) := fun _ h =>
  decode_of_parse ((FB.parse_pack 0x00E f _).trans (congrArg (fun x : FB => some (Instr.bar x)) (FB.unpack_pack 0x00E f))) rfl h
theorem bara (f : FB) : Statement (.bara f) := fun _ h =>
  decode_of_parse ((FB.parse_pack 0x00F f _).trans (congrArg (fun x : FB => some (Instr.bara x)) (FB.unpack_pack 0x00F f))) rfl h
theorem barw (f : FB) : Statement (.barw f) := fun _ h =>
  decode_of_parse ((FB.parse_pack 0x010 f _).trans (congrArg (fun x : FB => some (Instr.barw x)) (FB.unpack_pack 0x010 f))) rfl h
theorem sadd (f : FS) : Statement (.sadd f) := fun _ h =>
  decode_of_parse ((FS.parse_pack 0x040 f _).trans (congrArg (fun x : FS => some (Instr.sadd x)) (FS.unpack_pack 0x040 f))) rfl h
theorem ssub (f : FS) : Statement (.ssub f) := fun _ h =>
  decode_of_parse ((FS.parse_pack 0x041 f _).trans (congrArg (fun x : FS => some (Instr.ssub x)) (FS.unpack_pack 0x041 f))) rfl h
theorem smul (f : FS) : Statement (.smul f) := fun _ h =>
  decode_of_parse ((FS.parse_pack 0x042 f _).trans (congrArg (fun x : FS => some (Instr.smul x)) (FS.unpack_pack 0x042 f))) rfl h
theorem smulh (f : FS) : Statement (.smulh f) := fun _ h =>
  decode_of_parse ((FS.parse_pack 0x043 f _).trans (congrArg (fun x : FS => some (Instr.smulh x)) (FS.unpack_pack 0x043 f))) rfl h
theorem smulhn (f : FS) : Statement (.smulhn f) := fun _ h =>
  decode_of_parse ((FS.parse_pack 0x044 f _).trans (congrArg (fun x : FS => some (Instr.smulhn x)) (FS.unpack_pack 0x044 f))) rfl h
theorem sdiv (f : FS) : Statement (.sdiv f) := fun _ h =>
  decode_of_parse ((FS.parse_pack 0x045 f _).trans (congrArg (fun x : FS => some (Instr.sdiv x)) (FS.unpack_pack 0x045 f))) rfl h
theorem sdivn (f : FS) : Statement (.sdivn f) := fun _ h =>
  decode_of_parse ((FS.parse_pack 0x046 f _).trans (congrArg (fun x : FS => some (Instr.sdivn x)) (FS.unpack_pack 0x046 f))) rfl h
theorem srem (f : FS) : Statement (.srem f) := fun _ h =>
  decode_of_parse ((FS.parse_pack 0x047 f _).trans (congrArg (fun x : FS => some (Instr.srem x)) (FS.unpack_pack 0x047 f))) rfl h
theorem sremn (f : FS) : Statement (.sremn f) := fun _ h =>
  decode_of_parse ((FS.parse_pack 0x048 f _).trans (congrArg (fun x : FS => some (Instr.sremn x)) (FS.unpack_pack 0x048 f))) rfl h
theorem sand (f : FS) : Statement (.sand f) := fun _ h =>
  decode_of_parse ((FS.parse_pack 0x049 f _).trans (congrArg (fun x : FS => some (Instr.sand x)) (FS.unpack_pack 0x049 f))) rfl h
theorem sor (f : FS) : Statement (.sor f) := fun _ h =>
  decode_of_parse ((FS.parse_pack 0x04A f _).trans (congrArg (fun x : FS => some (Instr.sor x)) (FS.unpack_pack 0x04A f))) rfl h
theorem sxor (f : FS) : Statement (.sxor f) := fun _ h =>
  decode_of_parse ((FS.parse_pack 0x04B f _).trans (congrArg (fun x : FS => some (Instr.sxor x)) (FS.unpack_pack 0x04B f))) rfl h
theorem sshl (f : FS) : Statement (.sshl f) := fun _ h =>
  decode_of_parse ((FS.parse_pack 0x04C f _).trans (congrArg (fun x : FS => some (Instr.sshl x)) (FS.unpack_pack 0x04C f))) rfl h
theorem sshr (f : FS) : Statement (.sshr f) := fun _ h =>
  decode_of_parse ((FS.parse_pack 0x04D f _).trans (congrArg (fun x : FS => some (Instr.sshr x)) (FS.unpack_pack 0x04D f))) rfl h
theorem ssra (f : FS) : Statement (.ssra f) := fun _ h =>
  decode_of_parse ((FS.parse_pack 0x04E f _).trans (congrArg (fun x : FS => some (Instr.ssra x)) (FS.unpack_pack 0x04E f))) rfl h
theorem smin (f : FS) : Statement (.smin f) := fun _ h =>
  decode_of_parse ((FS.parse_pack 0x04F f _).trans (congrArg (fun x : FS => some (Instr.smin x)) (FS.unpack_pack 0x04F f))) rfl h
theorem sminn (f : FS) : Statement (.sminn f) := fun _ h =>
  decode_of_parse ((FS.parse_pack 0x050 f _).trans (congrArg (fun x : FS => some (Instr.sminn x)) (FS.unpack_pack 0x050 f))) rfl h
theorem smax (f : FS) : Statement (.smax f) := fun _ h =>
  decode_of_parse ((FS.parse_pack 0x051 f _).trans (congrArg (fun x : FS => some (Instr.smax x)) (FS.unpack_pack 0x051 f))) rfl h
theorem smaxn (f : FS) : Statement (.smaxn f) := fun _ h =>
  decode_of_parse ((FS.parse_pack 0x052 f _).trans (congrArg (fun x : FS => some (Instr.smaxn x)) (FS.unpack_pack 0x052 f))) rfl h
theorem sseq (f : FS) : Statement (.sseq f) := fun _ h =>
  decode_of_parse ((FS.parse_pack 0x053 f _).trans (congrArg (fun x : FS => some (Instr.sseq x)) (FS.unpack_pack 0x053 f))) rfl h
theorem ssne (f : FS) : Statement (.ssne f) := fun _ h =>
  decode_of_parse ((FS.parse_pack 0x054 f _).trans (congrArg (fun x : FS => some (Instr.ssne x)) (FS.unpack_pack 0x054 f))) rfl h
theorem sslt (f : FS) : Statement (.sslt f) := fun _ h =>
  decode_of_parse ((FS.parse_pack 0x055 f _).trans (congrArg (fun x : FS => some (Instr.sslt x)) (FS.unpack_pack 0x055 f))) rfl h
theorem ssle (f : FS) : Statement (.ssle f) := fun _ h =>
  decode_of_parse ((FS.parse_pack 0x056 f _).trans (congrArg (fun x : FS => some (Instr.ssle x)) (FS.unpack_pack 0x056 f))) rfl h
theorem ssltn (f : FS) : Statement (.ssltn f) := fun _ h =>
  decode_of_parse ((FS.parse_pack 0x057 f _).trans (congrArg (fun x : FS => some (Instr.ssltn x)) (FS.unpack_pack 0x057 f))) rfl h
theorem sslen (f : FS) : Statement (.sslen f) := fun _ h =>
  decode_of_parse ((FS.parse_pack 0x058 f _).trans (congrArg (fun x : FS => some (Instr.sslen x)) (FS.unpack_pack 0x058 f))) rfl h
theorem spopc (f : FS) : Statement (.spopc f) := fun _ h =>
  decode_of_parse ((FS.parse_pack 0x059 f _).trans (congrArg (fun x : FS => some (Instr.spopc x)) (FS.unpack_pack 0x059 f))) rfl h
theorem sclz (f : FS) : Statement (.sclz f) := fun _ h =>
  decode_of_parse ((FS.parse_pack 0x05A f _).trans (congrArg (fun x : FS => some (Instr.sclz x)) (FS.unpack_pack 0x05A f))) rfl h
theorem ssel (f : FS) : Statement (.ssel f) := fun _ h =>
  decode_of_parse ((FS.parse_pack 0x05B f _).trans (congrArg (fun x : FS => some (Instr.ssel x)) (FS.unpack_pack 0x05B f))) rfl h
theorem sli (f : FSL) : Statement (.sli f) := fun _ h =>
  decode_of_parse ((FS.parse_pack 0x05C f.first f.ext).trans (congrArg (fun x : FS => some (Instr.sli ⟨x, f.ext⟩)) (FS.unpack_pack 0x05C f.first))) rfl h
theorem sld (f : FS) : Statement (.sld f) := fun _ h =>
  decode_of_parse ((FS.parse_pack 0x080 f _).trans (congrArg (fun x : FS => some (Instr.sld x)) (FS.unpack_pack 0x080 f))) rfl h
theorem sst (f : FS) : Statement (.sst f) := fun _ h =>
  decode_of_parse ((FS.parse_pack 0x081 f _).trans (congrArg (fun x : FS => some (Instr.sst x)) (FS.unpack_pack 0x081 f))) rfl h
theorem sget (f : FS) : Statement (.sget f) := fun _ h =>
  decode_of_parse ((FS.parse_pack 0x082 f _).trans (congrArg (fun x : FS => some (Instr.sget x)) (FS.unpack_pack 0x082 f))) rfl h
theorem vget (f : FS) : Statement (.vget f) := fun _ h =>
  decode_of_parse ((FS.parse_pack 0x083 f _).trans (congrArg (fun x : FS => some (Instr.vget x)) (FS.unpack_pack 0x083 f))) rfl h
theorem slane (f : FS) : Statement (.slane f) := fun _ h =>
  decode_of_parse ((FS.parse_pack 0x084 f _).trans (congrArg (fun x : FS => some (Instr.slane x)) (FS.unpack_pack 0x084 f))) rfl h
theorem vsplat (f : FS) : Statement (.vsplat f) := fun _ h =>
  decode_of_parse ((FS.parse_pack 0x085 f _).trans (congrArg (fun x : FS => some (Instr.vsplat x)) (FS.unpack_pack 0x085 f))) rfl h
theorem mand (f : FS) : Statement (.mand f) := fun _ h =>
  decode_of_parse ((FS.parse_pack 0x086 f _).trans (congrArg (fun x : FS => some (Instr.mand x)) (FS.unpack_pack 0x086 f))) rfl h
theorem mor (f : FS) : Statement (.mor f) := fun _ h =>
  decode_of_parse ((FS.parse_pack 0x087 f _).trans (congrArg (fun x : FS => some (Instr.mor x)) (FS.unpack_pack 0x087 f))) rfl h
theorem mxor (f : FS) : Statement (.mxor f) := fun _ h =>
  decode_of_parse ((FS.parse_pack 0x088 f _).trans (congrArg (fun x : FS => some (Instr.mxor x)) (FS.unpack_pack 0x088 f))) rfl h
theorem mandn (f : FS) : Statement (.mandn f) := fun _ h =>
  decode_of_parse ((FS.parse_pack 0x089 f _).trans (congrArg (fun x : FS => some (Instr.mandn x)) (FS.unpack_pack 0x089 f))) rfl h
theorem mpopc (f : FS) : Statement (.mpopc f) := fun _ h =>
  decode_of_parse ((FS.parse_pack 0x08A f _).trans (congrArg (fun x : FS => some (Instr.mpopc x)) (FS.unpack_pack 0x08A f))) rfl h
theorem mfind (f : FS) : Statement (.mfind f) := fun _ h =>
  decode_of_parse ((FS.parse_pack 0x08B f _).trans (congrArg (fun x : FS => some (Instr.mfind x)) (FS.unpack_pack 0x08B f))) rfl h
theorem mfroms (f : FS) : Statement (.mfroms f) := fun _ h =>
  decode_of_parse ((FS.parse_pack 0x08C f _).trans (congrArg (fun x : FS => some (Instr.mfroms x)) (FS.unpack_pack 0x08C f))) rfl h
theorem mtos (f : FS) : Statement (.mtos f) := fun _ h =>
  decode_of_parse ((FS.parse_pack 0x08D f _).trans (congrArg (fun x : FS => some (Instr.mtos x)) (FS.unpack_pack 0x08D f))) rfl h
theorem vadd (f : FV2) : Statement (.vadd f) := fun _ h =>
  decode_of_parse ((FV2.parse_pack 0x0C0 f _).trans (congrArg (fun x : FV2 => some (Instr.vadd x)) (FV2.unpack_pack 0x0C0 f))) rfl h
theorem vsub (f : FV2) : Statement (.vsub f) := fun _ h =>
  decode_of_parse ((FV2.parse_pack 0x0C1 f _).trans (congrArg (fun x : FV2 => some (Instr.vsub x)) (FV2.unpack_pack 0x0C1 f))) rfl h
theorem vmul (f : FV2) : Statement (.vmul f) := fun _ h =>
  decode_of_parse ((FV2.parse_pack 0x0C2 f _).trans (congrArg (fun x : FV2 => some (Instr.vmul x)) (FV2.unpack_pack 0x0C2 f))) rfl h
theorem vmulh (f : FV2) : Statement (.vmulh f) := fun _ h =>
  decode_of_parse ((FV2.parse_pack 0x0C3 f _).trans (congrArg (fun x : FV2 => some (Instr.vmulh x)) (FV2.unpack_pack 0x0C3 f))) rfl h
theorem vmin (f : FV2) : Statement (.vmin f) := fun _ h =>
  decode_of_parse ((FV2.parse_pack 0x0C4 f _).trans (congrArg (fun x : FV2 => some (Instr.vmin x)) (FV2.unpack_pack 0x0C4 f))) rfl h
theorem vmax (f : FV2) : Statement (.vmax f) := fun _ h =>
  decode_of_parse ((FV2.parse_pack 0x0C5 f _).trans (congrArg (fun x : FV2 => some (Instr.vmax x)) (FV2.unpack_pack 0x0C5 f))) rfl h
theorem vand (f : FV2) : Statement (.vand f) := fun _ h =>
  decode_of_parse ((FV2.parse_pack 0x0C6 f _).trans (congrArg (fun x : FV2 => some (Instr.vand x)) (FV2.unpack_pack 0x0C6 f))) rfl h
theorem vor (f : FV2) : Statement (.vor f) := fun _ h =>
  decode_of_parse ((FV2.parse_pack 0x0C7 f _).trans (congrArg (fun x : FV2 => some (Instr.vor x)) (FV2.unpack_pack 0x0C7 f))) rfl h
theorem vxor (f : FV2) : Statement (.vxor f) := fun _ h =>
  decode_of_parse ((FV2.parse_pack 0x0C8 f _).trans (congrArg (fun x : FV2 => some (Instr.vxor x)) (FV2.unpack_pack 0x0C8 f))) rfl h
theorem vandn (f : FV2) : Statement (.vandn f) := fun _ h =>
  decode_of_parse ((FV2.parse_pack 0x0C9 f _).trans (congrArg (fun x : FV2 => some (Instr.vandn x)) (FV2.unpack_pack 0x0C9 f))) rfl h
theorem vshl (f : FV2) : Statement (.vshl f) := fun _ h =>
  decode_of_parse ((FV2.parse_pack 0x0CA f _).trans (congrArg (fun x : FV2 => some (Instr.vshl x)) (FV2.unpack_pack 0x0CA f))) rfl h
theorem vshr (f : FV2) : Statement (.vshr f) := fun _ h =>
  decode_of_parse ((FV2.parse_pack 0x0CB f _).trans (congrArg (fun x : FV2 => some (Instr.vshr x)) (FV2.unpack_pack 0x0CB f))) rfl h
theorem vsra (f : FV2) : Statement (.vsra f) := fun _ h =>
  decode_of_parse ((FV2.parse_pack 0x0CC f _).trans (congrArg (fun x : FV2 => some (Instr.vsra x)) (FV2.unpack_pack 0x0CC f))) rfl h
theorem vpopc (f : FV2) : Statement (.vpopc f) := fun _ h =>
  decode_of_parse ((FV2.parse_pack 0x0CD f _).trans (congrArg (fun x : FV2 => some (Instr.vpopc x)) (FV2.unpack_pack 0x0CD f))) rfl h
theorem vclz (f : FV2) : Statement (.vclz f) := fun _ h =>
  decode_of_parse ((FV2.parse_pack 0x0CE f _).trans (congrArg (fun x : FV2 => some (Instr.vclz x)) (FV2.unpack_pack 0x0CE f))) rfl h
theorem vbrev (f : FV2) : Statement (.vbrev f) := fun _ h =>
  decode_of_parse ((FV2.parse_pack 0x0CF f _).trans (congrArg (fun x : FV2 => some (Instr.vbrev x)) (FV2.unpack_pack 0x0CF f))) rfl h
theorem vabsd (f : FV2) : Statement (.vabsd f) := fun _ h =>
  decode_of_parse ((FV2.parse_pack 0x0D0 f _).trans (congrArg (fun x : FV2 => some (Instr.vabsd x)) (FV2.unpack_pack 0x0D0 f))) rfl h
theorem vcmp (f : FV2) : Statement (.vcmp f) := fun _ h =>
  decode_of_parse ((FV2.parse_pack 0x0D1 f _).trans (congrArg (fun x : FV2 => some (Instr.vcmp x)) (FV2.unpack_pack 0x0D1 f))) rfl h
theorem vmov (f : FV2) : Statement (.vmov f) := fun _ h =>
  decode_of_parse ((FV2.parse_pack 0x0D2 f _).trans (congrArg (fun x : FV2 => some (Instr.vmov x)) (FV2.unpack_pack 0x0D2 f))) rfl h
theorem vmad (f : FV3) : Statement (.vmad f) := fun _ h =>
  decode_of_parse ((FV3.parse_pack 0x0D3 f _).trans (congrArg (fun x : FV3 => some (Instr.vmad x)) (FV3.unpack_pack 0x0D3 f))) rfl h
theorem vsel (f : FV3) : Statement (.vsel f) := fun _ h =>
  decode_of_parse ((FV3.parse_pack 0x0D4 f _).trans (congrArg (fun x : FV3 => some (Instr.vsel x)) (FV3.unpack_pack 0x0D4 f))) rfl h
theorem vbfx (f : FV3) : Statement (.vbfx f) := fun _ h =>
  decode_of_parse ((FV3.parse_pack 0x0D5 f _).trans (congrArg (fun x : FV3 => some (Instr.vbfx x)) (FV3.unpack_pack 0x0D5 f))) rfl h
theorem vbfi (f : FV3) : Statement (.vbfi f) := fun _ h =>
  decode_of_parse ((FV3.parse_pack 0x0D6 f _).trans (congrArg (fun x : FV3 => some (Instr.vbfi x)) (FV3.unpack_pack 0x0D6 f))) rfl h
theorem vmovi (f : FVI) : Statement (.vmovi f) := fun _ h =>
  decode_of_parse ((FVI.parse_pack 0x0D7 f _).trans (congrArg (fun x : FVI => some (Instr.vmovi x)) (FVI.unpack_pack 0x0D7 f))) rfl h
theorem vaddi (f : FVI) : Statement (.vaddi f) := fun _ h =>
  decode_of_parse ((FVI.parse_pack 0x0D8 f _).trans (congrArg (fun x : FVI => some (Instr.vaddi x)) (FVI.unpack_pack 0x0D8 f))) rfl h
theorem vandi (f : FVI) : Statement (.vandi f) := fun _ h =>
  decode_of_parse ((FVI.parse_pack 0x0D9 f _).trans (congrArg (fun x : FVI => some (Instr.vandi x)) (FVI.unpack_pack 0x0D9 f))) rfl h
theorem vori (f : FVI) : Statement (.vori f) := fun _ h =>
  decode_of_parse ((FVI.parse_pack 0x0DA f _).trans (congrArg (fun x : FVI => some (Instr.vori x)) (FVI.unpack_pack 0x0DA f))) rfl h
theorem vxori (f : FVI) : Statement (.vxori f) := fun _ h =>
  decode_of_parse ((FVI.parse_pack 0x0DB f _).trans (congrArg (fun x : FVI => some (Instr.vxori x)) (FVI.unpack_pack 0x0DB f))) rfl h
theorem vshli (f : FVI) : Statement (.vshli f) := fun _ h =>
  decode_of_parse ((FVI.parse_pack 0x0DC f _).trans (congrArg (fun x : FVI => some (Instr.vshli x)) (FVI.unpack_pack 0x0DC f))) rfl h
theorem vshri (f : FVI) : Statement (.vshri f) := fun _ h =>
  decode_of_parse ((FVI.parse_pack 0x0DD f _).trans (congrArg (fun x : FVI => some (Instr.vshri x)) (FVI.unpack_pack 0x0DD f))) rfl h
theorem vsrai (f : FVI) : Statement (.vsrai f) := fun _ h =>
  decode_of_parse ((FVI.parse_pack 0x0DE f _).trans (congrArg (fun x : FVI => some (Instr.vsrai x)) (FVI.unpack_pack 0x0DE f))) rfl h
theorem vcmpi (f : FVI) : Statement (.vcmpi f) := fun _ h =>
  decode_of_parse ((FVI.parse_pack 0x0DF f _).trans (congrArg (fun x : FVI => some (Instr.vcmpi x)) (FVI.unpack_pack 0x0DF f))) rfl h
theorem vperm (f : FV2) : Statement (.vperm f) := fun _ h =>
  decode_of_parse ((FV2.parse_pack 0x100 f _).trans (congrArg (fun x : FV2 => some (Instr.vperm x)) (FV2.unpack_pack 0x100 f))) rfl h
theorem vshfl (f : FV2) : Statement (.vshfl f) := fun _ h =>
  decode_of_parse ((FV2.parse_pack 0x101 f _).trans (congrArg (fun x : FV2 => some (Instr.vshfl x)) (FV2.unpack_pack 0x101 f))) rfl h
theorem vbcast (f : FV2) : Statement (.vbcast f) := fun _ h =>
  decode_of_parse ((FV2.parse_pack 0x102 f _).trans (congrArg (fun x : FV2 => some (Instr.vbcast x)) (FV2.unpack_pack 0x102 f))) rfl h
theorem vred (f : FV2) : Statement (.vred f) := fun _ h =>
  decode_of_parse ((FV2.parse_pack 0x103 f _).trans (congrArg (fun x : FV2 => some (Instr.vred x)) (FV2.unpack_pack 0x103 f))) rfl h
theorem vfred (f : FV2) : Statement (.vfred f) := fun _ h =>
  decode_of_parse ((FV2.parse_pack 0x104 f _).trans (congrArg (fun x : FV2 => some (Instr.vfred x)) (FV2.unpack_pack 0x104 f))) rfl h
theorem vscan (f : FV2) : Statement (.vscan f) := fun _ h =>
  decode_of_parse ((FV2.parse_pack 0x105 f _).trans (congrArg (fun x : FV2 => some (Instr.vscan x)) (FV2.unpack_pack 0x105 f))) rfl h
theorem vmatch (f : FV2) : Statement (.vmatch f) := fun _ h =>
  decode_of_parse ((FV2.parse_pack 0x106 f _).trans (congrArg (fun x : FV2 => some (Instr.vmatch x)) (FV2.unpack_pack 0x106 f))) rfl h
theorem vmovx (f : FV2) : Statement (.vmovx f) := fun _ h =>
  decode_of_parse ((FV2.parse_pack 0x107 f _).trans (congrArg (fun x : FV2 => some (Instr.vmovx x)) (FV2.unpack_pack 0x107 f))) rfl h
theorem vmovxw (f : FV2) : Statement (.vmovxw f) := fun _ h =>
  decode_of_parse ((FV2.parse_pack 0x108 f _).trans (congrArg (fun x : FV2 => some (Instr.vmovxw x)) (FV2.unpack_pack 0x108 f))) rfl h
theorem vcomp (f : FV2) : Statement (.vcomp f) := fun _ h =>
  decode_of_parse ((FV2.parse_pack 0x109 f _).trans (congrArg (fun x : FV2 => some (Instr.vcomp x)) (FV2.unpack_pack 0x109 f))) rfl h
theorem vexpd (f : FV2) : Statement (.vexpd f) := fun _ h =>
  decode_of_parse ((FV2.parse_pack 0x10A f _).trans (congrArg (fun x : FV2 => some (Instr.vexpd x)) (FV2.unpack_pack 0x10A f))) rfl h
theorem vfadd (f : FV2) : Statement (.vfadd f) := fun _ h =>
  decode_of_parse ((FV2.parse_pack 0x140 f _).trans (congrArg (fun x : FV2 => some (Instr.vfadd x)) (FV2.unpack_pack 0x140 f))) rfl h
theorem vfsub (f : FV2) : Statement (.vfsub f) := fun _ h =>
  decode_of_parse ((FV2.parse_pack 0x141 f _).trans (congrArg (fun x : FV2 => some (Instr.vfsub x)) (FV2.unpack_pack 0x141 f))) rfl h
theorem vfmul (f : FV2) : Statement (.vfmul f) := fun _ h =>
  decode_of_parse ((FV2.parse_pack 0x142 f _).trans (congrArg (fun x : FV2 => some (Instr.vfmul x)) (FV2.unpack_pack 0x142 f))) rfl h
theorem vfmin (f : FV2) : Statement (.vfmin f) := fun _ h =>
  decode_of_parse ((FV2.parse_pack 0x143 f _).trans (congrArg (fun x : FV2 => some (Instr.vfmin x)) (FV2.unpack_pack 0x143 f))) rfl h
theorem vfmax (f : FV2) : Statement (.vfmax f) := fun _ h =>
  decode_of_parse ((FV2.parse_pack 0x144 f _).trans (congrArg (fun x : FV2 => some (Instr.vfmax x)) (FV2.unpack_pack 0x144 f))) rfl h
theorem vfminm (f : FV2) : Statement (.vfminm f) := fun _ h =>
  decode_of_parse ((FV2.parse_pack 0x145 f _).trans (congrArg (fun x : FV2 => some (Instr.vfminm x)) (FV2.unpack_pack 0x145 f))) rfl h
theorem vfmaxm (f : FV2) : Statement (.vfmaxm f) := fun _ h =>
  decode_of_parse ((FV2.parse_pack 0x146 f _).trans (congrArg (fun x : FV2 => some (Instr.vfmaxm x)) (FV2.unpack_pack 0x146 f))) rfl h
theorem vfcmp (f : FV2) : Statement (.vfcmp f) := fun _ h =>
  decode_of_parse ((FV2.parse_pack 0x147 f _).trans (congrArg (fun x : FV2 => some (Instr.vfcmp x)) (FV2.unpack_pack 0x147 f))) rfl h
theorem vfclass (f : FV2) : Statement (.vfclass f) := fun _ h =>
  decode_of_parse ((FV2.parse_pack 0x148 f _).trans (congrArg (fun x : FV2 => some (Instr.vfclass x)) (FV2.unpack_pack 0x148 f))) rfl h
theorem vfrnd (f : FV2) : Statement (.vfrnd f) := fun _ h =>
  decode_of_parse ((FV2.parse_pack 0x149 f _).trans (congrArg (fun x : FV2 => some (Instr.vfrnd x)) (FV2.unpack_pack 0x149 f))) rfl h
theorem vfldx (f : FV2) : Statement (.vfldx f) := fun _ h =>
  decode_of_parse ((FV2.parse_pack 0x14A f _).trans (congrArg (fun x : FV2 => some (Instr.vfldx x)) (FV2.unpack_pack 0x14A f))) rfl h
theorem vfmaF32 (f : FV3) : Statement (.vfmaF32 f) := fun _ h =>
  decode_of_parse ((FV3.parse_pack 0x14B f _).trans (congrArg (fun x : FV3 => some (Instr.vfmaF32 x)) (FV3.unpack_pack 0x14B f))) rfl h
theorem vfmaBf16x2 (f : FV3) : Statement (.vfmaBf16x2 f) := fun _ h =>
  decode_of_parse ((FV3.parse_pack 0x14C f _).trans (congrArg (fun x : FV3 => some (Instr.vfmaBf16x2 x)) (FV3.unpack_pack 0x14C f))) rfl h
theorem vfdot2 (f : FV3) : Statement (.vfdot2 f) := fun _ h =>
  decode_of_parse ((FV3.parse_pack 0x14D f _).trans (congrArg (fun x : FV3 => some (Instr.vfdot2 x)) (FV3.unpack_pack 0x14D f))) rfl h
theorem vrcp (f : FV2) : Statement (.vrcp f) := fun _ h =>
  decode_of_parse ((FV2.parse_pack 0x180 f _).trans (congrArg (fun x : FV2 => some (Instr.vrcp x)) (FV2.unpack_pack 0x180 f))) rfl h
theorem vrsq (f : FV2) : Statement (.vrsq f) := fun _ h =>
  decode_of_parse ((FV2.parse_pack 0x181 f _).trans (congrArg (fun x : FV2 => some (Instr.vrsq x)) (FV2.unpack_pack 0x181 f))) rfl h
theorem vsqrt (f : FV2) : Statement (.vsqrt f) := fun _ h =>
  decode_of_parse ((FV2.parse_pack 0x182 f _).trans (congrArg (fun x : FV2 => some (Instr.vsqrt x)) (FV2.unpack_pack 0x182 f))) rfl h
theorem vexp2 (f : FV2) : Statement (.vexp2 f) := fun _ h =>
  decode_of_parse ((FV2.parse_pack 0x183 f _).trans (congrArg (fun x : FV2 => some (Instr.vexp2 x)) (FV2.unpack_pack 0x183 f))) rfl h
theorem vlog2 (f : FV2) : Statement (.vlog2 f) := fun _ h =>
  decode_of_parse ((FV2.parse_pack 0x184 f _).trans (congrArg (fun x : FV2 => some (Instr.vlog2 x)) (FV2.unpack_pack 0x184 f))) rfl h
theorem vsin (f : FV2) : Statement (.vsin f) := fun _ h =>
  decode_of_parse ((FV2.parse_pack 0x185 f _).trans (congrArg (fun x : FV2 => some (Instr.vsin x)) (FV2.unpack_pack 0x185 f))) rfl h
theorem vcos (f : FV2) : Statement (.vcos f) := fun _ h =>
  decode_of_parse ((FV2.parse_pack 0x186 f _).trans (congrArg (fun x : FV2 => some (Instr.vcos x)) (FV2.unpack_pack 0x186 f))) rfl h
theorem vtanh (f : FV2) : Statement (.vtanh f) := fun _ h =>
  decode_of_parse ((FV2.parse_pack 0x187 f _).trans (congrArg (fun x : FV2 => some (Instr.vtanh x)) (FV2.unpack_pack 0x187 f))) rfl h
theorem vcvt (f : FV2) : Statement (.vcvt f) := fun _ h =>
  decode_of_parse ((FV2.parse_pack 0x188 f _).trans (congrArg (fun x : FV2 => some (Instr.vcvt x)) (FV2.unpack_pack 0x188 f))) rfl h
theorem vqnt (f : FV2) : Statement (.vqnt f) := fun _ h =>
  decode_of_parse ((FV2.parse_pack 0x189 f _).trans (congrArg (fun x : FV2 => some (Instr.vqnt x)) (FV2.unpack_pack 0x189 f))) rfl h
theorem vdqnt (f : FV2) : Statement (.vdqnt f) := fun _ h =>
  decode_of_parse ((FV2.parse_pack 0x18A f _).trans (congrArg (fun x : FV2 => some (Instr.vdqnt x)) (FV2.unpack_pack 0x18A f))) rfl h
theorem vscl (f : FV2) : Statement (.vscl f) := fun _ h =>
  decode_of_parse ((FV2.parse_pack 0x18B f _).trans (congrArg (fun x : FV2 => some (Instr.vscl x)) (FV2.unpack_pack 0x18B f))) rfl h
theorem vrand (f : FV2) : Statement (.vrand f) := fun _ h =>
  decode_of_parse ((FV2.parse_pack 0x18C f _).trans (congrArg (fun x : FV2 => some (Instr.vrand x)) (FV2.unpack_pack 0x18C f))) rfl h
theorem vpack (f : FV2) : Statement (.vpack f) := fun _ h =>
  decode_of_parse ((FV2.parse_pack 0x18D f _).trans (congrArg (fun x : FV2 => some (Instr.vpack x)) (FV2.unpack_pack 0x18D f))) rfl h
theorem vunpk (f : FV2) : Statement (.vunpk f) := fun _ h =>
  decode_of_parse ((FV2.parse_pack 0x18E f _).trans (congrArg (fun x : FV2 => some (Instr.vunpk x)) (FV2.unpack_pack 0x18E f))) rfl h
theorem ld (f : FM) : Statement (.ld f) := fun _ h =>
  decode_of_parse ((FM.parse_pack 0x1C0 f _).trans (congrArg (fun x : FM => some (Instr.ld x)) (FM.unpack_pack 0x1C0 f))) rfl h
theorem st (f : FM) : Statement (.st f) := fun _ h =>
  decode_of_parse ((FM.parse_pack 0x1C1 f _).trans (congrArg (fun x : FM => some (Instr.st x)) (FM.unpack_pack 0x1C1 f))) rfl h
theorem ldpk (f : FM) : Statement (.ldpk f) := fun _ h =>
  decode_of_parse ((FM.parse_pack 0x1C2 f _).trans (congrArg (fun x : FM => some (Instr.ldpk x)) (FM.unpack_pack 0x1C2 f))) rfl h
theorem stpk (f : FM) : Statement (.stpk f) := fun _ h =>
  decode_of_parse ((FM.parse_pack 0x1C3 f _).trans (congrArg (fun x : FM => some (Instr.stpk x)) (FM.unpack_pack 0x1C3 f))) rfl h
theorem pref (f : FM) : Statement (.pref f) := fun _ h =>
  decode_of_parse ((FM.parse_pack 0x1C4 f _).trans (congrArg (fun x : FM => some (Instr.pref x)) (FM.unpack_pack 0x1C4 f))) rfl h
theorem disc (f : FM) : Statement (.disc f) := fun _ h =>
  decode_of_parse ((FM.parse_pack 0x1C5 f _).trans (congrArg (fun x : FM => some (Instr.disc x)) (FM.unpack_pack 0x1C5 f))) rfl h
theorem flush (f : FM) : Statement (.flush f) := fun _ h =>
  decode_of_parse ((FM.parse_pack 0x1C6 f _).trans (congrArg (fun x : FM => some (Instr.flush x)) (FM.unpack_pack 0x1C6 f))) rfl h
theorem lmap (f : FM) : Statement (.lmap f) := fun _ h =>
  decode_of_parse ((FM.parse_pack 0x1C7 f _).trans (congrArg (fun x : FM => some (Instr.lmap x)) (FM.unpack_pack 0x1C7 f))) rfl h
theorem lunmap (f : FM) : Statement (.lunmap f) := fun _ h =>
  decode_of_parse ((FM.parse_pack 0x1C8 f _).trans (congrArg (fun x : FM => some (Instr.lunmap x)) (FM.unpack_pack 0x1C8 f))) rfl h
theorem atom (f : FM) : Statement (.atom f) := fun _ h =>
  decode_of_parse ((FM.parse_pack 0x1C9 f _).trans (congrArg (fun x : FM => some (Instr.atom x)) (FM.unpack_pack 0x1C9 f))) rfl h
theorem atomr (f : FM) : Statement (.atomr f) := fun _ h =>
  decode_of_parse ((FM.parse_pack 0x1CA f _).trans (congrArg (fun x : FM => some (Instr.atomr x)) (FM.unpack_pack 0x1CA f))) rfl h
theorem acas (f : FM) : Statement (.acas f) := fun _ h =>
  decode_of_parse ((FM.parse_pack 0x1CB f _).trans (congrArg (fun x : FM => some (Instr.acas x)) (FM.unpack_pack 0x1CB f))) rfl h
theorem acasw (f : FM) : Statement (.acasw f) := fun _ h =>
  decode_of_parse ((FM.parse_pack 0x1CC f _).trans (congrArg (fun x : FM => some (Instr.acasw x)) (FM.unpack_pack 0x1CC f))) rfl h
theorem fence (f : FB) : Statement (.fence f) := fun _ h =>
  decode_of_parse ((FB.parse_pack 0x200 f _).trans (congrArg (fun x : FB => some (Instr.fence x)) (FB.unpack_pack 0x200 f))) rfl h
theorem gwct (f : FB) : Statement (.gwct f) := fun _ h =>
  decode_of_parse ((FB.parse_pack 0x201 f _).trans (congrArg (fun x : FB => some (Instr.gwct x)) (FB.unpack_pack 0x201 f))) rfl h
theorem twait (f : FB) : Statement (.twait f) := fun _ h =>
  decode_of_parse ((FB.parse_pack 0x202 f _).trans (congrArg (fun x : FB => some (Instr.twait x)) (FB.unpack_pack 0x202 f))) rfl h
theorem ropen (f : FY) : Statement (.ropen f) := fun _ h =>
  decode_of_parse ((FY.parse_pack 0x240 f _).trans (congrArg (fun x : FY => some (Instr.ropen x)) (FY.unpack_pack 0x240 f))) rfl h
theorem rrenew (f : FY) : Statement (.rrenew f) := fun _ h =>
  decode_of_parse ((FY.parse_pack 0x241 f _).trans (congrArg (fun x : FY => some (Instr.rrenew x)) (FY.unpack_pack 0x241 f))) rfl h
theorem rrel (f : FY) : Statement (.rrel f) := fun _ h =>
  decode_of_parse ((FY.parse_pack 0x242 f _).trans (congrArg (fun x : FY => some (Instr.rrel x)) (FY.unpack_pack 0x242 f))) rfl h
theorem ldrow (f : FM) : Statement (.ldrow f) := fun _ h =>
  decode_of_parse ((FM.parse_pack 0x243 f _).trans (congrArg (fun x : FM => some (Instr.ldrow x)) (FM.unpack_pack 0x243 f))) rfl h
theorem strow (f : FM) : Statement (.strow f) := fun _ h =>
  decode_of_parse ((FM.parse_pack 0x244 f _).trans (congrArg (fun x : FM => some (Instr.strow x)) (FM.unpack_pack 0x244 f))) rfl h
theorem rstat (f : FY) : Statement (.rstat f) := fun _ h =>
  decode_of_parse ((FY.parse_pack 0x245 f _).trans (congrArg (fun x : FY => some (Instr.rstat x)) (FY.unpack_pack 0x245 f))) rfl h
theorem ractl (f : FY) : Statement (.ractl f) := fun _ h =>
  decode_of_parse ((FY.parse_pack 0x246 f _).trans (congrArg (fun x : FY => some (Instr.ractl x)) (FY.unpack_pack 0x246 f))) rfl h
theorem rastat (f : FY) : Statement (.rastat f) := fun _ h =>
  decode_of_parse ((FY.parse_pack 0x247 f _).trans (congrArg (fun x : FY => some (Instr.rastat x)) (FY.unpack_pack 0x247 f))) rfl h
theorem copy (f : FS) : Statement (.copy f) := fun _ h =>
  decode_of_parse ((FS.parse_pack 0x280 f _).trans (congrArg (fun x : FS => some (Instr.copy x)) (FS.unpack_pack 0x280 f))) rfl h
theorem copy2d (f : FS) : Statement (.copy2d f) := fun _ h =>
  decode_of_parse ((FS.parse_pack 0x281 f _).trans (congrArg (fun x : FS => some (Instr.copy2d x)) (FS.unpack_pack 0x281 f))) rfl h
theorem syncinit (f : FS) : Statement (.syncinit f) := fun _ h =>
  decode_of_parse ((FS.parse_pack 0x282 f _).trans (congrArg (fun x : FS => some (Instr.syncinit x)) (FS.unpack_pack 0x282 f))) rfl h
theorem syncwait (f : FS) : Statement (.syncwait f) := fun _ h =>
  decode_of_parse ((FS.parse_pack 0x283 f _).trans (congrArg (fun x : FS => some (Instr.syncwait x)) (FS.unpack_pack 0x283 f))) rfl h
theorem syncrd (f : FS) : Statement (.syncrd f) := fun _ h =>
  decode_of_parse ((FS.parse_pack 0x284 f _).trans (congrArg (fun x : FS => some (Instr.syncrd x)) (FS.unpack_pack 0x284 f))) rfl h
theorem qld (f : FM) : Statement (.qld f) := fun _ h =>
  decode_of_parse ((FM.parse_pack 0x285 f _).trans (congrArg (fun x : FM => some (Instr.qld x)) (FM.unpack_pack 0x285 f))) rfl h
theorem qldrow (f : FM) : Statement (.qldrow f) := fun _ h =>
  decode_of_parse ((FM.parse_pack 0x286 f _).trans (congrArg (fun x : FM => some (Instr.qldrow x)) (FM.unpack_pack 0x286 f))) rfl h
theorem aeloop (f : FS) : Statement (.aeloop f) := fun _ h =>
  decode_of_parse ((FS.parse_pack 0x287 f _).trans (congrArg (fun x : FS => some (Instr.aeloop x)) (FS.unpack_pack 0x287 f))) rfl h
theorem aeend (f : FS) : Statement (.aeend f) := fun _ h =>
  decode_of_parse ((FS.parse_pack 0x288 f _).trans (congrArg (fun x : FS => some (Instr.aeend x)) (FS.unpack_pack 0x288 f))) rfl h
theorem qdrop (f : FS) : Statement (.qdrop f) := fun _ h =>
  decode_of_parse ((FS.parse_pack 0x289 f _).trans (congrArg (fun x : FS => some (Instr.qdrop x)) (FS.unpack_pack 0x289 f))) rfl h
theorem rloadbQ4 (f : FT) : Statement (.rloadbQ4 f) := fun _ h =>
  decode_of_parse ((FT.parse_pack 0x2C0 f _).trans (congrArg (fun x : FT => some (Instr.rloadbQ4 x)) (FT.unpack_pack 0x2C0 f))) rfl h
theorem rloadbE4m3 (f : FT) : Statement (.rloadbE4m3 f) := fun _ h =>
  decode_of_parse ((FT.parse_pack 0x2C1 f _).trans (congrArg (fun x : FT => some (Instr.rloadbE4m3 x)) (FT.unpack_pack 0x2C1 f))) rfl h
theorem rloadbE5m2 (f : FT) : Statement (.rloadbE5m2 f) := fun _ h =>
  decode_of_parse ((FT.parse_pack 0x2C2 f _).trans (congrArg (fun x : FT => some (Instr.rloadbE5m2 x)) (FT.unpack_pack 0x2C2 f))) rfl h
theorem rloadbE3m2 (f : FT) : Statement (.rloadbE3m2 f) := fun _ h =>
  decode_of_parse ((FT.parse_pack 0x2C3 f _).trans (congrArg (fun x : FT => some (Instr.rloadbE3m2 x)) (FT.unpack_pack 0x2C3 f))) rfl h
theorem rloadbE2m3 (f : FT) : Statement (.rloadbE2m3 f) := fun _ h =>
  decode_of_parse ((FT.parse_pack 0x2C4 f _).trans (congrArg (fun x : FT => some (Instr.rloadbE2m3 x)) (FT.unpack_pack 0x2C4 f))) rfl h
theorem rloadbI8 (f : FT) : Statement (.rloadbI8 f) := fun _ h =>
  decode_of_parse ((FT.parse_pack 0x2C5 f _).trans (congrArg (fun x : FT => some (Instr.rloadbI8 x)) (FT.unpack_pack 0x2C5 f))) rfl h
theorem rloadbBf16 (f : FT) : Statement (.rloadbBf16 f) := fun _ h =>
  decode_of_parse ((FT.parse_pack 0x2C6 f _).trans (congrArg (fun x : FT => some (Instr.rloadbBf16 x)) (FT.unpack_pack 0x2C6 f))) rfl h
theorem rcode (f : FT) : Statement (.rcode f) := fun _ h =>
  decode_of_parse ((FT.parse_pack 0x2C7 f _).trans (congrArg (fun x : FT => some (Instr.rcode x)) (FT.unpack_pack 0x2C7 f))) rfl h
theorem rmacI8 (f : FT) : Statement (.rmacI8 f) := fun _ h =>
  decode_of_parse ((FT.parse_pack 0x2C8 f _).trans (congrArg (fun x : FT => some (Instr.rmacI8 x)) (FT.unpack_pack 0x2C8 f))) rfl h
theorem rmacE4m3 (f : FT) : Statement (.rmacE4m3 f) := fun _ h =>
  decode_of_parse ((FT.parse_pack 0x2C9 f _).trans (congrArg (fun x : FT => some (Instr.rmacE4m3 x)) (FT.unpack_pack 0x2C9 f))) rfl h
theorem rmacE5m2 (f : FT) : Statement (.rmacE5m2 f) := fun _ h =>
  decode_of_parse ((FT.parse_pack 0x2CA f _).trans (congrArg (fun x : FT => some (Instr.rmacE5m2 x)) (FT.unpack_pack 0x2CA f))) rfl h
theorem rmacBf16 (f : FT) : Statement (.rmacBf16 f) := fun _ h =>
  decode_of_parse ((FT.parse_pack 0x2CB f _).trans (congrArg (fun x : FT => some (Instr.rmacBf16 x)) (FT.unpack_pack 0x2CB f))) rfl h
theorem rmacpI8 (f : FT) : Statement (.rmacpI8 f) := fun _ h =>
  decode_of_parse ((FT.parse_pack 0x2CC f _).trans (congrArg (fun x : FT => some (Instr.rmacpI8 x)) (FT.unpack_pack 0x2CC f))) rfl h
theorem rmacpE4m3 (f : FT) : Statement (.rmacpE4m3 f) := fun _ h =>
  decode_of_parse ((FT.parse_pack 0x2CD f _).trans (congrArg (fun x : FT => some (Instr.rmacpE4m3 x)) (FT.unpack_pack 0x2CD f))) rfl h
theorem rmacpE5m2 (f : FT) : Statement (.rmacpE5m2 f) := fun _ h =>
  decode_of_parse ((FT.parse_pack 0x2CE f _).trans (congrArg (fun x : FT => some (Instr.rmacpE5m2 x)) (FT.unpack_pack 0x2CE f))) rfl h
theorem rmacpBf16 (f : FT) : Statement (.rmacpBf16 f) := fun _ h =>
  decode_of_parse ((FT.parse_pack 0x2CF f _).trans (congrArg (fun x : FT => some (Instr.rmacpBf16 x)) (FT.unpack_pack 0x2CF f))) rfl h
theorem rfence (f : FT) : Statement (.rfence f) := fun _ h =>
  decode_of_parse ((FT.parse_pack 0x2D0 f _).trans (congrArg (fun x : FT => some (Instr.rfence x)) (FT.unpack_pack 0x2D0 f))) rfl h
theorem rdrain (f : FT) : Statement (.rdrain f) := fun _ h =>
  decode_of_parse ((FT.parse_pack 0x2D1 f _).trans (congrArg (fun x : FT => some (Instr.rdrain x)) (FT.unpack_pack 0x2D1 f))) rfl h
theorem rpair (f : FT) : Statement (.rpair f) := fun _ h =>
  decode_of_parse ((FT.parse_pack 0x2D2 f _).trans (congrArg (fun x : FT => some (Instr.rpair x)) (FT.unpack_pack 0x2D2 f))) rfl h
theorem rstatReef (f : FT) : Statement (.rstatReef f) := fun _ h =>
  decode_of_parse ((FT.parse_pack 0x2D3 f _).trans (congrArg (fun x : FT => some (Instr.rstatReef x)) (FT.unpack_pack 0x2D3 f))) rfl h
theorem beat (f : FY) : Statement (.beat f) := fun _ h =>
  decode_of_parse ((FY.parse_pack 0x300 f _).trans (congrArg (fun x : FY => some (Instr.beat x)) (FY.unpack_pack 0x300 f))) rfl h
theorem tset (f : FY) : Statement (.tset f) := fun _ h =>
  decode_of_parse ((FY.parse_pack 0x301 f _).trans (congrArg (fun x : FY => some (Instr.tset x)) (FY.unpack_pack 0x301 f))) rfl h
theorem tread (f : FY) : Statement (.tread f) := fun _ h =>
  decode_of_parse ((FY.parse_pack 0x302 f _).trans (congrArg (fun x : FY => some (Instr.tread x)) (FY.unpack_pack 0x302 f))) rfl h
theorem pclass (f : FY) : Statement (.pclass f) := fun _ h =>
  decode_of_parse ((FY.parse_pack 0x303 f _).trans (congrArg (fun x : FY => some (Instr.pclass x)) (FY.unpack_pack 0x303 f))) rfl h
theorem launch (f : FY) : Statement (.launch f) := fun _ h =>
  decode_of_parse ((FY.parse_pack 0x304 f _).trans (congrArg (fun x : FY => some (Instr.launch x)) (FY.unpack_pack 0x304 f))) rfl h
theorem lwait (f : FY) : Statement (.lwait f) := fun _ h =>
  decode_of_parse ((FY.parse_pack 0x305 f _).trans (congrArg (fun x : FY => some (Instr.lwait x)) (FY.unpack_pack 0x305 f))) rfl h
theorem mbrecv (f : FY) : Statement (.mbrecv f) := fun _ h =>
  decode_of_parse ((FY.parse_pack 0x306 f _).trans (congrArg (fun x : FY => some (Instr.mbrecv x)) (FY.unpack_pack 0x306 f))) rfl h
theorem mbsend (f : FY) : Statement (.mbsend f) := fun _ h =>
  decode_of_parse ((FY.parse_pack 0x307 f _).trans (congrArg (fun x : FY => some (Instr.mbsend x)) (FY.unpack_pack 0x307 f))) rfl h
theorem evwait (f : FY) : Statement (.evwait f) := fun _ h =>
  decode_of_parse ((FY.parse_pack 0x308 f _).trans (congrArg (fun x : FY => some (Instr.evwait x)) (FY.unpack_pack 0x308 f))) rfl h
theorem trap (f : FY) : Statement (.trap f) := fun _ h =>
  decode_of_parse ((FY.parse_pack 0x340 f _).trans (congrArg (fun x : FY => some (Instr.trap x)) (FY.unpack_pack 0x340 f))) rfl h
theorem eret (f : FY) : Statement (.eret f) := fun _ h =>
  decode_of_parse ((FY.parse_pack 0x341 f _).trans (congrArg (fun x : FY => some (Instr.eret x)) (FY.unpack_pack 0x341 f))) rfl h
theorem csrr (f : FY) : Statement (.csrr f) := fun _ h =>
  decode_of_parse ((FY.parse_pack 0x342 f _).trans (congrArg (fun x : FY => some (Instr.csrr x)) (FY.unpack_pack 0x342 f))) rfl h
theorem csrw (f : FY) : Statement (.csrw f) := fun _ h =>
  decode_of_parse ((FY.parse_pack 0x343 f _).trans (congrArg (fun x : FY => some (Instr.csrw x)) (FY.unpack_pack 0x343 f))) rfl h
theorem dbgrd (f : FY) : Statement (.dbgrd f) := fun _ h =>
  decode_of_parse ((FY.parse_pack 0x344 f _).trans (congrArg (fun x : FY => some (Instr.dbgrd x)) (FY.unpack_pack 0x344 f))) rfl h
theorem dbgwr (f : FY) : Statement (.dbgwr f) := fun _ h =>
  decode_of_parse ((FY.parse_pack 0x345 f _).trans (congrArg (fun x : FY => some (Instr.dbgwr x)) (FY.unpack_pack 0x345 f))) rfl h
theorem tlbi (f : FY) : Statement (.tlbi f) := fun _ h =>
  decode_of_parse ((FY.parse_pack 0x346 f _).trans (congrArg (fun x : FY => some (Instr.tlbi x)) (FY.unpack_pack 0x346 f))) rfl h
theorem cntrd (f : FY) : Statement (.cntrd f) := fun _ h =>
  decode_of_parse ((FY.parse_pack 0x347 f _).trans (congrArg (fun x : FY => some (Instr.cntrd x)) (FY.unpack_pack 0x347 f))) rfl h
theorem cntcfg (f : FY) : Statement (.cntcfg f) := fun _ h =>
  decode_of_parse ((FY.parse_pack 0x348 f _).trans (congrArg (fun x : FY => some (Instr.cntcfg x)) (FY.unpack_pack 0x348 f))) rfl h
theorem freeze (f : FY) : Statement (.freeze f) := fun _ h =>
  decode_of_parse ((FY.parse_pack 0x349 f _).trans (congrArg (fun x : FY => some (Instr.freeze x)) (FY.unpack_pack 0x349 f))) rfl h
theorem halt (f : FY) : Statement (.halt f) := fun _ h =>
  decode_of_parse ((FY.parse_pack 0x34A f _).trans (congrArg (fun x : FY => some (Instr.halt x)) (FY.unpack_pack 0x34A f))) rfl h
theorem starvationForce (core : Nat) (avail : List (Nat × Nat)) : Statement (.starvationForce core avail) := fun _ _ => trivial
theorem yieldExclusionEnd (thr lane : Nat) : Statement (.yieldExclusionEnd thr lane) := fun _ _ => trivial
theorem joinRelease (thr j : Nat) : Statement (.joinRelease thr j) := fun _ _ => trivial
theorem barrierPhaseComplete (wg : Nat) : Statement (.barrierPhaseComplete wg) := fun _ _ => trivial
theorem sleepWake (thr lane : Nat) : Statement (.sleepWake thr lane) := fun _ _ => trivial
theorem waitRelease (thr lane : Nat) : Statement (.waitRelease thr lane) := fun _ _ => trivial
theorem fenceRelease (thr lane : Nat) : Statement (.fenceRelease thr lane) := fun _ _ => trivial
theorem twaitRelease (thr lane : Nat) : Statement (.twaitRelease thr lane) := fun _ _ => trivial
theorem loadComplete (op : Nat) : Statement (.loadComplete op) := fun _ _ => trivial
theorem storeComplete (op : Nat) : Statement (.storeComplete op) := fun _ _ => trivial
theorem sliceLineRequest (piece : Piece) (dram : Bool) : Statement (.sliceLineRequest piece dram) := fun _ _ => trivial
theorem sliceStore (piece : Piece) : Statement (.sliceStore piece) := fun _ _ => trivial
theorem sliceAtomic (req : Nat) : Statement (.sliceAtomic req) := fun _ _ => trivial
theorem atomicHighHalf (req : Nat) : Statement (.atomicHighHalf req) := fun _ _ => trivial
theorem sliceDiscard (req : Nat) : Statement (.sliceDiscard req) := fun _ _ => trivial
theorem tlbWalk (cluster : Nat) (who : WalkFor) (va : Nat) : Statement (.tlbWalk cluster who va) := fun _ _ => trivial
theorem secondStageService (fault : Nat) (action : Service) : Statement (.secondStageService fault action) := fun _ _ => trivial
theorem peerHomeFault (fault : Nat) (action : Service) : Statement (.peerHomeFault fault action) := fun _ _ => trivial
theorem trapDelivery (record : Nat) : Statement (.trapDelivery record) := fun _ _ => trivial
theorem regionFill (wg region granule : Nat) : Statement (.regionFill wg region granule) := fun _ _ => trivial
theorem peerAck (req gwct : Nat) : Statement (.peerAck req gwct) := fun _ _ => trivial
theorem peerRequest (request : PeerRequest) : Statement (.peerRequest request) := fun _ _ => trivial
theorem hostBarAccess (fn bar offset : Nat) (act : BarAct) : Statement (.hostBarAccess fn bar offset act) := fun _ _ => trivial
theorem runaheadEntry (thr op : Nat) : Statement (.runaheadEntry thr op) := fun _ _ => trivial
theorem runaheadExit (thr : Nat) : Statement (.runaheadExit thr) := fun _ _ => trivial
theorem rowHoldLapse (ctx handle : Nat) : Statement (.rowHoldLapse ctx handle) := fun _ _ => trivial
theorem rowClose (pa : Nat) : Statement (.rowClose pa) := fun _ _ => trivial
theorem subarrayRefresh (subarray pa : Nat) : Statement (.subarrayRefresh subarray pa) := fun _ _ => trivial
theorem patrolScrub (pa : Nat) (lost : Bool) : Statement (.patrolScrub pa lost) := fun _ _ => trivial
theorem copyAccept (copy : Nat) : Statement (.copyAccept copy) := fun _ _ => trivial
theorem copyPieceCount (copy block : Nat) : Statement (.copyPieceCount copy block) := fun _ _ => trivial
theorem copyPageFault (copy byte : Nat) : Statement (.copyPageFault copy byte) := fun _ _ => trivial
theorem copyComplete (copy : Nat) : Statement (.copyComplete copy) := fun _ _ => trivial
theorem syncwaitRelease (thr lane : Nat) : Statement (.syncwaitRelease thr lane) := fun _ _ => trivial
theorem queueEntryFill (op : Nat) : Statement (.queueEntryFill op) := fun _ _ => trivial
theorem reefSerialPhase (core : Nat) : Statement (.reefSerialPhase core) := fun _ _ => trivial
theorem reefAccumulatorWrite (op : Nat) : Statement (.reefAccumulatorWrite op) := fun _ _ => trivial
theorem reefSlotWrite (op : Nat) : Statement (.reefSlotWrite op) := fun _ _ => trivial
theorem reefCodebookWrite (op : Nat) : Statement (.reefCodebookWrite op) := fun _ _ => trivial
theorem workgroupPlacement (atoll : Nat) : Statement (.workgroupPlacement atoll) := fun _ _ => trivial
theorem warpStart (wg : Nat) : Statement (.warpStart wg) := fun _ _ => trivial
theorem warpSlotRelease (thr : Nat) : Statement (.warpSlotRelease thr) := fun _ _ => trivial
theorem lwaitRelease (thr : Nat) : Statement (.lwaitRelease thr) := fun _ _ => trivial
theorem evwaitRelease (thr : Nat) : Statement (.evwaitRelease thr) := fun _ _ => trivial
theorem mbrecvDelivery (thr : Nat) : Statement (.mbrecvDelivery thr) := fun _ _ => trivial
theorem inboundMessage (ctx box value : Nat) : Statement (.inboundMessage ctx box value) := fun _ _ => trivial
theorem payloadCopy (ctx box : Nat) : Statement (.payloadCopy ctx box) := fun _ _ => trivial
theorem outciWrite (ctx box value : Nat) : Statement (.outciWrite ctx box value) := fun _ _ => trivial
theorem istatClear (ctx value : Nat) : Statement (.istatClear ctx value) := fun _ _ => trivial
theorem imaskWrite (ctx value : Nat) : Statement (.imaskWrite ctx value) := fun _ _ => trivial
theorem registerWrite (reg : PfReg) (value : W64) : Statement (.registerWrite reg value) := fun _ _ => trivial
theorem periodEnd (atoll : Nat) : Statement (.periodEnd atoll) := fun _ _ => trivial
theorem jobMinimum (atoll job minimum : Nat) : Statement (.jobMinimum atoll job minimum) := fun _ _ => trivial
theorem mergeDeadline (atoll job : Nat) : Statement (.mergeDeadline atoll job) := fun _ _ => trivial
theorem tideUpdate (atoll : Nat) : Statement (.tideUpdate atoll) := fun _ _ => trivial
theorem slewApply (atoll : Nat) : Statement (.slewApply atoll) := fun _ _ => trivial
theorem clockRelockEnd (cluster : Nat) : Statement (.clockRelockEnd cluster) := fun _ _ => trivial
theorem sliceEnd (atoll : Nat) : Statement (.sliceEnd atoll) := fun _ _ => trivial
theorem preemptionRequest (ctx : Nat) : Statement (.preemptionRequest ctx) := fun _ _ => trivial
theorem contextSave (ctx : Nat) : Statement (.contextSave ctx) := fun _ _ => trivial
theorem preemptionDeadline (ctx : Nat) : Statement (.preemptionDeadline ctx) := fun _ _ => trivial
theorem saveWatchdog (ctx : Nat) : Statement (.saveWatchdog ctx) := fun _ _ => trivial
theorem freezeCut (cut : Nat) : Statement (.freezeCut cut) := fun _ _ => trivial
theorem supplySagTrip (cluster : Nat) : Statement (.supplySagTrip cluster) := fun _ _ => trivial
theorem supplySagClear (cluster : Nat) : Statement (.supplySagClear cluster) := fun _ _ => trivial
theorem throttleStep (cluster temperature : Nat) (others : List Nat) : Statement (.throttleStep cluster temperature others) := fun _ _ => trivial
theorem tcritTrip (reading : Reading) : Statement (.tcritTrip reading) := fun _ _ => trivial
theorem clusterGate (cluster : Nat) : Statement (.clusterGate cluster) := fun _ _ => trivial
theorem clusterUngate (cluster : Nat) : Statement (.clusterUngate cluster) := fun _ _ => trivial
theorem tokenIntervalEnd (accepted : Nat) : Statement (.tokenIntervalEnd accepted) := fun _ _ => trivial
theorem tokenGrant (budget : Nat) : Statement (.tokenGrant budget) := fun _ _ => trivial
theorem tokenFallback : Statement (.tokenFallback) := fun _ _ => trivial
theorem pageMigration (page : Nat) : Statement (.pageMigration page) := fun _ _ => trivial
theorem oldFrameFree (page : Nat) : Statement (.oldFrameFree page) := fun _ _ => trivial
theorem optimisticMigration (page : Nat) : Statement (.optimisticMigration page) := fun _ _ => trivial
theorem retirementRequest (channel : Nat) : Statement (.retirementRequest channel) := fun _ _ => trivial
theorem channelMove (channel : Nat) : Statement (.channelMove channel) := fun _ _ => trivial
theorem channelRetired (channel : Nat) : Statement (.channelRetired channel) := fun _ _ => trivial
theorem fabricPortFailure (port : Nat) : Statement (.fabricPortFailure port) := fun _ _ => trivial
theorem softErrorCorrected (place : ErrorAt) : Statement (.softErrorCorrected place) := fun _ _ => trivial
theorem uncorrectableError (place : ErrorAt) : Statement (.uncorrectableError place) := fun _ _ => trivial
theorem pairMismatch (die : Nat) : Statement (.pairMismatch die) := fun _ _ => trivial
theorem livenessTimeout (die : Nat) : Statement (.livenessTimeout die) := fun _ _ => trivial
theorem watchdogKick (die : Nat) : Statement (.watchdogKick die) := fun _ _ => trivial
theorem tthreshWrite (die value : Nat) : Statement (.tthreshWrite die value) := fun _ _ => trivial
theorem htimerExpiry (die core : Nat) : Statement (.htimerExpiry die core) := fun _ _ => trivial
theorem harbourInterrupt (die core cls : Nat) : Statement (.harbourInterrupt die core cls) := fun _ _ => trivial
theorem atollCreate : Statement (.atollCreate) := fun _ _ => trivial
theorem atollDestroy : Statement (.atollDestroy) := fun _ _ => trivial
theorem ctxCreate : Statement (.ctxCreate) := fun _ _ => trivial
theorem ctxDestroy : Statement (.ctxDestroy) := fun _ _ => trivial
theorem ctxPreempt : Statement (.ctxPreempt) := fun _ _ => trivial
theorem ctxRestore : Statement (.ctxRestore) := fun _ _ => trivial
theorem ctxReset : Statement (.ctxReset) := fun _ _ => trivial
theorem stewardStart : Statement (.stewardStart) := fun _ _ => trivial
theorem ctxImage : Statement (.ctxImage) := fun _ _ => trivial
theorem warpKill : Statement (.warpKill) := fun _ _ => trivial
theorem resetAtoll : Statement (.resetAtoll) := fun _ _ => trivial
theorem resetDie : Statement (.resetDie) := fun _ _ => trivial
theorem resetPackageWarm : Statement (.resetPackageWarm) := fun _ _ => trivial
theorem resetPackageCold : Statement (.resetPackageCold) := fun _ _ => trivial
theorem powerOn (record : ConfigRecord) : Statement (.powerOn record) := fun _ _ => trivial
theorem coreReset (core : Nat) : Statement (.coreReset core) := fun _ _ => trivial
theorem clusterReset (cluster : Nat) : Statement (.clusterReset cluster) := fun _ _ => trivial
theorem reply : Statement (.reply) := fun _ _ => trivial
theorem migrate : Statement (.migrate) := fun _ _ => trivial
theorem tokens : Statement (.tokens) := fun _ _ => trivial
theorem grants : Statement (.grants) := fun _ _ => trivial
theorem queryDeviceIdentifiers : Statement (.queryDeviceIdentifiers) := fun _ _ => trivial
theorem getFirmwareParameters : Statement (.getFirmwareParameters) := fun _ _ => trivial
theorem requestUpdate : Statement (.requestUpdate) := fun _ _ => trivial
theorem passComponentTable : Statement (.passComponentTable) := fun _ _ => trivial
theorem updateComponent : Statement (.updateComponent) := fun _ _ => trivial
theorem requestFirmwareData (offset length : Nat) : Statement (.requestFirmwareData offset length) := fun _ _ => trivial
theorem transferComplete : Statement (.transferComplete) := fun _ _ => trivial
theorem verifyComplete (image : Image) : Statement (.verifyComplete image) := fun _ _ => trivial
theorem applyComplete : Statement (.applyComplete) := fun _ _ => trivial
theorem activateFirmware : Statement (.activateFirmware) := fun _ _ => trivial
theorem getStatus : Statement (.getStatus) := fun _ _ => trivial
theorem cancelUpdateComponent : Statement (.cancelUpdateComponent) := fun _ _ => trivial
theorem cancelUpdate : Statement (.cancelUpdate) := fun _ _ => trivial
theorem dieHandover (die : Nat) : Statement (.dieHandover die) := fun _ _ => trivial
theorem handoverFailure (die : Nat) : Statement (.handoverFailure die) := fun _ _ => trivial
theorem updateCommit : Statement (.updateCommit) := fun _ _ => trivial
theorem getVersion : Statement (.getVersion) := fun _ _ => trivial
theorem getCapabilities : Statement (.getCapabilities) := fun _ _ => trivial
theorem negotiateAlgorithms : Statement (.negotiateAlgorithms) := fun _ _ => trivial
theorem getDigests : Statement (.getDigests) := fun _ _ => trivial
theorem getCertificate (slot offset length : Nat) : Statement (.getCertificate slot offset length) := fun _ _ => trivial
theorem challenge (slot : Nat) : Statement (.challenge slot) := fun _ _ => trivial
theorem getMeasurements : Statement (.getMeasurements) := fun _ _ => trivial
theorem keyExchange : Statement (.keyExchange) := fun _ _ => trivial
theorem finish : Statement (.finish) := fun _ _ => trivial
theorem endSession : Statement (.endSession) := fun _ _ => trivial
theorem sensorThresholdEvent (sensor : Nat) : Statement (.sensorThresholdEvent sensor) := fun _ _ => trivial
theorem unassignedOpcode (word : W64) : Statement (.unassignedOpcode word) := fun _ _ => trivial
theorem l1Eviction (core ctx va : Nat) : Statement (.l1Eviction core ctx va) := fun _ _ => trivial
theorem tlbEviction (cluster ctx va : Nat) : Statement (.tlbEviction cluster ctx va) := fun _ _ => trivial
theorem frciWrite (ctx value : Nat) : Statement (.frciWrite ctx value) := fun _ _ => trivial
theorem svrciWrite (value : Nat) : Statement (.svrciWrite value) := fun _ _ => trivial
theorem unknownOp : Statement (.unknownOp) := fun _ _ => trivial
theorem pairRestartEnd (die : Nat) : Statement (.pairRestartEnd die) := fun _ _ => trivial
theorem selfRefreshEntry (stack : Nat) : Statement (.selfRefreshEntry stack) := fun _ _ => trivial
theorem tokenOffer (accepted : Nat) : Statement (.tokenOffer accepted) := fun _ _ => trivial

end Sys2Proof.Laws.Encoding
end

