-- ==== Sys2Proof/Safety.lean ====
section
/-! DEFINITION. What a safe run of the machine is, and the terms that statements about it use: what an instruction leaves
as it was. -/

namespace Sys2Proof.Safety

open Sys2Proof.Machine

/-- A step that ends in a next state. -/
def steps (s : State) : Prop := ∃ t, step s = .next t

/-- A run of `n` steps that stops nowhere. -/
def runs : Nat → State → Prop
  | 0, _ => True
  | n + 1, s => ∃ t, step s = .next t ∧ runs n t

/-! ### An issue's own effect -/

/-- The instruction's own effect at `s` leaves `u`; what follows every move of a thread's lanes (`settle`: blocks open,
releases fall due, the fault ring is served) then leaves the next state. -/
def leaves (i : Instr) (s : State) (k : Nat) (u : State) : Prop := exec i s = .next (taken (settle k u))

/-- A context without its event counters and ISTAT, in which an issue is counted (R386). -/
def uncounted (c : Ctx) : Ctx := { c with counters := [], istat := 0 }

/-- A die without its telemetry's number and the notices it holds back, which a counter's overflow takes (R408). -/
def untold (d : Die) : Die := { d with teleSeq := 0, owed := [] }

/-- The package's registers without the messages sent, among which a counter's overflow sends one. -/
def unsent (y : Sys) : Sys := { y with out := [] }

/-- Registers without the lanes' places. -/
def bare (r : Regs) : Regs := { r with lanes := [] }

/-- What no plain instruction changes of a thread: all but its registers and lanes, the `REP` sequence's count, the marks
that a write clears, the queues that its sources pop, and the times at which its results are there. -/
def kept (t : Thread) : Thread := { t with regs := {}, seq := none, repcnt := 0, lost := [], vpend := [], queues := [], due := [] }

/-- Everything outside thread `k` is as before, but for the count of an issue: all of memory, the caches, what is in
flight, every other thread and every other record. -/
def others (k : Nat) (s u : State) : Prop :=
  u.mem = s.mem ∧ u.poison = s.poison ∧ u.ca = s.ca ∧ u.fl = s.fl ∧ u.cores = s.cores ∧ u.clusters = s.clusters
    ∧ (∀ d, untold (u.die d) = untold (s.die d)) ∧ u.atolls = s.atolls ∧ u.wgs = s.wgs ∧ u.agenda = s.agenda ∧ u.fcq = s.fcq
    ∧ (∀ j, j ≠ k → u.thread j = s.thread j) ∧ (∀ n, uncounted (u.ctx n) = uncounted (s.ctx n)) ∧ unsent u.sys = unsent s.sys

/-- Of thread `k` only the registers change, to those of `r`; everything else is as before. -/
def onlyRegs (k : Nat) (s u : State) (r : Regs) : Prop :=
  others k s u ∧ kept (u.thread k) = kept (s.thread k) ∧ bare (u.thread k).regs = bare r

/-- The lanes of a group have moved on by `bytes` and the others stand as before, where no `REP` sequence holds them. -/
def movedOn (k lanes : Nat) (bytes : Nat) (s u : State) : Prop :=
  (s.thread k).seq = none → ∀ l, l < (s.thread k).width →
    (u.thread k).lane l = if has lanes l then Lane.advance bytes ((s.thread k).lane l) else (s.thread k).lane l

end Sys2Proof.Safety
end

