-- ==== Sys2Proof/Certificates/Slice0/Obligations.lean ====
section
/-! DEFINITION. The statements for the provers. Their shared terms stand in `Sys2Proof.Claims`, beside the statements that
use them; a statement with several parts names each part there. -/

namespace Sys2Proof.Claims

open Sys2Proof.Machine Sys2Proof.Safety

/-! ### Terms that several statements use -/

/-- No operand of an instruction is poisoned, and no Reef operation holds registers of its thread (R279, R301). -/
def calm (s : State) (iss : Issue) (sh : Shape) : Prop :=
  (s.thread iss.thr).reefUse = [] ∧ (∀ i l, poisonedField s iss sh i l = false)
    ∧ (∀ r ∈ sh.vmore, ∀ l, (s.thread iss.thr).lostAt r l = false)
    ∧ (sh.late = true → ∀ r ∈ sh.ssrc, (s.thread iss.thr).lostScalar r = false)

/-- Thread `k` takes registers `r`, and its lanes become what `f` makes of them; everything else is as before. -/
def lanesTo (k : Nat) (s u : State) (r : Regs) (f : Nat → Lane → Lane) : Prop :=
  onlyRegs k s u r ∧ ∀ l, l < (s.thread k).width → (u.thread k).lane l = f l ((s.thread k).lane l)

/-- A byte of memory in which translating an address for an access sets no A or D bit (R174). -/
def unmarked (s : State) (who : Who) (va : Nat) (write : Bool) (k : Nat) : Prop :=
  ∀ p, pageOf s who { va } va write = .ok p → k ∉ (leafBits (accessBits write) p).map (·.1)

/-- The registers of the issuing thread. -/
def regsOf (s : State) (iss : Issue) : Regs := (s.thread iss.thr).regs

/-! ### Scalar arithmetic -/

/-- What each instruction of R105 makes of its operands, of `n` bits. -/
def scalarTable : Instr → Option (FS × ((n : Nat) → BitVec n → BitVec n → BitVec n))
  | .sadd f => some (f, fun n x y => BitVec.ofInt n (x.toInt + y.toInt))
  | .ssub f => some (f, fun n x y => BitVec.ofInt n (x.toInt - y.toInt))
  | .smul f => some (f, fun n x y => BitVec.ofInt n (x.toInt * y.toInt))
  | .smulh f => some (f, fun n x y => BitVec.ofInt n (x.toInt * y.toInt / 2 ^ n))
  | .smulhn f => some (f, fun n x y => BitVec.ofNat n (x.toNat * y.toNat / 2 ^ n))
  | .sdiv f => some (f, fun n x y => if y.toInt = 0 then BitVec.ofInt n (-1) else BitVec.ofInt n (x.toInt.tdiv y.toInt))
  | .sdivn f => some (f, fun n x y => if y.toNat = 0 then BitVec.ofInt n (-1) else BitVec.ofNat n (x.toNat / y.toNat))
  | .srem f => some (f, fun n x y => if y.toInt = 0 then x else BitVec.ofInt n (x.toInt - y.toInt * x.toInt.tdiv y.toInt))
  | .sremn f => some (f, fun n x y => if y.toNat = 0 then x else BitVec.ofNat n (x.toNat % y.toNat))
  | .sand f => some (f, fun _ x y => x &&& y)
  | .sor f => some (f, fun _ x y => x ||| y)
  | .sxor f => some (f, fun _ x y => x ^^^ y)
  | .sshl f => some (f, fun n x y => BitVec.ofNat n (x.toNat * 2 ^ (y.toNat % n)))
  | .sshr f => some (f, fun n x y => BitVec.ofNat n (x.toNat / 2 ^ (y.toNat % n)))
  | .ssra f => some (f, fun n x y => BitVec.ofInt n (x.toInt / 2 ^ (y.toNat % n)))
  | .smin f => some (f, fun _ x y => if x.toInt ≤ y.toInt then x else y)
  | .sminn f => some (f, fun _ x y => if x.toNat ≤ y.toNat then x else y)
  | .smax f => some (f, fun _ x y => if x.toInt ≤ y.toInt then y else x)
  | .smaxn f => some (f, fun _ x y => if x.toNat ≤ y.toNat then y else x)
  | .sseq f => some (f, fun n x y => if x = y then 1#n else 0#n)
  | .ssne f => some (f, fun n x y => if x = y then 0#n else 1#n)
  | .sslt f => some (f, fun n x y => if x.toInt < y.toInt then 1#n else 0#n)
  | .ssle f => some (f, fun n x y => if x.toInt ≤ y.toInt then 1#n else 0#n)
  | .ssltn f => some (f, fun n x y => if x.toNat < y.toNat then 1#n else 0#n)
  | .sslen f => some (f, fun n x y => if x.toNat ≤ y.toNat then 1#n else 0#n)
  | .spopc f => some (f, fun n x _ => BitVec.ofNat n ((List.range n).countP fun i => x.getLsbD i))
  | .sclz f => some (f, fun n x _ => BitVec.ofNat n ((List.range n).countP fun i => x.toNat < 2 ^ i))
  | _ => none

/-- The second operand of a scalar form: the immediate, sign-extended, or a register (R47). -/
def secondOperand (f : FS) (s : State) (iss : Issue) : W64 :=
  if f.i = 1 then BitVec.ofInt 64 f.imm.toInt else scalar s iss f.sb.toNat

/-- An operation on 64 bits, or under w on the low halves with the result sign-extended (R104). -/
def onWidth (f : FS) (op : (n : Nat) → BitVec n → BitVec n → BitVec n) (x y : W64) : W64 :=
  if f.w = 1 then BitVec.ofInt 64 (op 32 (x.setWidth 32) (y.setWidth 32)).toInt else op 64 x y

/-- What an instruction of group 0x1 but `SLI` names: `SSEL` reads its destination too. -/
def scalarShape (f : FS) (more : List Nat) : Shape :=
  { engines := allEngines, ssrc := more ++ f.sa.toNat :: (if f.i = 1 then [] else [f.sb.toNat]), sdst := [f.sd.toNat] }

end Sys2Proof.Claims

section
open Sys2Proof Sys2Proof.Machine Sys2Proof.Safety Sys2Proof.Claims

/-- An instruction of R105 writes into sd what integer arithmetic makes of its operands (R104 to R106), moves its
lanes on, and changes nothing else; with sd = 0 nothing is written. -/
def Obligations.ScalarResults : Prop :=
  ∀ (i : Instr) (f : FS) (op : (n : Nat) → BitVec n → BitVec n → BitVec n) (s : State) (iss : Issue),
    scalarTable i = some (f, op) → runsNow (scalarShape f []) (fun _ _ => true) iss s →
    ∃ u, leaves i s iss.thr u ∧ movedOn iss.thr iss.lanes 8 s u
      ∧ onlyRegs iss.thr s u
          ((regsOf s iss).setS f.sd.toNat (onWidth f op (scalar s iss f.sa.toNat) (secondOperand f s iss)))

/-- Division (R106): by zero it gives −1, all ones, x and x; the most negative number by −1 gives itself and 0, on 64
bits and under w. -/
def Obligations.DivisionNeverTraps : Prop :=
  ∀ (i : Instr) (f : FS) (op : (n : Nat) → BitVec n → BitVec n → BitVec n) (s : State) (iss : Issue) (n : Nat) (x y : BitVec n),
    scalarTable i = some (f, op) → (n = if f.w = 1 then 32 else 64) →
    x = (scalar s iss f.sa.toNat).setWidth n → y = (secondOperand f s iss).setWidth n →
    runsNow (scalarShape f []) (fun _ _ => true) iss s →
    ∃ u v, leaves i s iss.thr u
      ∧ onlyRegs iss.thr s u ((regsOf s iss).setS f.sd.toNat (BitVec.ofInt 64 (BitVec.toInt (n := n) v)))
      ∧ (i = .sdiv f → (y = 0 → v = BitVec.allOnes n) ∧ (x = BitVec.intMin n → y = BitVec.allOnes n → v = x))
      ∧ (i = .sdivn f → v = if y = 0 then BitVec.allOnes n else BitVec.ofNat n (x.toNat / y.toNat))
      ∧ (i = .srem f → (y = 0 → v = x) ∧ (x = BitVec.intMin n → y = BitVec.allOnes n → v = 0))
      ∧ (i = .sremn f → v = if y = 0 then x else BitVec.ofNat n (x.toNat % y.toNat))

/-- `SSEL` keeps x or takes y by the whole of its old destination (R105); `SLI` writes its extension word and moves its
lanes past both words (R28, R107), where that word translates; it may fill a translation entry and set A bits of leaves. -/
def Sys2Proof.Claims.SelectAndLongImmediate : Prop :=
  (∀ (f : FS) (s : State) (iss : Issue), runsNow (scalarShape f [f.sd.toNat]) (fun _ _ => true) iss s →
    ∃ u, leaves (.ssel f) s iss.thr u ∧ movedOn iss.thr iss.lanes 8 s u
      ∧ onlyRegs iss.thr s u ((regsOf s iss).setS f.sd.toNat
          (onWidth f (fun _ x y => if scalar s iss f.sd.toNat = 0 then y else x) (scalar s iss f.sa.toNat)
            (secondOperand f s iss))))
  ∧ ∀ (f : FSL) (w : W64) (s : State) (iss : Issue),
    runsNow { engines := allEngines, sdst := [f.first.sd.toNat], undef := !hasNextWord s iss } (fun _ _ => true) iss s →
    fetch s (s.thread iss.thr) (iss.pc + 8) = .ok w →
    ∃ u, leaves (.sli f) s iss.thr u ∧ movedOn iss.thr iss.lanes 16 s u
      ∧ kept (u.thread iss.thr) = kept (s.thread iss.thr)
      ∧ bare (u.thread iss.thr).regs = bare ((regsOf s iss).setS f.first.sd.toNat f.ext)
      ∧ (∀ j, j ≠ iss.thr → u.thread j = s.thread j) ∧ u.fl = s.fl ∧ u.wgs = s.wgs
      ∧ ∀ k, unmarked s (whoOf (s.thread iss.thr)) (iss.pc + 8).toNat false k → u.byte k = s.byte k

end

namespace Sys2Proof.Claims

open Sys2Proof.Machine Sys2Proof.Safety

/-! ### System values, the bridge to the lanes, masks -/

/-- The vector register in bits 31:22 of an immediate (R111, R112). -/
def immVreg (f : FS) : Nat := (f.imm.extractLsb' 22 10).toNat

/-- The lanes of the issuing group, ascending. -/
def groupLanes (iss : Issue) : List Nat := (List.range 64).filter fun l => iss.lanes.testBit l

/-- A mask source: a mask register, or the lanes of the group for field 0 (R113). -/
def maskOperand (s : State) (iss : Issue) (n : BitVec 6) : W64 :=
  if n = 0 then BitVec.ofNat 64 iss.lanes else maskReg s iss n.toNat

/-- Bits at or above the warp width are zero (R113). -/
def belowWidth (s : State) (iss : Issue) (m : W64) : W64 :=
  m &&& BitVec.ofNat 64 (2 ^ (s.thread iss.thr).width - 1)

/-- What each binary mask instruction makes of its operands (R114). -/
def maskTable : Instr → Option (FS × (W64 → W64 → W64))
  | .mand f => some (f, fun a y => a &&& y)
  | .mor f => some (f, fun a y => a ||| y)
  | .mxor f => some (f, fun a y => a ^^^ y)
  | .mandn f => some (f, fun a y => a &&& ~~~y)
  | _ => none

/-- Mask registers among the fields that name masks. -/
def maskNames (l : List (BitVec 6)) : List Nat := (l.filter fun n => n != 0).map BitVec.toNat

/-- The scalar result of each mask instruction that has one: `y` is the second operand of `MFIND` (R114). -/
def maskScalarTable : Instr → Option (FS × List Nat × (W64 → W64 → W64))
  | .mpopc f => some (f, [], fun m _ => BitVec.ofNat 64 ((List.range 64).countP fun i => m.getLsbD i))
  | .mtos f => some (f, [], fun m _ => m)
  | .mfind f => some (f, if f.i = 1 then [] else [f.sb.toNat], fun m y =>
      match (List.range 64).find? fun i => m.getLsbD i && decide (y.toNat % 64 ≤ i) with
      | some i => BitVec.ofNat 64 i
      | none => BitVec.ofInt 64 (-1))
  | _ => none

end Sys2Proof.Claims

section
open Sys2Proof Sys2Proof.Machine Sys2Proof.Safety Sys2Proof.Claims

/-- `SGET` writes a system value into sd (R110); on a core its numbers 0x01, 0x02, 0x05, 0x06, 0x0A, 0x12, 0x13, 0x15 and
0x16 read the core, the slot, the width, the budget, the warp index, the launch, the context, EM and the group, and on an
SCC the core number reads all ones and the width 1. -/
def Sys2Proof.Claims.SystemValues : Prop :=
  (∀ (f : FS) (s : State) (iss : Issue), runsNow { engines := ctlEngines, sdst := [f.sd.toNat] } (fun _ _ => true) iss s →
    ∃ u, leaves (.sget f) s iss.thr u ∧ movedOn iss.thr iss.lanes 8 s u
      ∧ onlyRegs iss.thr s u ((regsOf s iss).setS f.sd.toNat (systemValue s iss f.imm.toNat)))
  ∧ ∀ (s : State) (iss : Issue),
    let t := s.thread iss.thr
    (t.engine = .core →
      systemValue s iss 0x01 = BitVec.ofNat 64 t.core ∧ systemValue s iss 0x02 = BitVec.ofNat 64 t.slot
      ∧ systemValue s iss 0x05 = BitVec.ofNat 64 t.width ∧ systemValue s iss 0x06 = BitVec.ofNat 64 t.budget
      ∧ systemValue s iss 0x0A = BitVec.ofNat 64 t.warp ∧ systemValue s iss 0x12 = BitVec.ofNat 64 t.launch
      ∧ systemValue s iss 0x13 = BitVec.ofNat 64 t.ctx ∧ systemValue s iss 0x15 = (sourceRegs s iss).em
      ∧ systemValue s iss 0x16 = BitVec.ofNat 64 iss.lanes)
    ∧ (t.engine = .scc → systemValue s iss 0x01 = BitVec.ofInt 64 (-1) ∧ (t.width = 1 → systemValue s iss 0x05 = 1)
      ∧ systemValue s iss 0x15 = 1)

/-- `VGET`, `VSPLAT` and `SLANE` move values between lanes and the scalar path (R111, R112): the lanes of the group take
the lane index, the thread index, the EM bit or the low half of a scalar; a scalar takes one lane's value, zero-extended. -/
def Sys2Proof.Claims.LaneScalarBridge : Prop :=
  (∀ (f : FS) (s : State) (iss : Issue), runsNow { vdst := [immVreg f] } (fun _ _ => true) iss s →
    (s.thread iss.thr).reefUse = [] →
    ∃ u, leaves (.vget f) s iss.thr u ∧ movedOn iss.thr iss.lanes 8 s u
      ∧ onlyRegs iss.thr s u ((regsOf s iss).setLanes (immVreg f) ((groupLanes iss).map fun l => (l, BitVec.ofNat 32 (
          if f.imm.toNat % 256 = 0 then l
          else if f.imm.toNat % 256 = 1 then (s.thread iss.thr).warp * (s.thread iss.thr).width + l
          else if (regsOf s iss).em.getLsbD l then 1 else 0)))))
  ∧ (∀ (f : FS) (s : State) (iss : Issue), runsNow { vdst := [immVreg f], ssrc := [f.sa.toNat] } (fun _ _ => true) iss s →
    (s.thread iss.thr).reefUse = [] →
    ∃ u, leaves (.vsplat f) s iss.thr u ∧ movedOn iss.thr iss.lanes 8 s u
      ∧ onlyRegs iss.thr s u ((regsOf s iss).setLanes (immVreg f)
          ((groupLanes iss).map fun l => (l, (scalar s iss f.sa.toNat).setWidth 32))))
  ∧ ∀ (f : FS) (s : State) (iss : Issue),
    let sh : Shape := { vsrc := [immVreg f], sdst := [f.sd.toNat], wide := true, undef := decide ((s.thread iss.thr).width ≤ f.imm.toNat % 64) }
    runsNow sh (fun _ _ => true) iss s → calm s iss sh →
    ∃ u, leaves (.slane f) s iss.thr u ∧ movedOn iss.thr iss.lanes 8 s u
      ∧ onlyRegs iss.thr s u ((regsOf s iss).setS f.sd.toNat ((operand s iss sh 0 (f.imm.toNat % 64)).setWidth 64))

/-- The mask instructions (R113, R114): AND, OR, XOR and AND NOT of masks with a mask or a sign-extended immediate and a
scalar into a mask keep bits at or above the width zero; a count, a search from bit y upwards and a copy go to a scalar. -/
def Sys2Proof.Claims.MaskResults : Prop :=
  (∀ (i : Instr) (f : FS) (op : W64 → W64 → W64) (s : State) (iss : Issue), maskTable i = some (f, op) →
    runsNow { engines := ctlEngines, msrc := maskNames (if f.i = 1 then [f.sa] else [f.sa, f.sb]), mdst := [f.sd.toNat] }
      (fun _ _ => true) iss s →
    ∃ u, leaves i s iss.thr u ∧ movedOn iss.thr iss.lanes 8 s u
      ∧ onlyRegs iss.thr s u ((regsOf s iss).setM f.sd.toNat (belowWidth s iss
          (op (maskOperand s iss f.sa) (if f.i = 1 then BitVec.ofInt 64 f.imm.toInt else maskOperand s iss f.sb)))))
  ∧ (∀ (f : FS) (s : State) (iss : Issue),
    runsNow { engines := ctlEngines, ssrc := [f.sa.toNat], mdst := [f.sd.toNat] } (fun _ _ => true) iss s →
    ∃ u, leaves (.mfroms f) s iss.thr u ∧ movedOn iss.thr iss.lanes 8 s u
      ∧ onlyRegs iss.thr s u ((regsOf s iss).setM f.sd.toNat (belowWidth s iss (scalar s iss f.sa.toNat))))
  ∧ ∀ (i : Instr) (f : FS) (ssrc : List Nat) (op : W64 → W64 → W64) (s : State) (iss : Issue),
    maskScalarTable i = some (f, ssrc, op) →
    runsNow { engines := ctlEngines, msrc := maskNames [f.sa], ssrc, sdst := [f.sd.toNat] } (fun _ _ => true) iss s →
    ∃ u, leaves i s iss.thr u ∧ movedOn iss.thr iss.lanes 8 s u
      ∧ onlyRegs iss.thr s u
          ((regsOf s iss).setS f.sd.toNat (op (maskOperand s iss f.sa) (secondOperand f s iss)))

end

/-- `SSEL` and `SLI` write what R105 and R107 give them, and `SGET` writes a system value (R110). -/
def Obligations.ScalarMovesAndSystemValues : Prop :=
  Sys2Proof.Claims.SelectAndLongImmediate ∧ Sys2Proof.Claims.SystemValues

/-- Values move between lanes, scalars and masks as R111 to R114 say. -/
def Obligations.MasksAndLaneValues : Prop :=
  Sys2Proof.Claims.LaneScalarBridge ∧ Sys2Proof.Claims.MaskResults

namespace Sys2Proof.Claims

open Sys2Proof.Machine Sys2Proof.Safety

/-! ### Vector integer -/

/-- Source modifiers on a pattern read as signed: absolute value, then negation, both modulo 2^32 (R41). -/
def modified (n x : BitVec 1) (v : W32) : W32 :=
  let a : Int := if x = 1 then (v.toInt.natAbs : Int) else v.toInt
  BitVec.ofInt 32 (if n = 1 then -a else a)

/-- A pattern read as signed under .i32 (code 0), as unsigned under .n32 (R40). -/
def typed (t : BitVec 4) (v : W32) : Int := if t = 0 then v.toInt else (v.toNat : Int)

/-- The destination clamp of an exact integer (R42). -/
def clamped (cl : BitVec 2) (e : Int) : W32 :=
  BitVec.ofInt 32 (if cl = 1 then max 0 (min e (2 ^ 32 - 1)) else if cl = 2 then max (-2 ^ 31) (min e (2 ^ 31 - 1)) else e)

/-- The bits of a field from `pos` to min(pos + len, 32) − 1 (R123). -/
def inField (b : W32) (i : Nat) : Bool :=
  decide (b.toNat % 32 ≤ i) && decide (i < min (b.toNat % 32 + b.toNat / 2 ^ 8 % 64) 32)

/-- A word from its bits. -/
def wordOf (bit : Nat → Bool) : W32 := BitVec.ofNat 32 (((List.range 32).map fun i => if bit i then 2 ^ i else 0).sum)

/-- A per-lane vector instruction: guard, destination, sources in pop order, and a lane's result. -/
structure LaneForm where
  g    : BitVec 3
  d    : BitVec 10
  srcs : List (BitVec 10)
  op   : List W32 → W32

/-- A binary form of R119 on exact integers. -/
def exactForm (f : FV2) (op : Int → Int → Int) : LaneForm :=
  { g := f.g, d := f.d, srcs := [f.a, f.b]
    op := fun v => clamped f.cl (op (typed f.t (modified f.na f.xa (v.getD 0 0))) (typed f.t (modified f.nb f.xb (v.getD 1 0)))) }

/-- A form of R119 on patterns. -/
def patternForm (f : FV2) (srcs : List (BitVec 10)) (op : W32 → W32 → W32) : LaneForm :=
  { g := f.g, d := f.d, srcs, op := fun v => op (v.getD 0 0) (v.getD 1 0) }

/-- A form with an immediate (R124). -/
def immediateForm (f : FVI) (srcs : List (BitVec 10)) (op : W32 → W32) : LaneForm :=
  { g := f.g, d := f.d, srcs, op := fun v => op (v.getD 0 0) }

/-- The immediate of R124: sign-extended, zero-extended, or in the high half over `low`. -/
def extended (t : BitVec 4) (imm : BitVec 16) (low : Nat) : W32 :=
  if t = 0 then BitVec.ofInt 32 imm.toInt else if t = 1 then BitVec.ofNat 32 imm.toNat else BitVec.ofNat 32 (imm.toNat * 2 ^ 16 + low)

/-- The results of group 0x3 but for the compares (R119, R123, R124). -/
def laneTable : Instr → Option LaneForm
  | .vadd f => some (exactForm f fun x y => x + y)
  | .vsub f => some (exactForm f fun x y => x - y)
  | .vmul f => some (exactForm f fun x y => x * y)
  | .vmulh f => some (exactForm f fun x y => x * y / 2 ^ 32)
  | .vmin f => some (exactForm f fun x y => min x y)
  | .vmax f => some (exactForm f fun x y => max x y)
  | .vabsd f => some (exactForm f fun x y => ((x - y).natAbs : Int))
  | .vand f => some (patternForm f [f.a, f.b] fun a b => a &&& b)
  | .vor f => some (patternForm f [f.a, f.b] fun a b => a ||| b)
  | .vxor f => some (patternForm f [f.a, f.b] fun a b => a ^^^ b)
  | .vandn f => some (patternForm f [f.a, f.b] fun a b => a &&& ~~~b)
  | .vshl f => some { g := f.g, d := f.d, srcs := [f.a, f.b]
                      op := fun v => clamped f.cl (typed f.t (modified f.na f.xa (v.getD 0 0)) * 2 ^ ((v.getD 1 0).toNat % 256)) }
  | .vshr f => some (patternForm f [f.a, f.b] fun a b => BitVec.ofNat 32 (a.toNat / 2 ^ (b.toNat % 256)))
  | .vsra f => some (patternForm f [f.a, f.b] fun a b => BitVec.ofInt 32 (a.toInt / 2 ^ (b.toNat % 256)))
  | .vpopc f => some (patternForm f [f.a] fun a _ => BitVec.ofNat 32 ((List.range 32).countP fun i => a.getLsbD i))
  | .vclz f => some (patternForm f [f.a] fun a _ => BitVec.ofNat 32 ((List.range 32).countP fun i => a.toNat < 2 ^ i))
  | .vbrev f => some (patternForm f [f.a] fun a _ => wordOf fun i => a.getLsbD (31 - i))
  | .vmov f => some { g := f.g, d := f.d, srcs := [f.a], op := fun v => clamped f.cl (typed f.t (modified f.na f.xa (v.getD 0 0))) }
  | .vmad f => some { g := f.g, d := f.d, srcs := [f.a, f.b, f.c]
                      op := fun v => clamped f.cl ((modified f.na f.xa (v.getD 0 0)).toInt * (modified f.nb f.xb (v.getD 1 0)).toInt
                        + (modified f.nc f.xc (v.getD 2 0)).toInt) }
  | .vsel f => some { g := f.g, d := f.d, srcs := [f.a, f.b, f.c], op := fun v => if v.getD 2 0 = 0 then v.getD 1 0 else v.getD 0 0 }
  | .vbfx f => some { g := f.g, d := f.d, srcs := [f.a, f.b]
                      op := fun v =>
                        let pos := (v.getD 1 0).toNat % 32
                        wordOf fun i => inField (v.getD 1 0) (i + pos) && (v.getD 0 0).getLsbD (i + pos) }
  | .vbfi f => some { g := f.g, d := f.d, srcs := [f.a, f.b, f.c]
                      op := fun v => wordOf fun i =>
                        if inField (v.getD 1 0) i then (v.getD 0 0).getLsbD (i - (v.getD 1 0).toNat % 32) else (v.getD 2 0).getLsbD i }
  | .vmovi f => some (immediateForm f [] fun _ => extended f.t f.imm 0)
  | .vaddi f => some (immediateForm f [f.a] fun a => clamped f.cl (typed f.t (modified f.na f.xa a) + typed f.t (extended f.t f.imm 0)))
  | .vandi f => some (immediateForm f [f.a] fun a => a &&& extended f.t f.imm 0xFFFF)
  | .vori f => some (immediateForm f [f.a] fun a => a ||| extended f.t f.imm 0)
  | .vxori f => some (immediateForm f [f.a] fun a => a ^^^ extended f.t f.imm 0)
  | .vshli f => some (immediateForm f [f.a] fun a => clamped f.cl (typed f.t (modified f.na f.xa a) * 2 ^ (f.imm.toNat % 32)))
  | .vshri f => some (immediateForm f [f.a] fun a => BitVec.ofNat 32 (a.toNat / 2 ^ (f.imm.toNat % 32)))
  | .vsrai f => some (immediateForm f [f.a] fun a => BitVec.ofInt 32 (a.toInt / 2 ^ (f.imm.toNat % 32)))
  | _ => none

/-- What a per-lane form names. -/
def LaneForm.shape (F : LaneForm) : Shape := { g := F.g.toNat, vsrc := F.srcs.map BitVec.toNat, vdst := [F.d.toNat] }

/-- The values that the sources of a lane read, in field order. -/
def sourceValues (s : State) (iss : Issue) (sh : Shape) (l : Nat) : List W32 :=
  (List.range sh.vsrc.length).map fun i => operand s iss sh i l

/-- The registers after a per-lane form: the lanes of Active(g) take their results. -/
def LaneForm.result (F : LaneForm) (s : State) (iss : Issue) : Regs :=
  (regsOf s iss).setLanes F.d.toNat ((activeLanes s iss F.shape).map fun l => (l, F.op (sourceValues s iss F.shape l)))

/-- The relation of a compare (R122). -/
def relation (t : BitVec 4) (x y : W32) : Prop :=
  match t.toNat with
  | 0x0 => x.toNat = y.toNat | 0x1 => x.toNat ≠ y.toNat
  | 0x2 => x.toInt < y.toInt | 0x3 => x.toInt ≤ y.toInt | 0x4 => y.toInt < x.toInt | 0x5 => y.toInt ≤ x.toInt
  | 0x6 => x.toNat < y.toNat | 0x7 => x.toNat ≤ y.toNat | 0x8 => y.toNat < x.toNat | 0x9 => y.toNat ≤ x.toNat
  | 0xA => x &&& y ≠ 0
  | _ => x &&& y = 0

/-- Mask register `d` of the issuing thread after a compare: the bits of Active(g) as `holds` says, the others as before
the fc, those at or above the width zero; with an empty Active(g) it is not written (R116, R122). -/
def maskAfter (s : State) (iss : Issue) (sh : Shape) (d : Nat) (holds : Nat → Prop) (r : Regs) : Prop :=
  if activeLanes s iss sh = [] then r = regsOf s iss
  else ∃ m : W64, r = (regsOf s iss).setM d m ∧ ∀ b, b < 64 → (m.getLsbD b = true ↔
    b < (s.thread iss.thr).width ∧ if b ∈ activeLanes s iss sh then holds b else (maskReg s iss d).getLsbD b = true)

end Sys2Proof.Claims

section
open Sys2Proof Sys2Proof.Machine Sys2Proof.Safety Sys2Proof.Claims

/-- A per-lane instruction of group 0x3 writes d in the lanes of Active(g) with what integer arithmetic makes of the
lane's sources (R115, R119, R123, R124), moves the group on, and changes nothing else but the queues that it pops. -/
def Sys2Proof.Claims.VectorIntegerValues : Prop :=
  ∀ (i : Instr) (F : LaneForm) (s : State) (iss : Issue), i.wellFormed = true → laneTable i = some F →
    runsNow F.shape (fun _ _ => true) iss s → calm s iss F.shape →
    ∃ u, leaves i s iss.thr u ∧ movedOn iss.thr iss.lanes 8 s u ∧ onlyRegs iss.thr s u (F.result s iss)

/-- `VSHL.i32` with cl = 0b10 saturates to [−2^31, 2^31 − 1], by sign for a nonzero x with s ≥ 32; under cl = 0b00 it
gives 0 for s ≥ 32 (R120). -/
def Obligations.ShiftLeftSaturates : Prop :=
  ∀ (f : FV2) (F : LaneForm) (s : State) (iss : Issue), laneTable (.vshl f) = some F →
    runsNow F.shape (fun _ _ => true) iss s → calm s iss F.shape →
    ∃ (u : State) (v : Nat → W32), leaves (.vshl f) s iss.thr u
      ∧ onlyRegs iss.thr s u ((regsOf s iss).setLanes f.d.toNat ((activeLanes s iss F.shape).map fun l => (l, v l)))
      ∧ ∀ l ∈ activeLanes s iss F.shape,
          let x := typed f.t (modified f.na f.xa (operand s iss F.shape 0 l))
          let n := (operand s iss F.shape 1 l).toNat % 256
          (f.t = 0 → f.cl = 2 → (v l).toInt = max (-2 ^ 31) (min (x * 2 ^ n) (2 ^ 31 - 1)))
          ∧ (f.t = 0 → f.cl = 2 → 32 ≤ n → (x < 0 → v l = 0x80000000) ∧ (0 < x → v l = 0x7FFFFFFF))
          ∧ (f.cl = 0 → 32 ≤ n → v l = 0)

/-- `VCMP` and `VCMPI` write a mask register (R122). -/
def Sys2Proof.Claims.VectorCompares : Prop :=
  (∀ (f : FV2) (s : State) (iss : Issue),
    let sh : Shape := { g := f.g.toNat, vsrc := [f.a.toNat, f.b.toNat], mdst := [f.d.toNat] }
    (Instr.vcmp f).wellFormed = true → runsNow sh (fun _ _ => true) iss s → calm s iss sh →
    ∃ u r, leaves (.vcmp f) s iss.thr u ∧ movedOn iss.thr iss.lanes 8 s u ∧ onlyRegs iss.thr s u r
      ∧ maskAfter s iss sh f.d.toNat (fun l =>
          relation f.t (modified f.na f.xa (operand s iss sh 0 l)) (modified f.nb f.xb (operand s iss sh 1 l))) r)
  ∧ ∀ (f : FVI) (s : State) (iss : Issue),
    let sh : Shape := { g := f.g.toNat, vsrc := [f.a.toNat], mdst := [f.d.toNat] }
    (Instr.vcmpi f).wellFormed = true → runsNow sh (fun _ _ => true) iss s → calm s iss sh →
    ∃ u r, leaves (.vcmpi f) s iss.thr u ∧ movedOn iss.thr iss.lanes 8 s u ∧ onlyRegs iss.thr s u r
      ∧ maskAfter s iss sh f.d.toNat (fun l => relation f.t (modified f.na f.xa (operand s iss sh 0 l))
          (if f.t.toNat ≤ 5 then BitVec.ofInt 32 f.imm.toInt else BitVec.ofNat 32 f.imm.toNat)) r

end

/-- The per-lane instructions of group 0x3 give lanes and masks what integer arithmetic makes of their sources (R115,
R119, R122 to R124). -/
def Obligations.VectorIntegerResults : Prop :=
  Sys2Proof.Claims.VectorIntegerValues ∧ Sys2Proof.Claims.VectorCompares

namespace Sys2Proof.Claims

open Sys2Proof.Machine Sys2Proof.Safety

/-! ### Lane exchange -/

/-- A lane-exchange instruction: what it names, and the value that a lane takes, none where it keeps d, from the warp
width, the lanes of Active(g), the values of a and b by lane, and the lane. -/
structure ExchangeForm where
  g     : BitVec 3
  d     : BitVec 10
  srcs  : List (BitVec 10)
  lane  : Nat := 0          -- a lane that the instruction names
  op    : Nat → List Nat → (Nat → W32) → (Nat → W32) → Nat → Option W32

/-- The combination of values under an op of R127, with its identity; add is exact, then clamped (R128). -/
def combination (op : Nat) (cl : BitVec 2) (vs : List W32) : W32 :=
  match op with
  | 0 => clamped cl (vs.map BitVec.toInt).sum
  | 1 => BitVec.ofInt 32 ((vs.map BitVec.toInt).foldl min (2 ^ 31 - 1))
  | 2 => BitVec.ofNat 32 ((vs.map BitVec.toNat).foldl min (2 ^ 32 - 1))
  | 3 => BitVec.ofInt 32 ((vs.map BitVec.toInt).foldl max (-2 ^ 31))
  | 4 => BitVec.ofNat 32 ((vs.map BitVec.toNat).foldl max 0)
  | 5 => wordOf fun i => vs.all fun v => v.getLsbD i
  | 6 => wordOf fun i => vs.any fun v => v.getLsbD i
  | _ => wordOf fun i => (vs.countP fun v => v.getLsbD i) % 2 == 1

/-- The value that a lane takes (R126, R127, R131, R133); `S` is the lanes with a nonzero b. -/
def exchangeTable : Instr → Option ExchangeForm
  | .vperm f => some { g := f.g, d := f.d, srcs := [f.a, f.b]
                       op := fun w _ a b l =>
                         if f.t = 0 then some (if (b l).toNat % 64 < w then a ((b l).toNat % 64) else 0) else some (a ((b l).toNat % w)) }
  | .vshfl f => some { g := f.g, d := f.d, srcs := [f.a]
                       op := fun w _ a _ l =>
                         let k := f.b.toNat
                         if f.t = 0 then some (if k ≤ l then a (l - k) else a l)
                         else if f.t = 1 then some (if l + k < w then a (l + k) else a l)
                         else if f.t = 2 then some (if l ^^^ k < w then a (l ^^^ k) else a l)
                         else some (a ((l + k) % w)) }
  | .vbcast f => some { g := f.g, d := f.d, srcs := [f.a], lane := f.b.toNat, op := fun _ _ a _ _ => some (a f.b.toNat) }
  | .vred f => some { g := f.g, d := f.d, srcs := [f.a], op := fun _ A a _ _ => some (combination (f.t.toNat % 8) f.cl (A.map a)) }
  | .vscan f => some { g := f.g, d := f.d, srcs := [f.a]
                       op := fun _ A a _ l => some (combination (f.t.toNat % 8) f.cl
                         ((A.filter fun j => if f.t.toNat < 8 then decide (j ≤ l) else decide (j < l)).map a)) }
  | .vmatch f => some { g := f.g, d := f.d, srcs := [f.a]
                        op := fun _ A a _ l =>
                          if f.t = 0 then (A.find? fun j => a j == a l).map (BitVec.ofNat 32)
                          else some (BitVec.ofNat 32 (A.countP fun j => a j == a l)) }
  | .vcomp f => some { g := f.g, d := f.d, srcs := [f.a, f.b]
                       op := fun _ A a b l =>
                         let S := A.filter fun j => b j != 0
                         match S[A.idxOf l]? with
                         | some j => some (a j)
                         | none => if f.t = 1 then some 0 else none }
  | .vexpd f => some { g := f.g, d := f.d, srcs := [f.a, f.b]
                       op := fun _ A a b l =>
                         let S := A.filter fun j => b j != 0
                         if l ∈ S then (A[S.idxOf l]?).map a else if f.t = 1 then some 0 else none }
  | _ => none

/-- What an exchange instruction names; a lane at or above the width traps UNDEF (R126). -/
def ExchangeForm.shape (F : ExchangeForm) (s : State) (iss : Issue) : Shape :=
  { g := F.g.toNat, vsrc := F.srcs.map BitVec.toNat, vdst := [F.d.toNat], wide := true
    undef := decide ((s.thread iss.thr).width ≤ F.lane) }

/-- The registers after an exchange: the lanes of Active(g) that take a value. -/
def ExchangeForm.result (F : ExchangeForm) (s : State) (iss : Issue) : Regs :=
  let sh := F.shape s iss
  let A := activeLanes s iss sh
  (regsOf s iss).setLanes F.d.toNat (A.filterMap fun l =>
    (F.op (s.thread iss.thr).width A (operand s iss sh 0) (operand s iss sh 1) l).map fun v => (l, v))

/-- A computed register that a lane may name (R132): below the budget, no port. -/
def mayName (s : State) (iss : Issue) (n : Nat) : Prop :=
  let t := s.thread iss.thr
  n < t.budget ∧ n ≤ 1023 ∧ (hasPorts s t = true → n < 1020)

end Sys2Proof.Claims

section
open Sys2Proof Sys2Proof.Machine Sys2Proof.Safety Sys2Proof.Claims

/-- Permutes, shuffles, broadcasts, reductions, scans, matches and compactions write what their entries say into the
lanes of Active(g) (R125 to R128, R131, R133), in a warp of a width that has lanes. -/
def Sys2Proof.Claims.LaneExchangeResults : Prop :=
  ∀ (i : Instr) (F : ExchangeForm) (s : State) (iss : Issue), i.wellFormed = true → exchangeTable i = some F →
    0 < (s.thread iss.thr).width → runsNow (F.shape s iss) (fun _ _ => true) iss s → calm s iss (F.shape s iss) →
    ∃ u, leaves i s iss.thr u ∧ movedOn iss.thr iss.lanes 8 s u ∧ onlyRegs iss.thr s u (F.result s iss)

/-- `VMOVX` reads and `VMOVXW` writes the register whose number each lane forms from a base and b (R132), where every
lane's number is below the budget and names no port. -/
def Sys2Proof.Claims.IndirectRegisters : Prop :=
  (∀ (f : FV2) (s : State) (iss : Issue),
    let sh : Shape := { g := f.g.toNat, vsrc := [f.b.toNat], vdst := [f.d.toNat] }
    let n := fun l => f.a.toNat + (operand s iss sh 0 l).toNat
    runsNow sh (computedFree sh f.a.toNat 0 true) iss s →
    calm s iss sh → (∀ l ∈ activeLanes s iss sh, mayName s iss (n l) ∧ (s.thread iss.thr).lostAt (n l) l = false) →
    ∃ u, leaves (.vmovx f) s iss.thr u ∧ movedOn iss.thr iss.lanes 8 s u
      ∧ onlyRegs iss.thr s u ((regsOf s iss).setLanes f.d.toNat
          ((activeLanes s iss sh).map fun l => (l, (sourceRegs s iss).getV (n l) l))))
  ∧ ∀ (f : FV2) (s : State) (iss : Issue),
    let sh : Shape := { g := f.g.toNat, vsrc := [f.a.toNat, f.b.toNat] }
    let n := fun l => f.d.toNat + (operand s iss sh 1 l).toNat
    runsNow sh (computedFree sh f.d.toNat 1 false) iss s →
    calm s iss sh → (∀ l ∈ activeLanes s iss sh, mayName s iss (n l)) →
    ∃ u, leaves (.vmovxw f) s iss.thr u ∧ movedOn iss.thr iss.lanes 8 s u
      ∧ onlyRegs iss.thr s u ((activeLanes s iss sh).foldl (fun r l => r.setV (n l) l (operand s iss sh 0 l)) (regsOf s iss))

end

/-- Lanes exchange, reduce and compact values, and name registers by a value, as R125 to R133 say. -/
def Obligations.LanesExchange : Prop :=
  Sys2Proof.Claims.LaneExchangeResults ∧ Sys2Proof.Claims.IndirectRegisters

namespace Sys2Proof.Claims

open Sys2Proof.Machine Sys2Proof.Safety

/-! ### Control flow -/

/-- What a control instruction names; on a scalar engine a guard traps UNDEF (R89). -/
def controlShape (s : State) (iss : Issue) (f : FB) (ssrc sdst : List Nat) : Shape :=
  { engines := [.core, .scc, .harbour], g := f.g.toNat, ssrc, sdst
    undef := ((s.thread iss.thr).engine == .scc || (s.thread iss.thr).engine == .harbour) && f.g != 0 }

/-- The lane takes part in an instruction with guard `g`. -/
def acts (s : State) (iss : Issue) (g : BitVec 3) (l : Nat) : Prop := (active s iss g.toNat).testBit l = true

/-- The lane belongs to the issuing group. -/
def inGroup (iss : Issue) (l : Nat) : Prop := iss.lanes.testBit l = true

/-- The group consists of lanes of the thread, and no `REP` sequence runs. -/
def plainGroup (s : State) (iss : Issue) : Prop :=
  (∀ l, inGroup iss l → l < (s.thread iss.thr).width ∧ l < 64 ∧ ((s.thread iss.thr).lane l).live = true) ∧ (s.thread iss.thr).seq = none

/-- A transfer: what it names, the register that takes the link, and where a lane goes, none where it falls through
(R91). -/
structure TransferForm where
  g      : BitVec 3
  shape  : Shape
  link   : Option Nat := none
  target : Nat → Option Addr
  never  : Nat → Bool := fun _ => false     -- a lane that may not transfer: `BRA.rj` in a block whose rcv is 0

/-- The target of a relative transfer. -/
def branchTarget (iss : Issue) (f : FB) : Addr := iss.pc + BitVec.ofInt 56 (8 * f.off.toInt)

/-- The condition of `BRU` on a signed value (R92). -/
def bruTaken (cc : BitVec 4) (x : W64) : Bool :=
  match cc.toNat with
  | 0 => decide (x.toInt = 0)
  | 1 => decide (x.toInt ≠ 0)
  | 2 => decide (x.toInt < 0)
  | 3 => decide (x.toInt ≥ 0)
  | 4 => decide (x.toInt ≤ 0)
  | _ => decide (x.toInt > 0)

/-- The rcv field of the header of a lane's block (R32). -/
def rcvOf (x : Lane) : BitVec 12 := x.word.extractLsb' 4 12

/-- The six transfers (R91, R92). -/
def transferTable (s : State) (iss : Issue) : Instr → Option TransferForm
  | .bra f =>
    let lane := (s.thread iss.thr).lane
    some { g := f.g, shape := controlShape s iss f [] []
           target := fun l => some (if f.n = 0 then branchTarget iss f else (lane l).header + BitVec.ofInt 56 (8 * (rcvOf (lane l)).toInt))
           never := fun l => f.n != 0 && rcvOf (lane l) == 0 }
  | .brc f => some { g := f.g, shape := { g := f.g.toNat, msrc := [f.m.toNat] }
                     target := fun l => if (maskReg s iss f.m.toNat).getLsbD l = (f.cc == 0) then some (branchTarget iss f) else none }
  | .bru f => some { g := f.g, shape := controlShape s iss f [f.s.toNat] []
                     target := fun _ => if bruTaken f.cc (scalar s iss f.s.toNat) then some (branchTarget iss f) else none }
  | .brx f => some { g := f.g, shape := controlShape s iss f [f.s.toNat] []
                     target := fun _ => some ((scalar s iss f.s.toNat).setWidth 56) }
  | .ret f => some { g := f.g, shape := controlShape s iss f [f.s.toNat] []
                     target := fun _ => some ((scalar s iss f.s.toNat).setWidth 56) }
  | .call f => some { g := f.g, shape := controlShape s iss f [] [f.s.toNat], link := some f.s.toNat
                      target := fun _ => some (branchTarget iss f) }
  | _ => none

/-- A target that a transfer may take: aligned, fetched, header-shaped (R27, R29, R30). -/
def goodTarget (s : State) (iss : Issue) (a : Addr) : Prop :=
  a.toNat % 8 = 0 ∧ ∃ w : W64, fetch s (s.thread iss.thr) a = .ok w ∧ w.extractLsb' 58 6 = 63

/-- A lane that has taken a transfer stands before the header there. -/
def atTarget (a : Addr) (x : Lane) : Lane := { x with pc := a, need := .start, hold := .none, rewritten := false }

/-- A rejoin register as an instruction reads it: as it stood before the fc, less the lanes that have exited in it (R77,
R95). -/
def joinRead (s : State) (iss : Issue) (j : Nat) : W64 :=
  (sourceRegs s iss).getJ j &&& ~~~((sourceRegs s iss).em &&& ~~~(regsOf s iss).em)

/-- The word after an instruction does not lie in the block of some lane of the group (R28). -/
def lastWord (s : State) (iss : Issue) : Prop :=
  ∃ l, inGroup iss l ∧ 8 * ((s.thread iss.thr).lane l).word.toNat / 2 ^ 48 % 2 ^ 10 < (iss.pc - ((s.thread iss.thr).lane l).header).toNat + 8

/-- A word that `REP` may not repeat under a step mask: it is header-shaped, unassigned, of group 0x0 or `SLI`, or a step
bit names a field that the instruction does not step (R85, R97); `REP` is of group 0x0 itself. -/
def notRepeated (w : W64) (mask : Nat) : Prop :=
  w.extractLsb' 58 6 = 63 ∨ parse w 0 = none ∨ w.extractLsb' 60 4 = 0 ∨ w.extractLsb' 54 10 = 0x05C
    ∨ ∃ i k, parse w 0 = some i ∧ mask.testBit k = true ∧ i.steps.testBit k = false

/-- Every lane of the group stops for one record with a cause and a detail, and nothing else changes that memory or
registers hold (R6, R362). -/
def stopsGroup (s u : State) (iss : Issue) (c : Cause) (d : W64) : Prop :=
  u.mem = s.mem ∧ bare (u.thread iss.thr).regs = bare (regsOf s iss)
    ∧ (u.trap s.fl.next).live = true ∧ (u.trap s.fl.next).cause = c ∧ (u.trap s.fl.next).detail = d
    ∧ (u.trap s.fl.next).pc = iss.pc ∧ (u.trap s.fl.next).thr = iss.thr
    ∧ (∀ l, (u.trap s.fl.next).lanes.testBit l = true ↔ inGroup iss l)
    ∧ ∀ l, l < (s.thread iss.thr).width → (u.thread iss.thr).lane l =
        if iss.lanes.testBit l then { (s.thread iss.thr).lane l with state := .stopped (.record s.fl.next), hold := .none }
        else (s.thread iss.thr).lane l

/-- Every register reads the same. -/
def sameRegs (r q : Regs) : Prop :=
  (∀ n, r.getS n = q.getS n ∧ r.getM n = q.getM n ∧ r.getJ n = q.getJ n) ∧ (∀ n l, r.getV n l = q.getV n l)
    ∧ r.em = q.em ∧ r.fpctl = q.fpctl ∧ r.fpstat = q.fpstat ∧ r.raen = q.raen

/-- Every control instruction with a guard, with its guard and what it names. -/
def guardedTable (s : State) (iss : Issue) : Instr → Option (BitVec 3 × Shape)
  | .bra f | .exit f | .yield f | .sleep f => some (f.g, controlShape s iss f [] [])
  | .bru f | .brx f | .ret f => some (f.g, controlShape s iss f [f.s.toNat] [])
  | .call f => some (f.g, controlShape s iss f [] [f.s.toNat])
  | .brc f => some (f.g, { g := f.g.toNat, msrc := [f.m.toNat] })
  | .enrol f => some (f.g, { g := f.g.toNat, msrc := if f.m = 0 then [] else [f.m.toNat] })
  | .await f | .bar f | .bara f | .barw f => some (f.g, { g := f.g.toNat })
  | _ => none

/-- A barrier instruction: whether a lane waits, and whether it is a .mem form (R100). -/
def barrierTable : Instr → Option (FB × Bool)
  | .bar f | .barw f => some (f, true)
  | .bara f => some (f, false)
  | _ => none

/-- The operation of a barrier instruction, as its held lanes record it. -/
def barrierOp : Instr → Nat
  | .bara _ => 1
  | .barw _ => 2
  | _ => 0

/-- What the completion of a phase makes of a lane; one that waited in a .mem form is held for an acquire (R100). -/
def phaseEnds (next : Nat) (x : Lane) : Lane :=
  if x.live then
    match x.state with
    | .atBarrier true => { x with arrived := false, state := .running, hold := .fence .acq 1 next .done }
    | .atBarrier false => { Lane.advance 8 x with arrived := false, state := .running }
    | _ => { x with arrived := false }
  else x

/-- The warps of a workgroup take the end of a phase one after another, each with what follows. -/
def phaseChain : List Nat → State → State → Prop
  | [], s, t => t = s
  | k :: ks, s, t => ∃ u, (∀ l, l < (s.thread k).width → (u.thread k).lane l = phaseEnds s.fl.next ((s.thread k).lane l))
      ∧ bare (u.thread k).regs = bare (s.thread k).regs ∧ (∀ j, j ≠ k → u.thread j = s.thread j)
      ∧ u.mem = s.mem ∧ phaseChain ks (settle k u) t

/-- An event at thread `k` whose own effect leaves `u`. -/
def settles (i : Instr) (s : State) (k : Nat) (u : State) : Prop := exec i s = .next (settle k u)

/-- The running lanes of a thread that stand at a lane's place and are held as it is. -/
def heldWith (s : State) (thr lane l : Nat) : Prop :=
  let x := (s.thread thr).lane lane
  let y := (s.thread thr).lane l
  y.live = true ∧ y.state = .running ∧ y.pc = x.pc ∧ y.hold = x.hold

/-- A lane of a live thread of an active context runs, and its warp is in no episode. -/
def mayRelease (s : State) (thr lane : Nat) : Prop :=
  (s.thread thr).live = true ∧ (s.ctx (s.thread thr).ctx).active = true ∧ (s.thread thr).episode = none ∧ ((s.thread thr).lane lane).live = true
    ∧ ((s.thread thr).lane lane).state = .running

/-- The counters L, S, C and T of a thread are within the limits of a `WAIT` (R98). -/
def withinLimits (t : Thread) (l s c tt : Nat) : Prop := t.cntL ≤ l ∧ t.cntS ≤ s ∧ t.cntC ≤ c ∧ t.cntT ≤ tt

end Sys2Proof.Claims

section
open Classical
open Sys2Proof Sys2Proof.Machine Sys2Proof.Safety Sys2Proof.Claims

/-- A transfer whose taken lanes all name headers sends each of them there, lets the other lanes of the group fall
through, and for `CALL` writes the link once, when Active(g) is not empty (R91, R92); nothing else changes. -/
def Obligations.TransfersReachTargets : Prop :=
  ∀ (i : Instr) (F : TransferForm) (s : State) (iss : Issue), i.wellFormed = true → transferTable s iss i = some F →
    runsNow F.shape (fun _ _ => true) iss s → plainGroup s iss →
    (∀ l a, acts s iss F.g l → F.target l = some a → F.never l = false ∧ goodTarget s iss a) →
    ∃ u, leaves i s iss.thr u
      ∧ lanesTo iss.thr s u
          (match F.link with
            | some r => if active s iss F.g.toNat = 0 then regsOf s iss else (regsOf s iss).setS r ((iss.pc + 8).setWidth 64)
            | none => regsOf s iss)
          (fun l x => match (if acts s iss F.g l then F.target l else none) with
            | some a => atTarget a x
            | none => if inGroup iss l then Lane.advance 8 x else x)

/-- A transfer whose every taken lane names no header (a `BRA.rj` in a block whose rcv is 0, a misaligned address, or a
word that is not header-shaped) stops those lanes for a BADTARGET record with the target as its detail and leaves the
others as a transfer not taken does (R27, R30, R91); stated for the forms with one target for all lanes. -/
def Obligations.BadTargetTraps : Prop :=
  ∀ (i : Instr) (F : TransferForm) (a : Addr) (s : State) (iss : Issue), i.wellFormed = true → transferTable s iss i = some F →
    runsNow F.shape (fun _ _ => true) iss s → plainGroup s iss → active s iss F.g.toNat ≠ 0 →
    (∀ l, acts s iss F.g l → F.target l = some a) →
    ((∀ l, acts s iss F.g l → F.never l = true) ∨ a.toNat % 8 ≠ 0 ∨ ∃ w : W64, fetch s (s.thread iss.thr) a = .ok w ∧ w.extractLsb' 58 6 ≠ 63) →
    ∃ u, leaves i s iss.thr u ∧ u.mem = s.mem
      ∧ (u.trap s.fl.next).live = true ∧ (u.trap s.fl.next).cause = .badTarget ∧ (u.trap s.fl.next).pc = iss.pc
      ∧ (u.trap s.fl.next).detail = a.setWidth 64 ∧ (u.trap s.fl.next).thr = iss.thr
      ∧ (∀ l, (u.trap s.fl.next).lanes.testBit l = true ↔ acts s iss F.g l)
      ∧ ∀ l, l < (s.thread iss.thr).width → (u.thread iss.thr).lane l =
          if acts s iss F.g l then { (s.thread iss.thr).lane l with state := .stopped (.record s.fl.next), hold := .none }
          else if inGroup iss l then Lane.advance 8 ((s.thread iss.thr).lane l) else (s.thread iss.thr).lane l

/-- With an empty Active(g), a control instruction moves every lane of the group to PC + 8 and does nothing else: no lane
transfers, enrols, waits, sleeps or exits, and no register is written (R88). -/
def Sys2Proof.Claims.EmptyMaskOnlyMovesOn : Prop :=
  ∀ (i : Instr) (g : BitVec 3) (sh : Shape) (s : State) (iss : Issue), i.wellFormed = true → guardedTable s iss i = some (g, sh) →
    runsNow sh (fun _ _ => true) iss s → plainGroup s iss → active s iss g.toNat = 0 → (s.thread iss.thr).engine = .core →
    ∃ u r, leaves i s iss.thr u ∧ sameRegs r (regsOf s iss)
      ∧ lanesTo iss.thr s u r (fun l x => if inGroup iss l then Lane.advance 8 x else x)

/-- `NOP` only moves its group on. -/
def Sys2Proof.Claims.NopOnlyMovesOn : Prop :=
  ∀ (f : FB) (s : State) (iss : Issue), runsNow { engines := ctlEngines } (fun _ _ => true) iss s →
    ∃ u, leaves (.nop f) s iss.thr u ∧ movedOn iss.thr iss.lanes 8 s u ∧ onlyRegs iss.thr s u (regsOf s iss)

/-- `ENROL` adds the lanes of Active(g), or those of them in mask m, to a rejoin register as it stood before the fc and
moves on (R77, R93); with none it writes nothing (R88). `AWAIT`
holds the enrolled lanes of Active(g) and moves the others on (R94). When every enrolled lane waits at an `AWAIT` of
the register, they run on after it and the register is clear (R82). -/
def Sys2Proof.Claims.JoinsHoldAndRelease : Prop :=
  (∀ (f : FB) (s : State) (iss : Issue),
    runsNow { g := f.g.toNat, msrc := if f.m = 0 then [] else [f.m.toNat] } (fun _ _ => true) iss s →
    ∃ u, leaves (.enrol f) s iss.thr u ∧ movedOn iss.thr iss.lanes 8 s u
      ∧ onlyRegs iss.thr s u (if active s iss f.g.toNat = 0 then regsOf s iss
          else (regsOf s iss).setJ f.j.toNat (joinRead s iss f.j.toNat
            ||| BitVec.ofNat 64 (active s iss f.g.toNat &&& (if f.m = 0 then active s iss f.g.toNat else (maskReg s iss f.m.toNat).toNat)))))
  ∧ (∀ (f : FB) (s : State) (iss : Issue), runsNow { g := f.g.toNat } (fun _ _ => true) iss s → plainGroup s iss →
    ∃ u, leaves (.await f) s iss.thr u ∧ lanesTo iss.thr s u (regsOf s iss) fun l x =>
      if acts s iss f.g l ∧ (joinRead s iss f.j.toNat).getLsbD l = true then { x with state := .joining f.j.toNat, hold := .none }
      else if inGroup iss l then Lane.advance 8 x else x)
  ∧ ∀ (thr j : Nat) (s : State), j < 4 → (s.thread thr).live = true → (s.thread thr).episode = none →
    (s.thread thr).regs.getJ j ≠ 0 →
    (∀ l, ((s.thread thr).regs.getJ j).getLsbD l = true → ((s.thread thr).lane l).live = true ∧ ((s.thread thr).lane l).state = .joining j) →
    ∃ u, settles (.joinRelease thr j) s thr u ∧ lanesTo thr s u ((s.thread thr).regs.setJ j 0) fun l x =>
      if ((s.thread thr).regs.getJ j).getLsbD l = true then { Lane.advance 8 x with state := .running } else x

/-- `EXIT` on a core moves the lanes of Active(g) to the exited state, clears their bits in EM and in j0 to j3, and moves
the other lanes of the group on (R95); a steward that exits is gone, and its context has none; a handler that exits is
gone, and the lanes of its record exit with it, which its launch records (R95, R365); a firmware thread that exits is gone
(R423). -/
def Obligations.ExitEndsLanes : Prop :=
  (∀ (f : FB) (s : State) (iss : Issue), runsNow (controlShape s iss f [] []) (fun _ _ => true) iss s → plainGroup s iss →
    (s.thread iss.thr).engine = .core →
    ∃ u r, leaves (.exit f) s iss.thr u
      ∧ lanesTo iss.thr s u r (fun l x =>
          if acts s iss f.g l then { x with state := .exited, hold := .none, need := .none, arrived := false }
          else if inGroup iss l then Lane.advance 8 x else x)
      ∧ r.em = (regsOf s iss).em &&& ~~~(BitVec.ofNat 64 (active s iss f.g.toNat))
      ∧ (∀ j, r.getJ j = if j < 4 then (regsOf s iss).getJ j &&& ~~~(BitVec.ofNat 64 (active s iss f.g.toNat)) else (regsOf s iss).getJ j)
      ∧ { r with em := 0, j := [], lanes := [] } = { regsOf s iss with em := 0, j := [], lanes := [] })
  ∧ (∀ (f : FB) (s : State) (iss : Issue), runsNow (controlShape s iss f [] []) (fun _ _ => true) iss s →
    (s.thread iss.thr).engine = .scc → (s.thread iss.thr).level = .steward →
    ∃ u, leaves (.exit f) s iss.thr u ∧ (u.thread iss.thr).live = false ∧ (u.ctx (s.thread iss.thr).ctx).steward = none)
  ∧ (∀ (f : FB) (s : State) (iss : Issue), runsNow (controlShape s iss f [] []) (fun _ _ => true) iss s →
    (s.thread iss.thr).engine = .scc → (s.thread iss.thr).level = .handler →
    let id := (s.thread iss.thr).record - 1
    let r := s.trap id
    let t := s.thread r.thr
    r.live = true → r.thr ≠ iss.thr → t.live = true → t.engine = .core → t.seq = none →
    ∃ u, leaves (.exit f) s iss.thr u ∧ (u.thread iss.thr).live = false ∧ (u.trap id).live = false
      ∧ (∀ l, l < t.width → (u.thread r.thr).lane l = if r.lanes.testBit l
          then { t.lane l with state := .exited, hold := .none, need := .none, arrived := false } else t.lane l)
      ∧ (u.thread r.thr).regs.em = t.regs.em &&& ~~~(BitVec.ofNat 64 r.lanes)
      ∧ (∀ j, j < 4 → (u.thread r.thr).regs.getJ j = t.regs.getJ j &&& ~~~(BitVec.ofNat 64 r.lanes))
      ∧ (((s.ctx t.ctx).launch t.launch).live = true → ((u.ctx t.ctx).launch t.launch).hexit = true))
  ∧ ∀ (f : FB) (s : State) (iss : Issue), runsNow (controlShape s iss f [] []) (fun _ _ => true) iss s →
    (s.thread iss.thr).engine = .harbour → (s.thread iss.thr).level = .harbour →
    ∃ u, leaves (.exit f) s iss.thr u ∧ (u.thread iss.thr).live = false ∧ (∀ j, j ≠ iss.thr → u.thread j = s.thread j) ∧ u.mem = s.mem

/-- `YIELD` moves its group on and excludes it from issue for 64 fc (R96), which the model counts down from 65 to 1 and
then ends. -/
def Sys2Proof.Claims.YieldExcludesGroup : Prop :=
  (∀ (f : FB) (s : State) (iss : Issue), runsNow (controlShape s iss f [] []) (fun _ _ => true) iss s → plainGroup s iss →
    active s iss f.g.toNat ≠ 0 →
    ∃ u, leaves (.yield f) s iss.thr u ∧ lanesTo iss.thr s u (regsOf s iss) fun l x =>
      if inGroup iss l then { Lane.advance 8 x with excluded := 65 } else x)
  ∧ ∀ (thr lane : Nat) (s : State),
    let group := fun l => let y := (s.thread thr).lane l
      y.live = true ∧ y.state = .running ∧ y.pc = ((s.thread thr).lane lane).pc
    (s.thread thr).width ≤ 64 → (∀ l, l < (s.thread thr).width → group l → ((s.thread thr).lane l).excluded ≤ 1) →
    ∃ u, exec (.yieldExclusionEnd thr lane) s = .next u ∧ lanesTo thr s u (s.thread thr).regs fun l x =>
      if group l then { x with excluded := 0 } else x

/-- `REP` starts a sequence of the instruction after it, with the count, step mask and stride of its word, and moves on
(R85, R97), where that instruction may be repeated; where it is the last word of its block, or the next word may not be
repeated so, its group traps UNDEF. -/
def Obligations.RepStartsSequence : Prop :=
  (∀ (f : FB) (s : State) (iss : Issue),
    runsNow { engines := ctlEngines } (fun iss s => (s.thread iss.thr).seq.isNone) iss s → plainGroup s iss →
    repFail s iss (f.off.toNat / 2 ^ 6 % 16) = none →
    ∃ u, leaves (.rep f) s iss.thr u
      ∧ lanesTo iss.thr s u (regsOf s iss) (fun l x => if inGroup iss l then Lane.advance 8 x else x)
      ∧ (u.thread iss.thr).seq = some { pc := iss.pc + 8, mask := f.off.toNat / 2 ^ 6 % 16, stride := f.off.toNat / 2 ^ 10 % 4 + 1
                                        count := f.off.toNat % 2 ^ 6 + 1, next := 0, lanes := iss.lanes, paused := false })
  ∧ ∀ (f : FB) (s : State) (iss : Issue),
    runsNow { engines := ctlEngines } (fun iss s => (s.thread iss.thr).seq.isNone) iss s → plainGroup s iss → iss.lanes ≠ 0 →
    (lastWord s iss ∨ ¬lastWord s iss ∧ ∃ w, fetch s (s.thread iss.thr) (iss.pc + 8) = .ok w ∧ notRepeated w (f.off.toNat / 2 ^ 6 % 16)) →
    ∃ u, leaves (.rep f) s iss.thr u ∧ stopsGroup s u iss .undef 0

/-- `WAIT` passes when every counter is within its limit and else holds its group until then (R98); t = 0 ends the in-use
time of tensor registers (R301). -/
def Sys2Proof.Claims.WaitHoldsForCounters : Prop :=
  (∀ (f : FB) (s : State) (iss : Issue),
    let l := f.off.toNat / 2 ^ 18 % 64
    let sc := f.off.toNat / 2 ^ 12 % 64
    let c := f.off.toNat / 2 ^ 6 % 64
    let t := f.off.toNat % 64
    runsNow { engines := ctlEngines } (fun _ _ => true) iss s → plainGroup s iss →
    ∃ u, leaves (.wait f) s iss.thr u ∧ others iss.thr s u ∧ bare (u.thread iss.thr).regs = bare (regsOf s iss)
      ∧ (∀ k, k < (s.thread iss.thr).width → (u.thread iss.thr).lane k =
          if inGroup iss k then
            if withinLimits (s.thread iss.thr) l sc c t then Lane.advance 8 ((s.thread iss.thr).lane k)
            else { (s.thread iss.thr).lane k with hold := .counters l sc c t }
          else (s.thread iss.thr).lane k)
      ∧ (u.thread iss.thr).reefUse = if withinLimits (s.thread iss.thr) l sc c t ∧ t = 0 then [] else (s.thread iss.thr).reefUse)
  ∧ ∀ (thr lane l sc c t : Nat) (s : State), mayRelease s thr lane → ((s.thread thr).lane lane).hold = .counters l sc c t →
    (s.thread thr).seq = none → withinLimits (s.thread thr) l sc c t →
    ∃ u, settles (.waitRelease thr lane) s thr u ∧ others thr s u
      ∧ (∀ k, k < (s.thread thr).width → (u.thread thr).lane k =
          if heldWith s thr lane k then Lane.advance 8 ((s.thread thr).lane k) else (s.thread thr).lane k)
      ∧ (u.thread thr).reefUse = if t = 0 then [] else (s.thread thr).reefUse

/-- `SLEEP` puts the lanes of Active(g) to sleep until device time reaches the time at issue plus its count and moves the
others on; a lane whose time has come runs on after its `SLEEP` (R99). -/
def Sys2Proof.Claims.SleepUntilWakeTime : Prop :=
  (∀ (f : FB) (s : State) (iss : Issue), runsNow (controlShape s iss f [] []) (fun _ _ => true) iss s → plainGroup s iss →
    ∃ u, leaves (.sleep f) s iss.thr u ∧ lanesTo iss.thr s u (regsOf s iss) fun l x =>
      if acts s iss f.g l then { x with state := .sleeping (dtOf s (s.thread iss.thr) + f.off.toNat), hold := .none }
      else if inGroup iss l then Lane.advance 8 x else x)
  ∧ ∀ (thr lane wake : Nat) (s : State), ((s.thread thr).lane lane).state = .sleeping wake →
    (s.thread thr).episode = none → wake ≤ dtOf s (s.thread thr) →
    ∃ u, settles (.sleepWake thr lane) s thr u ∧ lanesTo thr s u (s.thread thr).regs fun l x =>
      if l = lane then { Lane.advance 8 x with state := .running } else x

/-- `BAR`, `BARA` and `BARW` make the lanes of Active(g) arrive, a .mem form once its release fence has completed; `BARA`
moves on, the others wait; a lane that has arrived already only waits or moves on; the rest of the group moves on. When
every lane of the workgroup that has not exited has arrived, the phase ends for each of its warps (R100). -/
def Sys2Proof.Claims.BarriersArriveAndRelease : Prop :=
  (∀ (i : Instr) (f : FB) (waits : Bool) (s : State) (iss : Issue), i.wellFormed = true → barrierTable i = some (f, waits) →
    runsNow { g := f.g.toNat } (fun _ _ => true) iss s → plainGroup s iss →
    ∃ u, leaves i s iss.thr u ∧ lanesTo iss.thr s u (regsOf s iss) fun l x =>
      if acts s iss f.g l then
        if x.arrived then (if waits then { x with state := .atBarrier (f.cc == 1), hold := .none } else Lane.advance 8 x)
        else if f.cc = 1 then { x with hold := .fence .rel 1 iss.start (.arrive (barrierOp i) true) }
        else if waits then { x with arrived := true, state := .atBarrier false, hold := .none }
        else { Lane.advance 8 x with arrived := true }
      else if inGroup iss l then Lane.advance 8 x else x)
  ∧ ∀ (w : Nat) (s : State), wgLanes s w ≠ [] → (∀ e ∈ wgLanes s w, e.2.arrived = true) →
    (∀ k ∈ (s.wg w).warps, (s.thread k).episode = none) →
    ∃ t, exec (.barrierPhaseComplete w) s = .next t ∧ phaseChain (s.wg w).warps s t

end

/-- What a control instruction does that transfers nothing: with no active lane, at `NOP`, and at `YIELD` (R88, R96). -/
def Obligations.GroupsMoveOn : Prop :=
  Sys2Proof.Claims.EmptyMaskOnlyMovesOn ∧ Sys2Proof.Claims.NopOnlyMovesOn
    ∧ Sys2Proof.Claims.YieldExcludesGroup

/-- Lanes are held at `AWAIT` and at barriers, and released together (R82, R93, R94, R100). -/
def Obligations.JoinsAndBarriersHold : Prop :=
  Sys2Proof.Claims.JoinsHoldAndRelease ∧ Sys2Proof.Claims.BarriersArriveAndRelease

/-- `WAIT` holds for counters and `SLEEP` for a time, and each ends (R98, R99). -/
def Obligations.WaitsEnd : Prop :=
  Sys2Proof.Claims.WaitHoldsForCounters ∧ Sys2Proof.Claims.SleepUntilWakeTime

namespace Sys2Proof.Claims

open Sys2Proof.Machine Sys2Proof.Safety

/-! ### Numbers -/

/-- The rational number of a finite value. -/
def ratOf : Val → ℚ
  | .fin neg m e => (if neg then -1 else 1) * (m : ℚ) * (2 : ℚ) ^ e
  | _ => 0

/-- The number of a finite code of a format. -/
def isNumber (f : Format) (c : Nat) (q : ℚ) : Prop :=
  c < 2 ^ (f.signBit + 1) ∧ (∃ neg m e, valueOf f c = .fin neg m e) ∧ ratOf (valueOf f c) = q

/-- The formats of R134. -/
def formats : List Format := [fp32, bf16, e4m3, e5m2, e3m2, e2m3]

/-- The exact result of an operation: no number, an infinity, or a rational with the sign that a zero takes. -/
inductive Result
  | nan
  | inf (neg : Bool)
  | num (q : ℚ) (zeroNeg : Bool)

/-- A value as a result. -/
def Result.of : Val → Result
  | .nan _ => .nan
  | .inf neg => .inf neg
  | .fin neg m e => .num (ratOf (.fin neg m e)) neg

/-- What the rounding takes stands for a result. -/
def standsFor : Exact → Result → Prop
  | .nan, .nan => True
  | .inf a, .inf b => a = b
  | .fin neg num den e, .num q z =>
    den ≠ 0 ∧ q = (if neg then -1 else 1) * ((num : ℚ) / (den : ℚ)) * (2 : ℚ) ^ e ∧ (q = 0 → neg = z)
  | _, _ => False

/-- A result multiplied by a power of two. -/
def Result.times (k : Int) : Result → Result
  | .num q z => .num (q * (2 : ℚ) ^ k) z
  | r => r

/-- The sum of results; the second part says that infinities of opposite sign meet (R156). -/
noncomputable def sumOf (mode : Nat) (rs : List Result) : Result × Prop :=
  open Classical in
  let clash := (Result.inf true ∈ rs) ∧ (Result.inf false ∈ rs)
  (if Result.nan ∈ rs ∨ clash then .nan
   else if Result.inf true ∈ rs then .inf true
   else if Result.inf false ∈ rs then .inf false
   else .num (rs.map fun r => match r with | .num q _ => q | _ => 0).sum
     (if ∀ r ∈ rs, r = .num 0 true then true else if ∀ r ∈ rs, r = .num 0 false then false else decide (mode = 3)), clash)

/-- The product of results; the second part says that a zero meets an infinity (R156). -/
def productOf : Result → Result → Result × Prop
  | .nan, _ => (.nan, False)
  | _, .nan => (.nan, False)
  | .inf a, .inf b => (.inf (a != b), False)
  | .inf a, .num q z => if q = 0 then (.nan, True) else (.inf (a != z), False)
  | .num q z, .inf b => if q = 0 then (.nan, True) else (.inf (z != b), False)
  | .num q y, .num r z => (.num (q * r) (y != z), False)

/-- A flag is among flags. -/
def flagged (flags bit : Nat) : Prop := flags.testBit bit = true

/-- A code and its flags are what one rounding and the clamp make of a result, with invalid where `inv` holds (R139 to
R142, R152). -/
def roundsTo (f : Format) (c : Rounding) (cl : BitVec 2) (r : Result) (inv : Prop) (code flags : Nat) : Prop :=
  ∃ E, standsFor E r ∧ code = clampCode f cl (roundTo f c E).1
    ∧ (inv → flags = (roundTo f c E).2 ||| flagNV) ∧ (¬inv → flags = (roundTo f c E).2)

/-- A relation of one FP32 element, or of the two halves of BF16X2, with the flags of both (R135, R152). -/
def onElements (t : Nat) (P : Format → List Nat → Nat → Nat → Prop) (vs : List W32) (o : LaneOut) : Prop :=
  if t = 0 then ∃ c, P fp32 (vs.map BitVec.toNat) c o.flags ∧ o.value = BitVec.ofNat 32 c
  else ∃ lo hi fl fh, P bf16 (vs.map fun v => v.toNat % 2 ^ 16) lo fl ∧ P bf16 (vs.map fun v => v.toNat / 2 ^ 16) hi fh
    ∧ o.value = BitVec.ofNat 32 (lo + hi * 2 ^ 16) ∧ o.flags = fl ||| fh

/-- The value of an operand after flushing and modifiers (R41, R141). -/
def fpOperand (f : Format) (ctl : W32) (n x : BitVec 1) (code : Nat) : Val := valueOf f (operandCode f ctl n x code)

/-- The orders of numbers: infinities beyond every number, −0 below +0 for minimum and maximum. -/
def below (x y : Val) : Prop :=
  match x, y with
  | .inf true, .inf true => False
  | .inf true, .nan _ => False
  | .inf true, _ => True
  | .fin .., .inf false => True
  | .fin a m e, .fin b n g =>
    ratOf (.fin a m e) < ratOf (.fin b n g) ∨ (ratOf (.fin a m e) = ratOf (.fin b n g) ∧ m = 0 ∧ a = true ∧ b = false)
  | _, _ => False

/-- The order and equality of numbers where −0 equals +0. -/
def lessNumber (x y : Val) : Prop :=
  match x, y with
  | .fin a m e, .fin b n g => ratOf (.fin a m e) < ratOf (.fin b n g)
  | x, y => below x y
def sameNumber (x y : Val) : Prop :=
  match x, y with
  | .fin a m e, .fin b n g => ratOf (.fin a m e) = ratOf (.fin b n g)
  | .inf a, .inf b => a = b
  | _, _ => False

/-- Whole numbers by rounding mode (R139). -/
def wholeBy (mode : Nat) (q : ℚ) : Int :=
  match mode with
  | 0 => if q - ⌊q⌋ < 1 / 2 then ⌊q⌋ else if 1 / 2 < q - ⌊q⌋ then ⌊q⌋ + 1 else if ⌊q⌋ % 2 = 0 then ⌊q⌋ else ⌊q⌋ + 1
  | 1 => if q < 0 then ⌈q⌉ else ⌊q⌋
  | 2 => ⌈q⌉
  | _ => ⌊q⌋

/-- Advance of a generator (R143). -/
def advanced (g : W32) : W32 :=
  let a := g ^^^ (g <<< 13)
  let b := a ^^^ (a >>> 17)
  b ^^^ (b <<< 5)

/-- A floating instruction: what it names and what a lane makes of FPCTL, its generator and its sources. -/
structure FloatForm where
  g    : BitVec 3
  d    : BitVec 10
  srcs : List (BitVec 10)
  lane : W32 → W32 → List W32 → LaneOut → Prop

def FloatForm.shape (F : FloatForm) : Shape := { g := F.g.toNat, vsrc := F.srcs.map BitVec.toNat, vdst := [F.d.toNat] }

/-- A form of exact arithmetic on one or two elements of which each is rounded once. -/
def exactFloat (g : BitVec 3) (d : BitVec 10) (srcs : List (BitVec 10)) (t : Nat) (cl : BitVec 2) (sc : Int)
    (op : Format → W32 → List Nat → Result × Prop) : FloatForm :=
  { g, d, srcs, lane := fun ctl gen vs o => o.gen = gen ∧ onElements t (fun f cs code flags =>
      roundsTo f (arith ctl) cl ((op f ctl cs).1.times sc) (op f ctl cs).2 code flags) vs o }

/-- Arithmetic on two operands. -/
def twoFloat (f : FV2) (op : Nat → Result → Result → Result × Prop) : FloatForm :=
  exactFloat f.g f.d [f.a, f.b] f.t.toNat f.cl f.sc.toInt fun fm ctl cs =>
    let x := fpOperand fm ctl f.na f.xa (cs.getD 0 0)
    let y := fpOperand fm ctl f.nb f.xb (cs.getD 1 0)
    let r := op (ctl.toNat % 4) (.of x) (.of y)
    (r.1, r.2 ∨ x.signals = true ∨ y.signals = true)

/-- The negative of a result. -/
def Result.neg : Result → Result
  | .nan => .nan
  | .inf n => .inf !n
  | .num q z => .num (-q) !z

/-- A fused form. -/
noncomputable def fusedFloat (f : FV3) (t : Nat) : FloatForm :=
  exactFloat f.g f.d [f.a, f.b, f.c] t f.cl f.sc.toInt fun fm ctl cs =>
    let x := fpOperand fm ctl f.na f.xa (cs.getD 0 0)
    let y := fpOperand fm ctl f.nb f.xb (cs.getD 1 0)
    let z := fpOperand fm ctl f.nc f.xc (cs.getD 2 0)
    let p := productOf (.of x) (.of y)
    let r := sumOf (ctl.toNat % 4) [p.1, .of z]
    (r.1, p.2 ∨ r.2 ∨ x.signals = true ∨ y.signals = true ∨ z.signals = true)

/-- The exact arithmetic forms (R155, R156, R161, R162). -/
noncomputable def arithmeticTable : Instr → Option FloatForm
  | .vfadd f => some (twoFloat f fun m x y => sumOf m [x, y])
  | .vfsub f => some (twoFloat f fun m x y => sumOf m [x, y.neg])
  | .vfmul f => some (twoFloat f fun _ x y => productOf x y)
  | .vfmaF32 f => some (fusedFloat f 0)
  | .vfmaBf16x2 f => some (fusedFloat f 1)
  | .vfdot2 f => some (exactFloat f.g f.d [f.a, f.b, f.c] 0 f.cl f.sc.toInt fun _ ctl cs =>
      let half := fun n x i h => fpOperand bf16 ctl n x (cs.getD i 0 / 2 ^ (16 * h) % 2 ^ 16)
      let z := fpOperand fp32 ctl f.nc f.xc (cs.getD 2 0)
      let lo := productOf (.of (half f.na f.xa 0 0)) (.of (half f.nb f.xb 1 0))
      let hi := productOf (.of (half f.na f.xa 0 1)) (.of (half f.nb f.xb 1 1))
      let r := sumOf (ctl.toNat % 4) [lo.1, hi.1, .of z]
      (r.1, lo.2 ∨ hi.2 ∨ r.2 ∨ ∃ v ∈ [half f.na f.xa 0 0, half f.nb f.xb 1 0, half f.na f.xa 0 1, half f.nb f.xb 1 1, z], v.signals = true))
  | .vfldx f => some (exactFloat f.g f.d [f.a, f.b] f.t.toNat f.cl f.sc.toInt fun fm ctl cs =>
      let x := fpOperand fm ctl f.na f.xa (cs.getD 0 0)
      let n := if f.t = 0 then (BitVec.ofNat 32 (cs.getD 1 0)).toInt else (BitVec.ofNat 16 (cs.getD 1 0)).toInt
      ((Result.of x).times n, x.signals = true))
  | _ => none

/-- The minimum and maximum of two operand codes (R157). -/
def chosen (larger prop : Bool) (f : Format) (x y code flags : Nat) : Prop :=
  let vx := valueOf f x
  let vy := valueOf f y
  (flags = if vx.signals || vy.signals then flagNV else 0)
    ∧ (if (vx.isNan && vy.isNan) || (prop && (vx.isNan || vy.isNan)) then code = f.nanCode
       else if vx.isNan then code = y else if vy.isNan then code = x
       else (code = x ∨ code = y) ∧ ∀ v, v = x ∨ v = y →
         if larger then ¬below (valueOf f code) (valueOf f v) else ¬below (valueOf f v) (valueOf f code))

/-- A minimum or maximum form. -/
def chooseForm (f : FV2) (larger prop : Bool) : FloatForm :=
  { g := f.g, d := f.d, srcs := [f.a, f.b]
    lane := fun ctl gen vs o => o.gen = gen ∧ onElements f.t.toNat (fun fm cs code flags =>
      ∃ c, chosen larger prop fm (operandCode fm ctl f.na f.xa (cs.getD 0 0)) (operandCode fm ctl f.nb f.xb (cs.getD 1 0)) c flags
        ∧ code = clampCode fm f.cl c) vs o }

/-- The class of an element (R159). -/
def classOf (f : Format) (code : Nat) : Nat :=
  match valueOf f code with
  | .inf true => 0
  | .inf false => 7
  | .nan false => 8
  | .nan true => 9
  | .fin neg m e =>
    if m = 0 then (if neg then 3 else 4)
    else if |ratOf (.fin neg m e)| < (2 : ℚ) ^ f.emin then (if neg then 2 else 5) else (if neg then 1 else 6)

/-- Minimum, maximum, class and rounding to an integral value (R157, R159, R160). -/
def selectTable : Instr → Option FloatForm
  | .vfmin f => some (chooseForm f false false)
  | .vfmax f => some (chooseForm f true false)
  | .vfminm f => some (chooseForm f false true)
  | .vfmaxm f => some (chooseForm f true true)
  | .vfclass f => some { g := f.g, d := f.d, srcs := [f.a]
                         lane := fun _ gen vs o => o.gen = gen ∧ onElements f.t.toNat (fun fm cs code flags =>
                           code = 2 ^ classOf fm (cs.getD 0 0) ∧ flags = 0) vs o }
  | .vfrnd f => some { g := f.g, d := f.d, srcs := [f.a]
                       lane := fun ctl gen vs o => o.gen = gen ∧ onElements f.t.toNat (fun fm cs code flags =>
                         let a := operandCode fm ctl f.na f.xa (cs.getD 0 0)
                         let mode := if f.b = 0 then ctl.toNat % 4 else f.b.toNat - 1
                         match valueOf fm a with
                         | .nan quiet => code = clampCode fm f.cl fm.nanCode ∧ flags = if quiet then 0 else flagNV
                         | .inf _ => code = clampCode fm f.cl a ∧ flags = 0
                         | v => flags = 0 ∧ ∃ c, code = clampCode fm f.cl c ∧ isNumber fm c (wholeBy mode (ratOf v))
                             ∧ (wholeBy mode (ratOf v) = 0 → c.testBit fm.signBit = a.testBit fm.signBit)) vs o }
  | _ => none

/-- The result of a special function where R164 lists it or it is rational: the result, and the flag it raises. -/
def specialResult (k : Nat) (v : Val) : Option (Result × Nat) :=
  match k, v with
  | _, .nan quiet => some (.nan, if quiet then 0 else flagNV)
  | 0, .inf neg => some (.num 0 neg, 0)
  | 0, .fin neg m e => if m = 0 then some (.inf neg, flagDZ) else some (.num (1 / ratOf (.fin neg m e)) false, 0)
  | 1, .inf neg => if neg then some (.nan, flagNV) else some (.num 0 false, 0)
  | 1, .fin neg m _ => if m = 0 then some (.inf neg, flagDZ) else if neg then some (.nan, flagNV) else none
  | 2, .inf neg => if neg then some (.nan, flagNV) else some (.inf false, 0)
  | 2, .fin neg m _ => if m = 0 then some (.num 0 neg, 0) else if neg then some (.nan, flagNV) else none
  | 3, .inf neg => some (if neg then .num 0 false else .inf false, 0)
  | 3, .fin neg m e =>
    let q := ratOf (.fin neg m e)
    if q.den = 1 ∧ -149 ≤ q ∧ q ≤ 127 then some (.num ((2 : ℚ) ^ q.num) false, 0) else none
  | 4, .inf neg => if neg then some (.nan, flagNV) else some (.inf false, 0)
  | 4, .fin neg m e =>
    if m = 0 then some (.inf true, flagDZ) else if neg then some (.nan, flagNV)
    else if ratOf (.fin neg m e) = (2 : ℚ) ^ ((Nat.log2 m : Int) + e) then some (.num (((Nat.log2 m : Int) + e : Int) : ℚ) false, 0) else none
  | 5, .inf _ => some (.nan, flagNV)
  | 5, .fin neg m e =>
    let x := ratOf (.fin neg m e)
    if (2 * x).den = 1 then some (.num 0 neg, 0)
    else if (x - 1 / 4).den = 1 then some (.num 1 false, 0) else if (x - 3 / 4).den = 1 then some (.num (-1) false, 0) else none
  | 6, .inf _ => some (.nan, flagNV)
  | 6, .fin neg m e =>
    let x := ratOf (.fin neg m e)
    if x.den = 1 then some (.num 1 false, 0) else if (x - 1 / 2).den = 1 then some (.num (-1) false, 0)
    else if (2 * x - 1 / 2).den = 1 then some (.num 0 false, 0) else none
  | _, .inf neg => some (.num (if neg then -1 else 1) false, 0)
  | _, .fin neg m _ => if m = 0 then some (.num 0 neg, 0) else none

/-- A special function of FP32: the listed result where there is one; else a square root or inverse square root of the
operand, or another function's value, rounded once. -/
def specialForm (f : FV2) (k : Nat) : FloatForm :=
  { g := f.g, d := f.d, srcs := [f.a]
    lane := fun ctl gen vs o => o.gen = gen ∧
      let v := fpOperand fp32 ctl f.na f.xa (vs.getD 0 0).toNat
      match specialResult k v with
      | some (r, fl) => ∃ E, standsFor E r ∧ o.value = BitVec.ofNat 32 (clampCode fp32 f.cl (roundTo fp32 (arith ctl) E).1)
          ∧ o.flags = (roundTo fp32 (arith ctl) E).2 ||| fl
      | none => ∃ neg num den e, den ≠ 0
          ∧ o.value = BitVec.ofNat 32 (clampCode fp32 f.cl (roundTo fp32 (arith ctl) (.fin neg num den e)).1)
          ∧ o.flags = (roundTo fp32 (arith ctl) (.fin neg num den e)).2 }

/-- The special functions (R163, R164). -/
def specialTable : Instr → Option FloatForm
  | .vrcp f => some (specialForm f 0)
  | .vrsq f => some (specialForm f 1)
  | .vsqrt f => some (specialForm f 2)
  | .vexp2 f => some (specialForm f 3)
  | .vlog2 f => some (specialForm f 4)
  | .vsin f => some (specialForm f 5)
  | .vcos f => some (specialForm f 6)
  | .vtanh f => some (specialForm f 7)
  | _ => none

/-- The narrow formats by their codes in `VSCL`, `VQNT`, `VDQNT` and, less 8 or 12, in `VCVT` (R165, R167). -/
def narrowOf (k : Nat) : Format := [e4m3, e5m2, e3m2, e2m3].getD k e2m3

/-- The generator after a conversion of `n` elements, and the 24 bits drawn for element `i` (R144). -/
def genAfter (ctl : W32) (n : Nat) (g : W32) : W32 := if ctl.getLsbD 4 then advanced^[n] g else g
def drawOf (ctl : W32) (i : Nat) (g : W32) : Option Nat := if ctl.getLsbD 4 then some ((advanced^[i + 1] g).toNat / 2 ^ 8) else none

/-- An integer from a value: rounded by the mode and held to a range (R166). -/
def toRange (mode : Nat) (lo hi : Int) (v : Val) (x : Int) (flags : Nat) : Prop :=
  match v with
  | .nan _ => x = 0 ∧ flags = flagNV
  | .inf neg => x = (if neg then lo else hi) ∧ flags = flagNV
  | v =>
    let n := wholeBy mode (ratOf v)
    x = max lo (min n hi) ∧ flags = if n < lo ∨ hi < n then flagNV else if (n : ℚ) = ratOf v then 0 else flagNX

/-- `VCVT` by its t code (R144, R165, R166). -/
def convertForm (f : FV2) : FloatForm :=
  { g := f.g, d := f.d, srcs := if f.t = 0 then [f.a, f.b] else [f.a]
    lane := fun ctl gen vs o =>
      let a := vs.getD 0 0
      let x := fpOperand fp32 ctl f.na f.xa a.toNat
      let y := fpOperand fp32 ctl f.nb f.xb (vs.getD 1 0).toNat
      let wide := fun (r : Result) (inv : Prop) => o.gen = gen ∧ ∃ c,
        roundsTo fp32 (arith ctl) f.cl (r.times f.sc.toInt) inv c o.flags ∧ o.value = BitVec.ofNat 32 c
      let whole := fun mode lo hi => o.gen = gen ∧ ∃ n, toRange mode lo hi x n o.flags ∧ o.value = BitVec.ofInt 32 n
      match f.t.toNat with
      | 0x0 => o.gen = genAfter ctl 2 gen ∧ ∃ lo hi fl fh, o.value = BitVec.ofNat 32 (lo + hi * 2 ^ 16) ∧ o.flags = fl ||| fh
          ∧ roundsTo bf16 (converting ctl (drawOf ctl 0 gen)) f.cl ((Result.of x).times f.sc.toInt) (x.signals = true) lo fl
          ∧ roundsTo bf16 (converting ctl (drawOf ctl 1 gen)) f.cl ((Result.of y).times f.sc.toInt) (y.signals = true) hi fh
      | 0x1 => let h := fpOperand bf16 ctl f.na f.xa (a.toNat % 2 ^ 16); wide (.of h) (h.signals = true)
      | 0x2 => let h := fpOperand bf16 ctl f.na f.xa (a.toNat / 2 ^ 16); wide (.of h) (h.signals = true)
      | 0x3 => whole (ctl.toNat % 4) (-2 ^ 31) (2 ^ 31 - 1)
      | 0x4 => whole (ctl.toNat % 4) 0 (2 ^ 32 - 1)
      | 0x5 => wide (.num a.toInt false) False
      | 0x6 => wide (.num a.toNat false) False
      | 0x7 => whole 1 (-2 ^ 31) (2 ^ 31 - 1)
      | 0x8 | 0x9 | 0xA | 0xB => o.gen = genAfter ctl 1 gen ∧ ∃ c, o.value = BitVec.ofNat 32 c
          ∧ roundsTo (narrowOf (f.t.toNat - 8)) (converting ctl (drawOf ctl 0 gen)) 0 ((Result.of x).times f.sc.toInt) (x.signals = true) c o.flags
      | k => let fm := narrowOf (k - 12); wide (.of (valueOf fm (a.toNat % 2 ^ (fm.signBit + 1)))) False }

/-- The number of an E8F2 scale; none for a NaN (R137). -/
def scaleNumber (c : Nat) : Option ℚ :=
  let e := c / 4 % 256
  if e = 255 then none else some ((2 : ℚ) ^ ((e : Int) - 127) * (1 + (c % 4 : Nat) / 4))

/-- Conversions, scaling, packing and draws that write one result per lane (R165 to R171). -/
def conversionTable : Instr → Option FloatForm
  | .vcvt f => some (convertForm f)
  | .vqnt f => some { g := f.g, d := f.d, srcs := [f.a, f.b]
                      lane := fun ctl gen vs o =>
                        let fm := narrowOf f.t.toNat
                        let x := fpOperand fp32 ctl f.na f.xa (vs.getD 0 0).toNat
                        o.gen = genAfter ctl 1 gen ∧ match scaleNumber ((vs.getD 1 0).toNat % 2 ^ 10) with
                          | none => o.value = BitVec.ofNat 32 (if fm.nan.isSome then 0x7F else 0x1F) ∧ o.flags = if fm.nan.isSome then 0 else flagNV
                          | some s => ∃ c, o.value = BitVec.ofNat 32 c ∧ roundsTo fm (converting ctl (drawOf ctl 0 gen)) 0
                              (match Result.of x with | .num q z => .num (q / s) z | r => r) (x.signals = true) c o.flags }
  | .vdqnt f => some { g := f.g, d := f.d, srcs := [f.a, f.b]
                       lane := fun ctl gen vs o =>
                         let fm := narrowOf f.t.toNat
                         let x := valueOf fm ((vs.getD 0 0).toNat % 2 ^ (fm.signBit + 1))
                         o.gen = gen ∧ ∃ c, o.value = BitVec.ofNat 32 c ∧ roundsTo fp32 (arith ctl) f.cl
                           (match scaleNumber ((vs.getD 1 0).toNat % 2 ^ 10), Result.of x with
                             | none, _ => .nan
                             | some s, .num q z => .num (q * s * (2 : ℚ) ^ f.sc.toInt) z
                             | some _, r => r) False c o.flags }
  | .vrand f => some { g := f.g, d := f.d, srcs := []
                       lane := fun _ gen _ o => o.gen = advanced gen ∧ o.flags = 0 ∧
                         if f.t = 0 then o.value = advanced gen
                         else isNumber fp32 o.value.toNat (((advanced gen).toNat / 2 ^ 8 : Nat) / 2 ^ 24) }
  | _ => none

/-- The registers and lanes after a floating instruction with no trap enabled: d takes the values in the lanes of
Active(g), their flags are merged into FPSTAT by OR, their generators stand as the lanes leave them (R144, R147, R152). -/
def floatLeaves (i : Instr) (F : FloatForm) (s : State) (iss : Issue) : Prop :=
  open Classical in
  let sh := F.shape
  ∃ (u : State) (out : Nat → LaneOut), leaves i s iss.thr u
    ∧ (∀ l ∈ activeLanes s iss sh, F.lane (sourceRegs s iss).fpctl ((s.thread iss.thr).lane l).gen (sourceValues s iss sh l) (out l))
    ∧ lanesTo iss.thr s u
        { (regsOf s iss).setLanes F.d.toNat ((activeLanes s iss sh).map fun l => (l, (out l).value)) with
          fpstat := (regsOf s iss).fpstat ||| BitVec.ofNat 32 (((activeLanes s iss sh).map fun l => (out l).flags).foldl (· ||| ·) 0) }
        (fun l x =>
          let y := if l ∈ activeLanes s iss sh then { x with gen := (out l).gen } else x
          if inGroup iss l then Lane.advance 8 y else y)

/-- A floating instruction is about to issue with no trap enabled in FPCTL and no poisoned operand. -/
def floatRuns (sh : Shape) (s : State) (iss : Issue) : Prop :=
  runsNow sh (fun _ _ => true) iss s ∧ calm s iss sh ∧ plainGroup s iss ∧ (sourceRegs s iss).fpctl.toNat / 2 ^ 8 % 2 ^ 5 = 0

/-- A node `r` of the tree of `VFRED` from its children: an empty child passes the other on; two patterns are added and
rounded once, or the smaller or larger is chosen, in each element, with the flags of that (R129, R130). -/
def nodeJoins (t : Nat) (ctl : W32) (p q r : Option W32) (flags : Nat) : Prop :=
  match p, q with
  | none, _ => r = q ∧ flags = 0
  | _, none => r = p ∧ flags = 0
  | some x, some y => ∃ v, r = some v ∧ onElements (if t = 1 then 1 else 0) (fun fm cs code fl =>
      let a := cs.getD 0 0
      let b := cs.getD 1 0
      let sum := sumOf (ctl.toNat % 4) [.of (valueOf fm a), .of (valueOf fm b)]
      if t = 2 then chosen false false fm a b code fl
      else if t = 3 then chosen true false fm a b code fl
      else roundsTo fm (arith ctl) 0 sum.1 (sum.2 ∨ (valueOf fm a).signals = true ∨ (valueOf fm b).signals = true) code fl)
      [x, y] { value := v, flags, gen := 0 }

/-- A number rounded by a mode with the format's precision and an unbounded exponent range (R141). -/
noncomputable def unbounded (f : Format) (mode : Nat) (x : ℚ) : ℚ :=
  (wholeBy mode (x / (2 : ℚ) ^ (Int.log 2 |x| - f.mbits)) : ℚ) * (2 : ℚ) ^ (Int.log 2 |x| - f.mbits)

/-- The result is tiny: so rounded, it lies below the smallest normal value (R141). -/
def tinyBy (f : Format) (mode : Nat) (x : ℚ) : Prop := |unbounded f mode x| < (2 : ℚ) ^ f.emin

/-- The code of a zero of a sign. -/
def zeroOf (f : Format) (neg : Bool) : Nat := if neg then 2 ^ f.signBit else 0

/-- The real value of a transcendental function of R164. -/
noncomputable def realFunction (k : Nat) (x : ℝ) : ℝ :=
  match k with
  | 3 => (2 : ℝ) ^ x
  | 4 => Real.logb 2 x
  | 5 => Real.sin (2 * Real.pi * x)
  | 6 => Real.cos (2 * Real.pi * x)
  | _ => Real.tanh x

/-- The instruction of each transcendental function. -/
def transcendental (k : Nat) (f : FV2) : Instr :=
  match k with
  | 3 => .vexp2 f
  | 4 => .vlog2 f
  | 5 => .vsin f
  | 6 => .vcos f
  | _ => .vtanh f

/-- The operand is one for which the function has a value, and the model's evaluation of it ends. -/
def evaluates (k : Nat) (v : Val) : Prop :=
  (∃ neg m e, v = .fin neg m e ∧ m ≠ 0 ∧ (k = 4 → neg = false)) ∧ ∃ neg num den e, (specialFn k v).1 = .fin neg num den e ∧ num ≠ 0

/-- The block of 32 of a lane (R167). -/
def sameBlock (l : Nat) (A : List Nat) : List Nat := A.filter fun j => j / 32 == l / 32

end Sys2Proof.Claims

section
open Classical
open Sys2Proof Sys2Proof.Machine Sys2Proof.Safety Sys2Proof.Claims

/-- Rounding (R139, R141): where nothing overflows, the code is a number of the format, the nearest with ties to the even
mantissa, or the nearest of no greater magnitude, from above or from below, and inexact is raised exactly when it differs. -/
def Sys2Proof.Claims.RoundingIsByMode : Prop :=
  ∀ f ∈ formats, ∀ (mode : Nat) (neg : Bool) (num den : Nat) (e : Int) (code flags : Nat), mode < 4 → num ≠ 0 → den ≠ 0 →
    roundTo f { mode } (.fin neg num den e) = (code, flags) → ¬flagged flags 2 →
    let x : ℚ := (if neg then -1 else 1) * ((num : ℚ) / (den : ℚ)) * (2 : ℚ) ^ e
    ∃ v, isNumber f code v ∧ (flagged flags 4 ↔ v ≠ x) ∧ code.testBit f.signBit = neg
      ∧ ∀ c w, isNumber f c w →
        (mode = 0 → |v - x| ≤ |w - x| ∧ (w ≠ v → |v - x| = |w - x| → code % 2 = 0))
        ∧ (mode = 1 → |v| ≤ |x| ∧ (|w| ≤ |x| → 0 ≤ w * x → |w| ≤ |v|))
        ∧ (mode = 2 → x ≤ v ∧ (x ≤ w → v ≤ w))
        ∧ (mode = 3 → v ≤ x ∧ (w ≤ x → w ≤ v))

/-- Overflow (R140): where the rounded magnitude passes the largest finite value, overflow and inexact are raised and the
code is the largest finite value of its sign under saturation, in FP6, or rounding towards zero; else the infinity of its
sign, or for E4M3 the canonical NaN. -/
def Sys2Proof.Claims.OverflowTakesTableValue : Prop :=
  ∀ f ∈ formats, ∀ (c : Rounding) (neg : Bool) (num den : Nat) (e : Int) (code flags : Nat), c.mode < 4 → num ≠ 0 → den ≠ 0 →
    c.draw = none → roundTo f c (.fin neg num den e) = (code, flags) → flagged flags 2 →
    let away := c.mode = 0 ∨ (c.mode = 2 ∧ neg = false) ∨ (c.mode = 3 ∧ neg = true)
    flags = 4 + 16 ∧ code =
      if c.sat = true ∨ f = e3m2 ∨ f = e2m3 ∨ ¬away then f.top + (if neg then 2 ^ f.signBit else 0)
      else if f = e4m3 then 0x7F else (2 ^ f.ebits - 1) * 2 ^ f.mbits + (if neg then 2 ^ f.signBit else 0)

/-- Underflow and FTZ (R141): an inexact result that is tiny raises underflow, and no other does; under FTZ a tiny result in
FP32 or BF16 becomes zero of its sign with underflow and inexact, a subnormal operand there reads as zero of its sign, and
nothing else changes. -/
def Sys2Proof.Claims.UnderflowAndFlush : Prop :=
  (∀ f ∈ formats, ∀ (mode : Nat) (neg : Bool) (num den : Nat) (e : Int) (code flags : Nat), mode < 4 → num ≠ 0 → den ≠ 0 →
    roundTo f { mode } (.fin neg num den e) = (code, flags) →
    let x : ℚ := (if neg then -1 else 1) * ((num : ℚ) / (den : ℚ)) * (2 : ℚ) ^ e
    (flagged flags 3 ↔ flagged flags 4 ∧ tinyBy f mode x)
    ∧ roundTo f { mode, ftz := true } (.fin neg num den e)
        = if (f = fp32 ∨ f = bf16) ∧ tinyBy f mode x then (zeroOf f neg, 8 + 16) else (code, flags))
  ∧ ∀ f ∈ formats, ∀ (ctl : W32) (code : Nat), code < 2 ^ (f.signBit + 1) →
    operandCode f ctl 0 0 code =
      if ctl.getLsbD 2 = true ∧ (f = fp32 ∨ f = bf16) ∧ (∃ neg m e, valueOf f code = .fin neg m e ∧ |ratOf (.fin neg m e)| < (2 : ℚ) ^ f.emin)
      then zeroOf f (code.testBit f.signBit) else code

/-- The stochastic draw (R144): a number that the format does not have becomes its neighbour away from zero when the 24
bits drawn lie below its place between its neighbours, and else the one towards zero, which is inexact, and underflow where
that is subnormal; beyond the largest value it overflows as under RNE. -/
def Sys2Proof.Claims.StochasticDraw : Prop :=
  ∀ f ∈ formats, ∀ (mode g : Nat) (sat neg : Bool) (num den : Nat) (e : Int) (code flags : Nat), g < 2 ^ 24 → num ≠ 0 → den ≠ 0 →
    roundTo f { mode, sat, draw := some g } (.fin neg num den e) = (code, flags) →
    let x : ℚ := (num : ℚ) / (den : ℚ) * (2 : ℚ) ^ e
    let unit : ℚ := (2 : ℚ) ^ (max (Int.log 2 x) f.emin - f.mbits)
    let n : Int := ⌊x / unit⌋
    let q : Int := ⌊(x / unit - n) * 2 ^ 24⌋
    let y : ℚ := (if (g : Int) < q then n + 1 else n : Int) * unit
    let top : ℚ := ratOf (valueOf f f.top)
    (top < y → flags = 4 + 16 ∧ code =
      if sat = true ∨ f = e3m2 ∨ f = e2m3 then f.top + zeroOf f neg
      else if f = e4m3 then 0x7F else (2 ^ f.ebits - 1) * 2 ^ f.mbits + zeroOf f neg)
    ∧ (y ≤ top → isNumber f code (if neg then -y else y) ∧ code.testBit f.signBit = neg
        ∧ flags = if x = n * unit then 0 else 16 + if y < (2 : ℚ) ^ f.emin then 8 else 0)

/-- Additions, products, fused forms and exponent scaling round the exact result of their operands once, with the zero
signs, NaNs and flags of R156 (R155, R156, R161, R162). -/
def Obligations.FloatArithmetic : Prop :=
  ∀ (i : Instr) (F : FloatForm) (s : State) (iss : Issue), i.wellFormed = true → arithmeticTable i = some F →
    floatRuns F.shape s iss → floatLeaves i F s iss

/-- Minimum and maximum, classification and rounding to an integral value (R157, R159, R160). -/
def Sys2Proof.Claims.FloatSelection : Prop :=
  ∀ (i : Instr) (F : FloatForm) (s : State) (iss : Issue), i.wellFormed = true → selectTable i = some F →
    floatRuns F.shape s iss → floatLeaves i F s iss

/-- The special functions give the listed results and flags for special operands, for a reciprocal always and for exact
cases, and else one rounding (R163, R164). -/
def Sys2Proof.Claims.SpecialFunctions : Prop :=
  ∀ (i : Instr) (F : FloatForm) (s : State) (iss : Issue), i.wellFormed = true → specialTable i = some F →
    floatRuns F.shape s iss → floatLeaves i F s iss

/-- Under RNE, `VEXP2`, `VLOG2`, `VSIN`, `VCOS` and `VTANH` of a number give, where the result does not overflow, the FP32
number nearest to the real value of the function, sine and cosine in turns (R139, R163, R164). -/
def Obligations.TranscendentalsAreNearest : Prop :=
  ∀ (k : Nat) (f : FV2) (s : State) (iss : Issue), 3 ≤ k → k ≤ 7 →
    let sh : Shape := { g := f.g.toNat, vsrc := [f.a.toNat], vdst := [f.d.toNat] }
    let x := fun l => fpOperand fp32 (sourceRegs s iss).fpctl f.na f.xa (operand s iss sh 0 l).toNat
    let y := fun l => realFunction k (ratOf (x l) : ℝ)
    floatRuns sh s iss → f.cl = 0 → (sourceRegs s iss).fpctl.toNat % 8 = 0 →
    (∀ l ∈ activeLanes s iss sh, evaluates k (x l)) →
    ∃ (u : State) (o : Nat → W32), leaves (transcendental k f) s iss.thr u
      ∧ (∀ l ∈ activeLanes s iss sh, (u.thread iss.thr).regs.getV f.d.toNat l = o l)
      ∧ ∀ l ∈ activeLanes s iss sh, |y l| < 2 ^ 127 →
          ∃ v, isNumber fp32 (o l).toNat v ∧ ∀ c w, isNumber fp32 c w → |(v : ℝ) - y l| ≤ |(w : ℝ) - y l|

/-- Under RNE, `VSQRT` and `VRSQ` of a positive number give the FP32 number nearest to the root and to its inverse: the
midpoint between it and any other number lies on the other's side (R139, R163). -/
def Sys2Proof.Claims.RootsAreNearest : Prop :=
  ∀ (f : FV2) (inverse : Bool) (s : State) (iss : Issue),
    let sh : Shape := { g := f.g.toNat, vsrc := [f.a.toNat], vdst := [f.d.toNat] }
    let x := fun l => fpOperand fp32 (sourceRegs s iss).fpctl f.na f.xa (operand s iss sh 0 l).toNat
    floatRuns sh s iss → f.cl = 0 → (sourceRegs s iss).fpctl.toNat % 4 = 0 →
    (∀ l ∈ activeLanes s iss sh, ∃ m e, x l = .fin false m e ∧ m ≠ 0) →
    ∃ (u : State) (o : Nat → W32), leaves (if inverse then .vrsq f else .vsqrt f) s iss.thr u
      ∧ (∀ l ∈ activeLanes s iss sh, (u.thread iss.thr).regs.getV f.d.toNat l = o l)
      ∧ ∀ l ∈ activeLanes s iss sh, ∃ v, isNumber fp32 (o l).toNat v ∧ 0 < v ∧ ∀ c w, isNumber fp32 c w → 0 ≤ w →
          let mid := (v + w) / 2
          if inverse then (w < v → mid ^ 2 * ratOf (x l) ≤ 1) ∧ (v < w → 1 ≤ mid ^ 2 * ratOf (x l))
          else (w < v → mid ^ 2 ≤ ratOf (x l)) ∧ (v < w → ratOf (x l) ≤ mid ^ 2)

/-- Conversions, quantisation, dequantisation and random draws, with the generator's advance (R143, R144, R165, R166, R168,
R169, R171). -/
def Sys2Proof.Claims.FloatConversions : Prop :=
  ∀ (i : Instr) (F : FloatForm) (s : State) (iss : Issue), i.wellFormed = true → conversionTable i = some F →
    floatRuns F.shape s iss → floatLeaves i F s iss

/-- `VFCMP` writes the mask bits of Active(g) by its condition, −0 equal to +0, and raises invalid for a signalling NaN and,
under .lt, .le, .gt and .ge, for any NaN (R158). -/
def Sys2Proof.Claims.FloatCompare : Prop :=
  ∀ (f : FV2) (s : State) (iss : Issue),
    let sh : Shape := { g := f.g.toNat, vsrc := [f.a.toNat, f.b.toNat], mdst := [f.d.toNat] }
    let x := fun l => fpOperand fp32 (sourceRegs s iss).fpctl f.na f.xa (operand s iss sh 0 l).toNat
    let y := fun l => fpOperand fp32 (sourceRegs s iss).fpctl f.nb f.xb (operand s iss sh 1 l).toNat
    let unordered := fun l => (x l).isNan = true ∨ (y l).isNan = true
    let invalid := fun l => (x l).signals = true ∨ (y l).signals = true ∨ (unordered l ∧ 2 ≤ f.t.toNat ∧ f.t.toNat ≤ 5)
    (Instr.vfcmp f).wellFormed = true → floatRuns sh s iss →
    ∃ u r, leaves (.vfcmp f) s iss.thr u
      ∧ maskAfter s iss sh f.d.toNat (fun l =>
          if f.t = 0 then ¬unordered l ∧ sameNumber (x l) (y l)
          else if f.t = 1 then unordered l ∨ ¬sameNumber (x l) (y l)
          else if f.t = 2 then ¬unordered l ∧ lessNumber (x l) (y l)
          else if f.t = 3 then ¬unordered l ∧ ¬lessNumber (y l) (x l)
          else if f.t = 4 then ¬unordered l ∧ lessNumber (y l) (x l)
          else if f.t = 5 then ¬unordered l ∧ ¬lessNumber (x l) (y l)
          else if f.t = 6 then unordered l else ¬unordered l) r
      ∧ lanesTo iss.thr s u
          { r with fpstat := (regsOf s iss).fpstat ||| if ∃ l ∈ activeLanes s iss sh, invalid l then 1 else 0 }
          (fun l z => if inGroup iss l then Lane.advance 8 z else z)

/-- `VFRED` writes the root of a fixed tree over the active lanes into each of them and merges every node's flags: each
node joins two neighbours of the level below (R129, R130). -/
def Sys2Proof.Claims.FloatReductionTree : Prop :=
  ∀ (f : FV2) (s : State) (iss : Issue),
    let sh : Shape := { g := f.g.toNat, vsrc := [f.a.toNat], vdst := [f.d.toNat], wide := true }
    let ctl := (sourceRegs s iss).fpctl
    let code := fun l => if f.t = 1 then
        operandCode bf16 ctl f.na f.xa ((operand s iss sh 0 l).toNat % 2 ^ 16)
          + operandCode bf16 ctl f.na f.xa ((operand s iss sh 0 l).toNat / 2 ^ 16) * 2 ^ 16
      else operandCode fp32 ctl f.na f.xa (operand s iss sh 0 l).toNat
    let leaf := fun l => if l < (s.thread iss.thr).width ∧ l ∈ activeLanes s iss sh then some (BitVec.ofNat 32 (code l)) else none
    let value := fun (root : W32) =>
      if f.t = 1 then clampCode bf16 f.cl (root.toNat % 2 ^ 16) + clampCode bf16 f.cl (root.toNat / 2 ^ 16) * 2 ^ 16
      else clampCode fp32 f.cl root.toNat
    (Instr.vfred f).wellFormed = true → (s.thread iss.thr).width ∈ [1, 2, 4, 8, 16, 32, 64] → floatRuns sh s iss →
    ∃ (u : State) (node : Nat → Nat → Option W32) (flags : Nat → Nat → Nat), leaves (.vfred f) s iss.thr u
      ∧ movedOn iss.thr iss.lanes 8 s u ∧ node 0 = leaf
      ∧ (∀ k i, k < 6 → i < 32 → nodeJoins f.t.toNat ctl (node k (2 * i)) (node k (2 * i + 1)) (node (k + 1) i) (flags k i))
      ∧ onlyRegs iss.thr s u (if activeLanes s iss sh = [] then regsOf s iss else
          { (regsOf s iss).setLanes f.d.toNat ((activeLanes s iss sh).map fun l => (l, BitVec.ofNat 32 (value ((node 6 0).getD 0)))) with
            fpstat := (regsOf s iss).fpstat ||| BitVec.ofNat 32
              (((List.range 6).flatMap fun k => (List.range 32).map (flags k)).foldl (· ||| ·) 0) })

/-- `VSCL` gives each lane of Active(g) the smallest scale whose product with the largest finite value of the format reaches
the largest magnitude of the lane's block, 1.0 for a block of zeros, the NaN scale where it holds a NaN or an infinity, and
the largest scale where none suffices (R150, R167). -/
def Sys2Proof.Claims.BlockScales : Prop :=
  ∀ (f : FV2) (s : State) (iss : Issue),
    let sh : Shape := { g := f.g.toNat, vsrc := [f.a.toNat], vdst := [f.d.toNat], wide := true }
    let A := activeLanes s iss sh
    let x := fun l => fpOperand fp32 (sourceRegs s iss).fpctl f.na f.xa (operand s iss sh 0 l).toNat
    let top : ℚ := ratOf (valueOf (narrowOf f.t.toNat) (narrowOf f.t.toNat).top)
    (Instr.vscl f).wellFormed = true → runsNow sh (fun _ _ => true) iss s → calm s iss sh →
    ∃ (u : State) (v : Nat → Nat), leaves (.vscl f) s iss.thr u ∧ movedOn iss.thr iss.lanes 8 s u
      ∧ onlyRegs iss.thr s u ((regsOf s iss).setLanes f.d.toNat (A.map fun l => (l, BitVec.ofNat 32 (v l))))
      ∧ ∀ l ∈ A,
          let finite := ∀ j ∈ sameBlock l A, ∃ neg m e, x j = .fin neg m e
          let reaches := fun c => ∃ q, scaleNumber c = some q ∧ ∀ j ∈ sameBlock l A, |ratOf (x j)| ≤ q * top
          (¬finite → v l = 0x3FC)
          ∧ (finite → (∀ j ∈ sameBlock l A, ratOf (x j) = 0) → v l = 0x1FC)
          ∧ (finite → (∃ j ∈ sameBlock l A, ratOf (x j) ≠ 0) →
              (reaches (v l) ∧ ∀ c, c < v l → ¬reaches c) ∨ (v l = 0x3FB ∧ ∀ c, c < 1024 → ¬reaches c))

/-- `VPACK` replaces one field of d by the low bits of a, and `VUNPK` reads one field of a, zero-extended (R170). -/
def Sys2Proof.Claims.PackAndUnpack : Prop :=
  (∀ (f : FV2) (s : State) (iss : Issue),
    let sh : Shape := { g := f.g.toNat, vsrc := [f.a.toNat], vmore := [f.d.toNat], vdst := [f.d.toNat] }
    let w := [4, 6, 8, 16].getD f.t.toNat 16
    (Instr.vpack f).wellFormed = true → runsNow sh (fun _ _ => true) iss s → calm s iss sh →
    ∃ u, leaves (.vpack f) s iss.thr u ∧ movedOn iss.thr iss.lanes 8 s u
      ∧ onlyRegs iss.thr s u ((regsOf s iss).setLanes f.d.toNat ((activeLanes s iss sh).map fun l => (l, wordOf fun i =>
          if w * f.b.toNat ≤ i ∧ i < w * f.b.toNat + w then (operand s iss sh 0 l).getLsbD (i - w * f.b.toNat)
          else ((sourceRegs s iss).getV f.d.toNat l).getLsbD i))))
  ∧ ∀ (f : FV2) (s : State) (iss : Issue),
    let sh : Shape := { g := f.g.toNat, vsrc := [f.a.toNat], vdst := [f.d.toNat] }
    let w := [4, 6, 8, 16].getD f.t.toNat 16
    (Instr.vunpk f).wellFormed = true → runsNow sh (fun _ _ => true) iss s → calm s iss sh →
    ∃ u, leaves (.vunpk f) s iss.thr u ∧ movedOn iss.thr iss.lanes 8 s u
      ∧ onlyRegs iss.thr s u ((regsOf s iss).setLanes f.d.toNat ((activeLanes s iss sh).map fun l =>
          (l, BitVec.ofNat 32 ((operand s iss sh 0 l).toNat / 2 ^ (w * f.b.toNat) % 2 ^ w))))

/-- A flag that FPCTL enables traps its lane (R147): under an enabled divide-by-zero, the lanes of a `VRCP` that hold a
zero stop for one FPE record whose detail is their flags, writing nothing; lanes that hold an infinity complete. -/
def Obligations.EnabledFlagTraps : Prop :=
  ∀ (f : FV2) (s : State) (iss : Issue),
    let sh : Shape := { g := f.g.toNat, vsrc := [f.a.toNat], vdst := [f.d.toNat] }
    let x := fun l => fpOperand fp32 (sourceRegs s iss).fpctl f.na f.xa (operand s iss sh 0 l).toNat
    let zero := fun l => ∃ neg e, x l = .fin neg 0 e
    let A := activeLanes s iss sh
    runsNow sh (fun _ _ => true) iss s → calm s iss sh → plainGroup s iss → f.cl = 0 → (sourceRegs s iss).fpctl.getLsbD 9 = true →
    (∀ l ∈ A, zero l ∨ ∃ neg, x l = .inf neg) → (∃ l ∈ A, zero l) →
    ∃ u, leaves (.vrcp f) s iss.thr u
      ∧ (u.trap s.fl.next).live = true ∧ (u.trap s.fl.next).cause = .fpe ∧ (u.trap s.fl.next).detail = 2
      ∧ (u.trap s.fl.next).pc = iss.pc ∧ (∀ l, (u.trap s.fl.next).lanes.testBit l = true ↔ l ∈ A ∧ zero l)
      ∧ bare (u.thread iss.thr).regs = bare ((regsOf s iss).setLanes f.d.toNat
          ((A.filter fun l => ¬zero l).map fun l => (l, if x l = .inf true then 0x80000000 else 0)))
      ∧ ∀ l, l < (s.thread iss.thr).width → (u.thread iss.thr).lane l =
          if l ∈ A ∧ zero l then { (s.thread iss.thr).lane l with state := .stopped (.record s.fl.next), hold := .none }
          else if inGroup iss l then Lane.advance 8 ((s.thread iss.thr).lane l) else (s.thread iss.thr).lane l

end

/-- A result is rounded by its mode, stochastically by a draw, takes the table's value where it overflows, and is
flushed or flagged where it underflows (R139 to R144). -/
def Obligations.RoundingAndOverflow : Prop :=
  Sys2Proof.Claims.RoundingIsByMode ∧ Sys2Proof.Claims.OverflowTakesTableValue
    ∧ Sys2Proof.Claims.UnderflowAndFlush ∧ Sys2Proof.Claims.StochasticDraw

/-- Minimum, maximum and compare of floating-point lanes. -/
def Obligations.FloatSelectionAndCompare : Prop :=
  Sys2Proof.Claims.FloatSelection ∧ Sys2Proof.Claims.FloatCompare

/-- The special functions are correctly rounded, and roots and quotients are nearest. -/
def Obligations.SpecialFunctionsAndRoots : Prop :=
  Sys2Proof.Claims.SpecialFunctions ∧ Sys2Proof.Claims.RootsAreNearest

/-- Conversions between formats, and packed narrow formats. -/
def Obligations.ConversionsAndPacking : Prop :=
  Sys2Proof.Claims.FloatConversions ∧ Sys2Proof.Claims.PackAndUnpack

/-- Reductions follow their tree, and blocks take their scales. -/
def Obligations.ReductionsAndBlockScales : Prop :=
  Sys2Proof.Claims.FloatReductionTree ∧ Sys2Proof.Claims.BlockScales

namespace Sys2Proof.Claims

open Sys2Proof.Machine Sys2Proof.Safety

/-! ### Memory -/

/-- Nothing changes but memory, the caches, what is in flight and threads; and an issue, a walk or a request is
counted. -/
def aside (s u : State) : Prop :=
  u.poison = s.poison ∧ u.cores = s.cores ∧ u.clusters = s.clusters ∧ (∀ d, untold (u.die d) = untold (s.die d)) ∧ u.atolls = s.atolls
    ∧ u.wgs = s.wgs ∧ u.agenda = s.agenda ∧ u.fcq = s.fcq
    ∧ (∀ n, uncounted (u.ctx n) = uncounted (s.ctx n)) ∧ unsent u.sys = unsent s.sys

/-- Translating an address has brought about no more than the spec says: a TLB and walk-cache fill with its leases, and
in the leaves that translate it, which the entry at hand does not show so, the A bit, for a write the D bit too (R174,
R221, R370). -/
def tookPage (who : Who) (write : Bool) (va : Nat) (s t : State) : Prop :=
  aside s t ∧ t.fl = s.fl ∧ (∀ j, t.thread j = s.thread j)
    ∧ t.ca = { s.ca with tlb := t.ca.tlb, leases := t.ca.leases, walks := t.ca.walks }
    ∧ match (if who.phys ∨ inLagoon va = true then none else (pageOf s who { va } va write).toOption) with
      | some p => ∀ k, t.byte k = s.byte k ||| orMask (leafBits (accessBits write) p) k
      | none => ∀ k, t.byte k = s.byte k

/-- So for each of several addresses, one after another. -/
def tookPages (who : Who) (write : Bool) : List Nat → State → State → Prop
  | [], s, t => aside s t ∧ t.fl = s.fl ∧ (∀ j, t.thread j = s.thread j) ∧ t.ca = s.ca ∧ t.mem = s.mem
  | va :: vas, s, t => ∃ u, tookPage who write (va % 2 ^ 56) s u ∧ tookPages who write vas u t

/-- An access: what the instruction names, the rules of R183 and R175 for it, the accesses of its lanes, and the order
it asks for (R44). -/
structure AccessForm where
  shape : Shape
  rules : Rules
  acc   : List LaneAccess
  k     : Nat := 0
  o     : Nat := 0
  kind  : ReqKind := .load
  lanes : Nat                    -- the lanes that act
  whole : Bool := false          -- a scalar access, which its whole group makes (R103)

/-- The loads (R109, R187, R189). -/
def loadTable (s : State) (iss : Issue) : Instr → Option AccessForm
  | .ld f => some { shape := loadShape f, rules := { align := szBytes f.sz, allowed := plainAllowed f }
                    acc := laneAccesses s iss (loadShape f) f false, k := f.k.toNat, o := f.o.toNat
                    lanes := active s iss f.g.toNat }
  | .ldpk f => some { shape := loadShape f, rules := { allowed := packedAllowed }
                      acc := laneAccesses s iss (loadShape f) f true, lanes := active s iss f.g.toNat }
  | .sld f => some { shape := { engines := ctlEngines, ssrc := fsReads f, sdst := [f.sd.toNat], cls := .l, late := true }
                     rules := scalarRules f .read, acc := scalarAccess f iss s, lanes := iss.lanes, whole := true }
  | _ => none

/-- The stores (R109, R188, R189, R192). -/
def storeTable (s : State) (iss : Issue) : Instr → Option AccessForm
  | .st f => some { shape := storeShape f, rules := { align := szBytes f.sz, access := .write, allowed := plainAllowed f }
                    acc := laneAccesses s iss (storeShape f) f false, k := f.k.toNat, o := f.o.toNat, kind := .store
                    lanes := active s iss f.g.toNat }
  | .stpk f => some { shape := storeShape f, rules := { access := .write, allowed := packedAllowed }
                      acc := laneAccesses s iss (storeShape f) f true, kind := .store, lanes := active s iss f.g.toNat }
  | .disc f =>
    let sh : Shape := { g := f.g.toNat, vsrc := fmVx f, ssrc := [f.sb.toNat], cls := .s, late := true }
    some { shape := sh
           rules := { access := .write, allowed := fun p => p == .dev || p == .lagoon, line := true }
           acc := pointAccesses s iss sh f, kind := .discard, lanes := active s iss f.g.toNat }
  | .sst f => some { shape := { engines := ctlEngines, ssrc := f.sd.toNat :: fsReads f, cls := .s, late := true }
                     rules := scalarRules f .write, acc := scalarAccess f iss s, kind := .store, lanes := iss.lanes, whole := true }
  | _ => none

/-- Every lane's access passes the checks of R183. -/
def allGood (s : State) (iss : Issue) (F : AccessForm) (reader : Option Nat) : Prop :=
  ∀ a ∈ F.acc, judge s (whoOf (s.thread iss.thr)) F.rules reader a = none

/-- The pages that the accesses of a form touch. -/
def pagesTouched (s : State) (iss : Issue) (F : AccessForm) : List Nat :=
  touched (unitsOf s (whoOf (s.thread iss.thr)) F.rules F.acc)

/-- Of what is in flight, one operation and the requests that follow it are new. -/
def entered (s u : State) (o : Op) (rs : List Req) : Prop :=
  u.fl.next = s.fl.next + 1 + rs.length ∧ u.op s.fl.next = o ∧ (∀ n, n ≠ s.fl.next → u.op n = s.op n)
    ∧ (∀ i (r : Req), rs[i]? = some r → u.req (s.fl.next + 1 + i) = r)
    ∧ (∀ n, n ≤ s.fl.next ∨ s.fl.next + rs.length < n → u.req n = s.req n)
    ∧ u.fl.copies = s.fl.copies ∧ u.fl.faults = s.fl.faults ∧ u.fl.traps = s.fl.traps

/-- The elements of a form's accesses. -/
def elementsOf (F : AccessForm) : List Elem :=
  (F.acc.flatMap LaneAccess.pieces).map fun p => { dst := p.dst, bit := p.bit, width := p.width, sext := p.sext }

/-- The new value of a register: the last result for it, or what it held. -/
def lastFor (d : Dst) (rs : List (Dst × W64)) (old : W64) : W64 :=
  match (rs.reverse.find? fun r => r.1 == d) with
  | some r => r.2
  | none => old

/-- The copies of a core's L1 after a store has been sent: the bytes of the sectors present take the bits that the store
writes there, and no sector comes, goes or changes its lease; of a `DISC` every sector of the lines it names is gone, and
the others stay (R180, R192, R217). Other engines have no L1. -/
def copiesFollow (k : Nat) (F : AccessForm) (v u : State) : Prop :=
  let t := v.thread k
  let us := (unitsOf v (whoOf t) F.rules F.acc).filter fun x => x.space == .dev
  let ps := F.acc.flatMap LaneAccess.pieces
  if t.engine ≠ .core then u.ca.l1 = v.ca.l1 ∧ u.ca.l1data = v.ca.l1data
  else if F.kind = .discard then
    (∀ key, look {} u.ca.l1 key = if ∃ x ∈ us, key / 4 = l1Key t.core t.ctx x.va / 4 then {} else look {} v.ca.l1 key)
      ∧ ∀ key, look 0 u.ca.l1data key = if ∃ x ∈ us, key / 256 = l1Byte t.core t.ctx x.va / 256 then 0 else look 0 v.ca.l1data key
  else u.ca.l1 = v.ca.l1
    ∧ (∀ x ∈ us, (look ({} : Sector) v.ca.l1 (l1Key t.core t.ctx x.va)).live = true → ∀ i, i < x.size →
        let key := l1Byte t.core t.ctx (x.va + i)
        let m := BitVec.ofNat 8 ((unitData x ps).1 / 256 ^ i)
        look 0 u.ca.l1data key = (look 0 v.ca.l1data key &&& ~~~m) ||| (BitVec.ofNat 8 ((unitData x ps).2 / 256 ^ i) &&& m))
    ∧ ∀ key, (¬ ∃ x ∈ us, (look ({} : Sector) v.ca.l1 (l1Key t.core t.ctx x.va)).live = true
          ∧ ∃ i, i < x.size ∧ key = l1Byte t.core t.ctx (x.va + i)) → look 0 u.ca.l1data key = look 0 v.ca.l1data key

/-- Lane `l` has been struck at `pc` by what its access met: it is stopped for a live record of its cause, whose detail is
that of the lowest such lane, or parked on a live fault in its page (R183, R362, R363, R371). -/
def struckFor (u : State) (k : Nat) (pc : Addr) (bad : Nat → Option Bad) (l : Nat) : Prop :=
  match bad l with
  | none => False
  | some (.trap c _) => ∃ id, ((u.thread k).lane l).state = .stopped (.record id) ∧ (u.trap id).live = true
      ∧ (u.trap id).cause = c ∧ (u.trap id).thr = k ∧ (u.trap id).pc = pc
      ∧ (∀ j, j < 64 → ((u.trap id).lanes.testBit j = true ↔ ∃ d, bad j = some (.trap c d)))
      ∧ ∃ j, j ≤ l ∧ bad j = some (.trap c (u.trap id).detail) ∧ ∀ i d, i < j → bad i ≠ some (.trap c d)
  | some (.miss m) => ∃ id, ((u.thread k).lane l).state = .parked id ∧ (u.fault id).live = true
      ∧ (u.fault id).miss.va / 65536 = m.va / 65536 ∧ (u.fault id).miss.stage2 = m.stage2 ∧ (u.fault id).miss.region = m.region
      ∧ ∃ mask, (u.fault id).who = .lanes k mask ∧ mask.testBit l = true
          ∧ ∀ j, j < 64 → mask.testBit j = true → ∃ x, bad j = some (.miss x) ∧ x.va / 65536 = m.va / 65536

/-- The lanes of a group after an access that some of them could not make: those with a verdict are struck, the others are
as `f` says; in a `REP` sequence the others stop for it instead, and REPCNT takes the executions left (R86, R183). -/
def someStruck (s u : State) (iss : Issue) (bad : Nat → Option Bad) (f : Nat → Lane → Lane → Prop) : Prop :=
  let t := s.thread iss.thr
  (∀ l, inGroup iss l → bad l ≠ none → struckFor u iss.thr iss.pc bad l)
    ∧ (∀ l, l < t.width → ¬ inGroup iss l → (u.thread iss.thr).lane l = t.lane l)
    ∧ if inSequence t iss.pc then
        (∀ l, inGroup iss l → bad l = none → (∃ j, bad j ≠ none) → ((u.thread iss.thr).lane l).state = .stopped .sequence)
          ∧ ∀ q, t.seq = some q → (∃ j, bad j ≠ none) →
              (u.thread iss.thr).seq = some { q with paused := true } ∧ (u.thread iss.thr).repcnt = q.count - q.next
      else ∀ l, inGroup iss l → bad l = none → f l (t.lane l) ((u.thread iss.thr).lane l)

/-- The group consists of lanes of the thread. -/
def realLanes (s : State) (iss : Issue) : Prop :=
  (s.thread iss.thr).width ≤ 64 ∧ ∀ l, inGroup iss l → l < (s.thread iss.thr).width ∧ ((s.thread iss.thr).lane l).live = true

open Classical in
/-- What the access of lane `l` meets; a scalar access is its whole group's, and a lost base traps after its address has been
judged (R103, R109, R379). -/
noncomputable def verdictOf (s : State) (iss : Issue) (F : AccessForm) (reader : Option Nat) (l : Nat) : Option Bad :=
  let by_ := fun r a => judge s (whoOf (s.thread iss.thr)) F.rules r a
  if F.whole then
    if inGroup iss l then ((F.acc.findSome? (by_ none)).or (lostBad s iss F.shape)).or (F.acc.findSome? (by_ reader)) else none
  else F.acc.findSome? fun a => if a.lane = l then by_ reader a else none

open Classical in
/-- The accesses that are made when some lanes are struck: those of the others, none in a `REP` sequence (R86, R183). -/
noncomputable def accessesMade (s : State) (iss : Issue) (F : AccessForm) (reader : Option Nat) : List LaneAccess :=
  if (∃ l, verdictOf s iss F reader l ≠ none) ∧ (F.whole ∨ inSequence (s.thread iss.thr) iss.pc = true) then []
  else F.acc.filter fun a => decide (verdictOf s iss F reader a.lane = none)

open Classical in
/-- One operation is new, of the class and for the lanes given, or none where nothing is sent. -/
def oneSent (s u : State) (k : Nat) (cls : Cls) (nothing : Prop) (lanes : Nat → Prop) : Prop :=
  if nothing then ∀ n, u.op n = s.op n ∧ u.req n = s.req n
  else ∃ id, s.fl.next ≤ id ∧ (u.op id).live = true ∧ (u.op id).thr = k ∧ (u.op id).cls = cls
    ∧ (∀ l, l < 64 → ((u.op id).lanes.testBit l = true ↔ lanes l)) ∧ ∀ n, n ≠ id → u.op n = s.op n

/-- What an access of which some lanes fail leaves: of memory the A and D bits of the pages that the others touch, one
operation for the others, its counter one higher, and every register as before. -/
def partlyMade (s u : State) (iss : Issue) (F : AccessForm) (reader : Option Nat) (write : Bool) (cls : Cls) : Prop :=
  let made := accessesMade s iss F reader
  let who := whoOf (s.thread iss.thr)
  (∃ v, tookPages who write (if made = [] then [] else touched (unitsOf s who F.rules made)) s v ∧ u.mem = v.mem)
    ∧ oneSent s u iss.thr cls (made = []) (fun l => if F.whole then inGroup iss l else l ∈ made.map LaneAccess.lane)
    ∧ bare (u.thread iss.thr).regs = bare (regsOf s iss)
    ∧ (∀ j, j ≠ iss.thr → u.thread j = s.thread j)
    ∧ (u.thread iss.thr).cntL = (s.thread iss.thr).cntL + (if made ≠ [] ∧ cls = .l then 1 else 0)
    ∧ (u.thread iss.thr).cntS = (s.thread iss.thr).cntS + (if made ≠ [] ∧ cls = .s then 1 else 0)

end Sys2Proof.Claims

section
open Classical
open Sys2Proof Sys2Proof.Machine Sys2Proof.Safety Sys2Proof.Claims

/-- A load whose lanes all pass R183 enters one operation for its elements and one request for each unit that no copy of
the core's L1 serves; copies that serve give their bytes at once; L rises by one; the group moves on, or
holds for the acquire where the form has one (R84, R175, R180, R187, R212). No register changes, and of memory only A
bits. An empty one sends nothing. -/
def Sys2Proof.Claims.LoadsAreSent : Prop :=
  ∀ (i : Instr) (F : AccessForm) (s : State) (iss : Issue), i.wellFormed = true → loadTable s iss i = some F →
    runsNow F.shape (accessReady F.rules fun _ _ => F.acc) iss s → calm s iss F.shape → plainGroup s iss →
    allGood s iss F (some iss.thr) →
    ∃ v u, tookPages (whoOf (s.thread iss.thr)) false (if F.acc = [] then [] else pagesTouched s iss F) s v
      ∧ leaves i s iss.thr u ∧ aside s u ∧ u.mem = v.mem ∧ u.ca = v.ca
      ∧ (let us := unitsOf v (whoOf (s.thread iss.thr)) F.rules F.acc
         let acq := isAcq F.k F.o && decide (3 ≤ F.o)
         let hits := if acq then [] else us.filter (l1Serves v (v.thread iss.thr) iss.thr)
         let misses := us.filter fun x => acq || !l1Serves v (v.thread iss.thr) iss.thr x
         if F.acc = [] then u.fl = s.fl
         else entered s u
           { live := true, thr := iss.thr, cls := .l, lanes := F.lanes % 2 ^ 64, pc := iss.pc, ctx := (s.thread iss.thr).ctx
             core := (s.thread iss.thr).core, elems := elementsOf F, dsts := (elementsOf F).map Elem.dst
             bytes := arrive (hits.flatMap (l1Bytes v (v.thread iss.thr))) [] }
           (misses.map fun x => { baseReq v iss s.fl.next x with kind := .load, acq }))
      ∧ (∀ j, j ≠ iss.thr → u.thread j = s.thread j)
      ∧ kept (u.thread iss.thr) = kept { s.thread iss.thr with cntL := (s.thread iss.thr).cntL + (if F.acc = [] then 0 else 1) }
      ∧ bare (u.thread iss.thr).regs = bare (regsOf s iss)
      ∧ ∀ l, l < (s.thread iss.thr).width → (u.thread iss.thr).lane l =
          if inGroup iss l ∧ F.acc ≠ [] ∧ isAcq F.k F.o = true then { (s.thread iss.thr).lane l with hold := .fence .acq F.o u.fl.next .done }
          else if inGroup iss l then Lane.advance 8 ((s.thread iss.thr).lane l) else (s.thread iss.thr).lane l

/-- A store whose lanes all pass R183 enters one operation and one request for each unit with the bits and data that its
elements write; the sectors that the core's L1 holds of its context take the same bits and keep their leases, and a
`DISC` drops its lines there (R180, R192, R217); S rises by one; the group moves on. Memory itself is written at the
point of coherence; of it only A and D bits change (R84, R181, R188, R217). A releasing store holds its group first
(R212). -/
def Sys2Proof.Claims.StoresAreSent : Prop :=
  ∀ (i : Instr) (F : AccessForm) (s : State) (iss : Issue), i.wellFormed = true → storeTable s iss i = some F →
    runsNow F.shape (accessReady F.rules fun _ _ => F.acc) iss s → calm s iss F.shape → plainGroup s iss →
    if F.acc ≠ [] ∧ isRel F.k F.o = true ∧ ¬ ∀ l, inGroup iss l → ((s.thread iss.thr).lane l).hold = .passed then
      ∃ u, leaves i s iss.thr u ∧ others iss.thr s u ∧ bare (u.thread iss.thr).regs = bare (regsOf s iss)
        ∧ ∀ l, l < (s.thread iss.thr).width → (u.thread iss.thr).lane l =
            if inGroup iss l then { (s.thread iss.thr).lane l with hold := .fence .full F.o iss.start .access }
            else (s.thread iss.thr).lane l
    else allGood s iss F none →
      ∃ v u, tookPages (whoOf (s.thread iss.thr)) true (if F.acc = [] then [] else pagesTouched s iss F) s v
        ∧ leaves i s iss.thr u ∧ aside s u ∧ u.mem = v.mem
        ∧ { u.ca with l1 := [], l1data := [] } = { v.ca with l1 := [], l1data := [] } ∧ copiesFollow iss.thr F v u
        ∧ (let us := unitsOf v (whoOf (s.thread iss.thr)) F.rules F.acc
           let data := fun x => if F.kind = .discard then (allBits x.size, 0) else unitData x (F.acc.flatMap LaneAccess.pieces)
           if F.acc = [] then u.fl = s.fl
           else entered s u
             { live := true, thr := iss.thr, cls := .s, lanes := F.lanes % 2 ^ 64, pc := iss.pc, ctx := (s.thread iss.thr).ctx
               core := (s.thread iss.thr).core }
             (us.map fun x => { baseReq v iss s.fl.next x with kind := F.kind, mask := (data x).1, data := (data x).2 }))
        ∧ (∀ j, j ≠ iss.thr → u.thread j = s.thread j)
        ∧ kept (u.thread iss.thr) = kept { s.thread iss.thr with
            cntS := (s.thread iss.thr).cntS + (if F.acc = [] then 0 else 1), links := (u.thread iss.thr).links }
        ∧ bare (u.thread iss.thr).regs = bare (regsOf s iss)
        ∧ ∀ l, l < (s.thread iss.thr).width → (u.thread iss.thr).lane l =
            if inGroup iss l then Lane.advance 8 ((s.thread iss.thr).lane l) else (s.thread iss.thr).lane l

/-- The checks of R183 on one lane's access come in their order: ALIGN, BADADDR, the translation fault of a byte, what stops
the fill of a region's granule (R178), MEMTYPE, POISON of a register and POISON of what is read. -/
def Sys2Proof.Claims.AccessesAreJudged : Prop :=
  ∀ (s : State) (who : Who) (r : Rules) (reader : Option Nat) (a : LaneAccess),
    let bytes := (a.ranges r.line).flatMap ends
    let outside := ∃ b ∈ bytes, inLagoon b = true ∧ who.phys = false ∧ lagoonOk s who.ctx b = false
    let faults := ∃ b ∈ bytes, ∃ m, translate s who r.access b = .error m
    let dry := ∃ b ∈ bytes, fillVerdict s b ≠ none
    let unserved := ∃ b ∈ bytes, ∃ p : Place, translate s who r.access b = .ok p ∧ r.allowed p.space = false
    let spoiled := ∃ k, reader = some k ∧ ∃ x ∈ unitsOf s who r [a], consumesPoison s k x = true
    (a.addr % r.align ≠ 0 → judge s who r reader a = some (.trap .align (BitVec.ofNat 64 a.addr)))
    ∧ (a.addr % r.align = 0 → outside → judge s who r reader a = some (.trap .badAddr (BitVec.ofNat 64 a.addr)))
    ∧ (a.addr % r.align = 0 → ¬outside → faults →
        ∃ b ∈ bytes, ∃ m, translate s who r.access b = .error m ∧ judge s who r reader a = some (.miss m))
    ∧ (a.addr % r.align = 0 → ¬outside → ¬faults → dry → ∃ b ∈ bytes, fillVerdict s b ≠ none ∧ judge s who r reader a = fillVerdict s b)
    ∧ (a.addr % r.align = 0 → ¬outside → ¬faults → ¬dry →
        judge s who r reader a =
          if unserved then some (.trap .memType (BitVec.ofNat 64 a.addr))
          else if a.bad = true then some (.trap .poison 0)
          else if spoiled then some (.trap .poison (BitVec.ofNat 64 a.addr)) else none)

/-- Where some lanes of a load or store fail R183, each of them is stopped for the record of its cause, one record for the
lanes of one cause, or parked on a fault in its page; the others make their access as one operation and move on, or hold for
its acquire (R83, R183, R190). In a `REP` sequence none makes it, and the whole group waits (R86). -/
def Sys2Proof.Claims.SomeLanesFail : Prop :=
  (∀ (i : Instr) (F : AccessForm) (s : State) (iss : Issue), i.wellFormed = true → loadTable s iss i = some F →
    runsNow F.shape (accessReady F.rules fun _ _ => F.acc) iss s → (s.thread iss.thr).reefUse = [] → realLanes s iss →
    ∃ u, leaves i s iss.thr u ∧ partlyMade s u iss F (some iss.thr) false .l
      ∧ someStruck s u iss (verdictOf s iss F (some iss.thr)) fun _ x y =>
          y = if accessesMade s iss F (some iss.thr) ≠ [] ∧ isAcq F.k F.o = true then { x with hold := .fence .acq F.o u.fl.next .done }
            else Lane.advance 8 x)
  ∧ ∀ (i : Instr) (F : AccessForm) (s : State) (iss : Issue), i.wellFormed = true → storeTable s iss i = some F →
    runsNow F.shape (accessReady F.rules fun _ _ => F.acc) iss s → (s.thread iss.thr).reefUse = [] → realLanes s iss →
    (F.acc ≠ [] → isRel F.k F.o = true → ∀ l, inGroup iss l → ((s.thread iss.thr).lane l).hold = .passed) →
    ∃ u, leaves i s iss.thr u ∧ partlyMade s u iss F none true .s
      ∧ someStruck s u iss (verdictOf s iss F none) fun _ x y => y = Lane.advance 8 x

/-- A load's request is performed at its point of coherence: its operation gets the bytes that stand there, of a device
register the register's, and neither memory nor any register changes (R204, R205); where they are poisoned, the lanes that read
them are marked to trap (R183). When every request has been answered
the results are written, L falls by one and the operation is gone; lanes that a compare held go on (R84, R200). -/
def Sys2Proof.Claims.LoadsPerformAndLand : Prop :=
  (∀ (n : Nat) (dram : Bool) (s : State), (s.req n).kind = .load → mayPerform s n = true →
    ∃ u, exec (.sliceLineRequest (.req n) dram) s = .next u ∧ u.req n = { s.req n with done := true }
      ∧ u.mem = s.mem ∧ u.poison = s.poison ∧ (∀ j, (u.thread j).regs = (s.thread j).regs)
      ∧ (∀ k, k ≠ n → u.req k = s.req k)
      ∧ ∀ i, i < (if (s.req n).space = .mmio then 8 else (s.req n).size) →
          look 0 (u.op (s.req n).op).bytes ((s.req n).va + i) =
            if (s.req n).space = .mmio then BitVec.ofNat 8 ((mmioRead s (s.req n).key).toNat / 256 ^ i)
            else s.byte (forward s (s.req n).space (s.req n).key + i))
  ∧ (∀ (n : Nat) (dram : Bool) (s : State), (s.req n).kind = .load → mayPerform s n = true → (s.op (s.req n).op).reef = none →
    let r := s.req n
    let o := s.op r.op
    ∃ u, exec (.sliceLineRequest (.req n) dram) s = .next u
      ∧ if poisoned s r.space (forward s r.space r.key) r.size = true then
          ∀ e ∈ o.elems, e.bit / 8 < r.va + r.size → r.va ≤ (e.bit + e.width - 1) / 8 →
            match e.dst with
            | .q _ _ l => o.cls = .q → l < 64 → (u.op r.op).poison.testBit l = true
            | .v _ l => o.cls ≠ .q → ∃ va, (l, va) ∈ (u.op r.op).struck
            | .s _ => o.cls ≠ .q → ∀ l, l < 64 → o.lanes.testBit l = true → ∃ va, (l, va) ∈ (u.op r.op).struck
        else (u.op r.op).struck = o.struck ∧ (u.op r.op).poison = o.poison)
  ∧ (∀ (id : Nat) (s : State),
    let k := (s.op id).thr
    (s.op id).live = true → (s.op id).cls = .l → (s.op id).reef = none → answered s id = true → gated s k = false →
    (s.thread k).episode = none → (s.thread k).reefUse = [] → (s.thread k).seq = none → k < backKey 0 →
    (∀ e ∈ resultsOf (s.op id), ∀ d l, e.1 = .v d l → l < 64) → (s.op id).struck = [] →
    ∃ u, settles (.loadComplete id) s k u ∧ u.mem = s.mem ∧ u.op id = {} ∧ (∀ j, j ≠ k → u.thread j = s.thread j)
      ∧ (u.thread k).cntL = (s.thread k).cntL - 1
      ∧ (∀ d l, l < 64 → (u.thread k).regs.getV d l =
          (lastFor (.v d l) (resultsOf (s.op id)) (((s.thread k).regs.getV d l).setWidth 64)).setWidth 32)
      ∧ (∀ d, d ≠ 0 → (u.thread k).regs.getS d = lastFor (.s d) (resultsOf (s.op id)) ((s.thread k).regs.getS d))
      ∧ (u.thread k).regs.m = (s.thread k).regs.m ∧ (u.thread k).regs.em = (s.thread k).regs.em
      ∧ ∀ l, l < (s.thread k).width →
          let x := (s.thread k).lane l
          (u.thread k).lane l =
            if x.live = true ∧ x.state = .running ∧ x.hold = .tile id then
              if (s.op id).acq = 0 then Lane.advance 8 x else { x with hold := .fence .acq (s.op id).acq s.fl.next .done }
            else x)
  ∧ ∀ (id : Nat) (s : State),
    let k := (s.op id).thr
    (s.op id).live = true → (s.op id).cls = .l → (s.op id).reef = none → answered s id = true → gated s k = false →
    (s.thread k).live = true → (s.thread k).episode = none → (s.thread k).reefUse = [] → (s.thread k).seq = none → k < backKey 0 →
    (s.op id).struck ≠ [] → (∀ e ∈ resultsOf (s.op id), ∀ d l, e.1 = .v d l → l < 64) →
    (∀ x ∈ (s.op id).struck, x.1 < (s.thread k).width ∧ ((s.thread k).lane x.1).live = true
      ∧ ((s.thread k).lane x.1).state = .running) → (s.thread k).width ≤ 64 →
    ∃ u, settles (.loadComplete id) s k u ∧ u.op id = {} ∧ (u.thread k).cntL = (s.thread k).cntL - 1
      ∧ (∀ x ∈ (s.op id).struck, struckFor u k (s.op id).pc (fun l => ((s.op id).struck.find? fun y => y.1 == l).map
          fun y => .trap .poison (BitVec.ofNat 64 y.2)) x.1)
      ∧ (∀ x ∈ (s.op id).struck, ∀ d, (u.thread k).regs.getV d x.1 = (s.thread k).regs.getV d x.1)

/-- A store's request that may be performed writes its masked bits at its point of coherence and no other byte of memory
(R207); `DISC` zeroes the 256-byte line whole, with every request for it (R223). When the times of every request have
returned the store is complete: S falls by one and LGW takes the latest of them (R84, R207, R208). -/
def Sys2Proof.Claims.StoresPerformAndReturn : Prop :=
  (∀ (n : Nat) (s : State), (s.req n).kind = .store → (s.req n).space ≠ .mmio → mayPerform s n = true →
    ∃ u, exec (.sliceStore (.req n)) s = .next u ∧ ((s.req n).op ≠ 0 → (u.req n).done = true)
      ∧ (∀ j, (u.thread j).regs = (s.thread j).regs)
      ∧ ∀ k, u.byte k =
          let first := forward s (s.req n).space (s.req n).key
          if first ≤ k ∧ k < first + (s.req n).size then
            let m := BitVec.ofNat 8 ((s.req n).mask / 256 ^ (k - first))
            (s.byte k &&& ~~~m) ||| (BitVec.ofNat 8 ((s.req n).data / 256 ^ (k - first)) &&& m)
          else s.byte k)
  ∧ (∀ (n : Nat) (s : State), (s.req n).kind = .discard → discardLine s n ≠ [] →
    (∀ m ∈ discardLine s n, mayPerform s m = true ∧ (s.req m).kind = .discard ∧ (s.req m).space ≠ .mmio
      ∧ (s.req m).mask = allBits (s.req m).size ∧ (s.req m).data = 0) →
    ∃ u, exec (.sliceDiscard n) s = .next u ∧ (∀ j, (u.thread j).regs = (s.thread j).regs)
      ∧ ∀ k, u.byte k =
          if ∃ m ∈ discardLine s n, forward s (s.req m).space (s.req m).key ≤ k
              ∧ k < forward s (s.req m).space (s.req m).key + (s.req m).size then 0
          else s.byte k)
  ∧ ∀ (id : Nat) (s : State),
    let k := (s.op id).thr
    (s.op id).live = true → (s.op id).cls = .s → (s.op id).reef = none → (s.op id).struck = [] → storeReturned s id = true → k < backKey 0 →
    (s.thread k).live = true →
    ∃ u, exec (.storeComplete id) s = .next u ∧ u.mem = s.mem ∧ u.op id = {} ∧ (∀ j, j ≠ k → u.thread j = s.thread j)
      ∧ u.thread k = { s.thread k with cntS := (s.thread k).cntS - 1, lgw := max (s.thread k).lgw (returnedTime s id) }

end

namespace Sys2Proof.Claims

open Sys2Proof.Machine Sys2Proof.Safety

/-! ### Atomics, hints, regions, fences -/

/-- A releasing access still has its fence before it; one with an empty Active(g) makes no access (R184, R212). -/
def fenceBefore (s : State) (iss : Issue) (g k o : Nat) : Prop :=
  active s iss g ≠ 0 ∧ isRel k o = true ∧ ¬ ∀ l, inGroup iss l → ((s.thread iss.thr).lane l).hold = .passed

/-- An atomic: its fields, what it names, the rules for it, its operation (16 and 17 are compares), its location's
bytes, and whether it returns the old value (R197, R200). -/
structure AtomForm where
  f     : FM
  shape : Shape
  aop   : Nat
  bytes : Nat := 4
  ret   : Bool := true

/-- The atomics. -/
def atomTable : Instr → Option AtomForm
  | .atom f => some { f, shape := { g := f.g.toNat, vsrc := fmVx f, vmore := [f.d.toNat], ssrc := [f.sb.toNat], cls := .s, late := true }
                      aop := aopOf f, ret := false }
  | .atomr f => some { f, shape := { g := f.g.toNat, vsrc := fmVx f, vmore := [f.d.toNat], vdst := [f.d.toNat], ssrc := [f.sb.toNat], cls := .l, late := true }
                       aop := aopOf f }
  | .acas f => some { f, shape := { g := f.g.toNat, vsrc := fmVx f, vmore := [f.d.toNat, f.d.toNat + 1], vdst := [f.d.toNat]
                                    ssrc := [f.sb.toNat], cls := .l, late := true }
                      aop := 16 }
  | .acasw f => some { f, shape := { g := f.g.toNat, vsrc := fmVx f
                                     vmore := [f.d.toNat, f.d.toNat + 1, f.d.toNat + 2, f.d.toNat + 3]
                                     vdst := [f.d.toNat, f.d.toNat + 1], ssrc := [f.sb.toNat], cls := .l, late := true }
                       aop := 17, bytes := 8 }
  | _ => none

/-- The rules of R183 for an atomic: its alignment, W unless it compares, and where it may be served (R175). -/
def AtomForm.rules (F : AtomForm) : Rules :=
  { align := F.bytes, access := if F.aop < 16 then .atomic else .compare, allowed := atomAllowed F.aop }

/-- The lanes' accesses. -/
def AtomForm.acc (F : AtomForm) (s : State) (iss : Issue) : List LaneAccess := atomAccesses s iss F.shape F.f F.bytes

/-- The requests of an atomic: one for each location, its lanes in ascending order (R199). -/
def AtomForm.requests (F : AtomForm) (v : State) (iss : Issue) (id : Nat) (acc : List LaneAccess) : List Req :=
  (locations acc).filterMap fun e =>
    (unitAt v (whoOf (v.thread iss.thr)) F.rules.access e.1).map fun x =>
      { baseReq v iss id x with kind := .atomic, va := e.1, key := x.key + (e.1 - x.va), size := F.bytes
                                atoms := e.2.map fun l => atomOf v iss F.f F.aop x.canW F.ret 0 l }

/-- A lane whose compare is sent without leave to write: its page has W = 0 (R200). -/
def AtomForm.onlyCompares (F : AtomForm) (s : State) (iss : Issue) (l : Nat) : Prop :=
  16 ≤ F.aop ∧ ∃ a ∈ F.acc s iss, a.lane = l ∧ ∃ x, unitAt s (whoOf (s.thread iss.thr)) F.rules.access a.addr = some x ∧ x.canW = false

/-- What an operation makes of an old value `m` and an operand `x` of 32 bits (R197). -/
def atomResult (aop m x : Nat) : Nat :=
  let signed := fun (v : Nat) => (BitVec.ofNat 32 v).toInt
  match aop with
  | 0 => (m + x) % 2 ^ 32
  | 1 => if signed x < signed m then x else m
  | 2 => min m x
  | 3 => if signed m < signed x then x else m
  | 4 => max m x
  | 5 => m &&& x
  | 6 => m ||| x
  | 7 => m ^^^ x
  | 8 => x
  | _ => sliceAdd fp32 m x

/-- `n` bytes from `first` upwards hold a number, the low byte first, and every other byte of memory is as before. -/
def storedOnly (s u : State) (first n x : Nat) : Prop :=
  ∀ k, u.byte k = if first ≤ k ∧ k < first + n then BitVec.ofNat 8 (x / 256 ^ (k - first)) else s.byte k

/-- The hints, with their fields (R191, R193). -/
def hintTable : Instr → Option FM
  | .pref f => some f
  | .flush f => some f
  | _ => none

/-- What a hint names. -/
def hintShape (f : FM) : Shape := { g := f.g.toNat, vsrc := fmVx f, ssrc := [f.sb.toNat] }

/-- What a lane held for a fence does when the fence's conditions hold (R100, R211, R212). -/
def afterFence (next : After) (x : Lane) : Lane :=
  match next with
  | .move | .done => Lane.advance 8 x
  | .access => { x with hold := .passed }
  | .arrive op mem =>
    if op = 1 then { Lane.advance 8 x with arrived := true } else { x with arrived := true, state := .atBarrier mem, hold := .none }

end Sys2Proof.Claims

section
open Classical
open Sys2Proof Sys2Proof.Machine Sys2Proof.Safety Sys2Proof.Claims

/-- An atomic whose lanes all pass R183 enters one operation and one request for each location, with its lanes in
ascending order (R196, R199); S or, where it returns values, L rises by one; a lane of a compare on a page with W = 0
waits for the slice (R200), the others move on or hold for the acquire (R212). A releasing one holds first.
Only A and D bits of memory change. -/
def Sys2Proof.Claims.AtomicsAreSent : Prop :=
  ∀ (i : Instr) (F : AtomForm) (s : State) (iss : Issue), i.wellFormed = true → atomTable i = some F →
    runsNow F.shape (accessReady F.rules fun _ _ => F.acc s iss) iss s → calm s iss F.shape → plainGroup s iss →
    if fenceBefore s iss F.f.g.toNat F.f.k.toNat F.f.o.toNat then
      ∃ u, leaves i s iss.thr u ∧ others iss.thr s u ∧ bare (u.thread iss.thr).regs = bare (regsOf s iss)
        ∧ ∀ l, l < (s.thread iss.thr).width → (u.thread iss.thr).lane l =
            if inGroup iss l then { (s.thread iss.thr).lane l with hold := .fence .full F.f.o.toNat iss.start .access }
            else (s.thread iss.thr).lane l
    else (∀ a ∈ F.acc s iss, judge s (whoOf (s.thread iss.thr)) F.rules (some iss.thr) a = none) →
      ∃ v u, tookPages (whoOf (s.thread iss.thr)) (decide (F.aop < 16))
          (if F.acc s iss = [] then [] else touched (unitsOf s (whoOf (s.thread iss.thr)) F.rules (F.acc s iss))) s v
        ∧ leaves i s iss.thr u ∧ aside s u ∧ u.mem = v.mem ∧ u.ca = v.ca
        ∧ (let rs := F.requests v iss s.fl.next (F.acc s iss)
           if F.acc s iss = [] then u.fl = s.fl
           else entered s u
             { live := true, thr := iss.thr, cls := if F.ret then .l else .s, pc := iss.pc, ctx := (s.thread iss.thr).ctx
               core := (s.thread iss.thr).core, lanes := active s iss F.f.g.toNat % 2 ^ 64
               dsts := rs.flatMap fun r => r.atoms.flatMap Atom.dst
               acq := if isAcq F.f.k.toNat F.f.o.toNat then F.f.o.toNat else 0 } rs)
        ∧ (∀ j, j ≠ iss.thr → u.thread j = s.thread j)
        ∧ kept (u.thread iss.thr) = kept { s.thread iss.thr with
            cntL := (s.thread iss.thr).cntL + (if F.acc s iss ≠ [] ∧ F.ret = true then 1 else 0)
            cntS := (s.thread iss.thr).cntS + (if F.acc s iss ≠ [] ∧ F.ret = false then 1 else 0)
            links := (u.thread iss.thr).links }
        ∧ bare (u.thread iss.thr).regs = bare (regsOf s iss)
        ∧ ∀ l, l < (s.thread iss.thr).width → (u.thread iss.thr).lane l =
            if F.onlyCompares s iss l then { (s.thread iss.thr).lane l with hold := .tile s.fl.next }
            else if inGroup iss l ∧ F.acc s iss ≠ [] ∧ isAcq F.f.k.toNat F.f.o.toNat = true then
              { (s.thread iss.thr).lane l with hold := .fence .acq F.f.o.toNat u.fl.next .done }
            else if inGroup iss l then Lane.advance 8 ((s.thread iss.thr).lane l) else (s.thread iss.thr).lane l

/-- Where some lanes of an atomic fail R183, they are struck and parked as those of a load are, and the others make their
access as one operation; a lane of a compare on a page with W = 0 waits for the slice (R83, R183, R200). -/
def Sys2Proof.Claims.SomeAtomicsFail : Prop :=
  ∀ (i : Instr) (F : AtomForm) (s : State) (iss : Issue), i.wellFormed = true → atomTable i = some F →
    runsNow F.shape (accessReady F.rules fun _ _ => F.acc s iss) iss s → (s.thread iss.thr).reefUse = [] → realLanes s iss →
    ¬ fenceBefore s iss F.f.g.toNat F.f.k.toNat F.f.o.toNat →
    let A : AccessForm := { shape := F.shape, rules := F.rules, acc := F.acc s iss, lanes := active s iss F.f.g.toNat }
    ∃ u, leaves i s iss.thr u
      ∧ partlyMade s u iss A (some iss.thr) (decide (F.aop < 16)) (if F.ret then .l else .s)
      ∧ someStruck s u iss (verdictOf s iss A (some iss.thr)) fun l x y =>
          if F.onlyCompares s iss l then ∃ id, (u.op id).live = true ∧ y = { x with hold := .tile id }
          else y = if accessesMade s iss A (some iss.thr) ≠ [] ∧ isAcq F.f.k.toNat F.f.o.toNat = true then
              { x with hold := .fence .acq F.f.o.toNat u.fl.next .done }
            else Lane.advance 8 x

/-- An atomic that may be performed reads its location, writes what R197 gives, of a compare the new value where the old
one equals the comparand (R200), its page marked dirty first (R174), changes no other byte of memory, and returns the
old value; a merged request does so once (R199). On a poisoned location it writes nothing and its lanes are marked to
trap (R183). An add.bf16x2 does each half on its own, the high half as a second access (R198). A compare that would
write a page with W = 0 parks its lane with reason 4 (R200). -/
def Sys2Proof.Claims.AtomicsPerform : Prop :=
  (∀ (n : Nat) (s : State) (a : Atom) (rest : List Atom),
    let r := s.req n
    let key := forward s r.space r.key
    let m := readNat s key r.size
    r.kind = .atomic → r.half = false → mayPerform s n = true → parksHere s n = none → mergeAtoms r.atoms = a :: rest →
    poisoned s r.space key r.size = false → a.aop ≠ 10 → (a.aop < 10 ∨ 16 ≤ a.aop) →
    ∃ v u, (if 16 ≤ a.aop ∧ m = a.cmp ∧ a.canW = true then tookPage (requester s r) true (r.va % 2 ^ 56) s v else v = s)
      ∧ exec (.sliceAtomic n) s = .next u ∧ (∀ j, (u.thread j).regs = (s.thread j).regs)
      ∧ (u.req n).atoms = rest ∧ ((u.req n).done = true ↔ rest = [])
      ∧ (let m := readNat v key r.size
         (if 16 ≤ a.aop then
            if m = a.cmp ∧ a.canW = true then storedOnly v u key r.size a.x else ∀ k, u.byte k = v.byte k
          else storedOnly v u key r.size (atomResult a.aop m a.x))
         ∧ (u.op r.op).outs = (s.op r.op).outs ++ a.dst.zipIdx.map fun d => (d.1, BitVec.ofNat 64 (m / 2 ^ (32 * d.2) % 2 ^ 32))))
  ∧ (∀ (n : Nat) (s : State) (a : Atom) (rest : List Atom),
    let r := s.req n
    let key := forward s r.space r.key
    let m := readNat s key r.size
    r.kind = .atomic → r.half = false → mayPerform s n = true → parksHere s n = none → mergeAtoms r.atoms = a :: rest →
    poisoned s r.space key r.size = false → a.aop = 10 →
    ∃ u, exec (.sliceAtomic n) s = .next u ∧ (u.req n).half = true ∧ (u.req n).done = false
      ∧ storedOnly s u key 2 (sliceAdd bf16 (m % 2 ^ 16) (a.x % 2 ^ 16)))
  ∧ (∀ (n : Nat) (s : State) (a : Atom) (rest : List Atom),
    let r := s.req n
    let key := forward s r.space r.key + 2
    let m := readNat s key 2
    r.live = true → r.kind = .atomic → r.half = true → r.inbound = false → pageHeld s r.space r.key = false → r.atoms = a :: rest →
    poisoned s r.space key 2 = false →
    ∃ u, exec (.atomicHighHalf n) s = .next u ∧ (u.req n).half = false ∧ (u.req n).atoms = rest
      ∧ storedOnly s u key 2 (sliceAdd bf16 m (a.x / 2 ^ 16 % 2 ^ 16))
      ∧ (u.op r.op).outs = (s.op r.op).outs
          ++ a.dst.zipIdx.map fun d => (d.1, BitVec.ofNat 64 ((a.cmp + m * 2 ^ 16) / 2 ^ (32 * d.2) % 2 ^ 32)))
  ∧ (∀ (n : Nat) (s : State) (a : Atom) (rest : List Atom),
    let r := s.req n
    r.kind = .atomic → r.half = false → mayPerform s n = true → mergeAtoms r.atoms = a :: rest →
    poisoned s r.space (forward s r.space r.key) r.size = true →
    ∃ u, exec (.sliceAtomic n) s = .next u ∧ u.mem = s.mem ∧ u.poison = s.poison ∧ (∀ j, (u.thread j).regs = (s.thread j).regs)
      ∧ (u.req n).atoms = rest ∧ (∀ l ∈ atomLanes r.atoms, ∃ va, (l, va) ∈ (u.op r.op).struck)
      ∧ (u.op r.op).outs = (s.op r.op).outs)
  ∧ ∀ (n : Nat) (s : State) (a : Atom),
    let k := (s.req n).thr
    (s.req n).kind = .atomic → (s.req n).half = false → mayPerform s n = true → parksHere s n = some a →
    (s.thread k).live = true → (s.thread k).episode = none → a.lane < (s.thread k).width →
    ∃ u, settles (.sliceAtomic n) s k u ∧ u.mem = s.mem
      ∧ ((u.thread k).lane a.lane).state = .parked s.fl.next ∧ (u.fault s.fl.next).miss.access = 2
      ∧ (u.fault s.fl.next).miss.reason = 4 ∧ (u.fault s.fl.next).miss.va = (s.req n).va

/-- `PREF` and `FLUSH` never trap, park or fault; they change no register and of memory at most the A bits of the pages
that `PREF` reads (R174), and move their group on (R191, R193). `PREF` without `.keep` changes no cache but the TLB;
after `FLUSH` the core's L1 holds no sector of the lines named. Evictions and walks change the caches alone; a walk
enters the page that its tables give (R205, R221, R384). -/
def Obligations.HintsChangeOnlyCaches : Prop :=
  (∀ (i : Instr) (f : FM) (s : State) (iss : Issue), i.wellFormed = true → hintTable i = some f →
    runsNow (hintShape f) (fun _ _ => true) iss s → calm s iss (hintShape f) →
    ∃ v u, tookPages (whoOf (s.thread iss.thr)) false
        (if i = .pref f then hintPages s (whoOf (s.thread iss.thr)) (pointAccesses s iss (hintShape f) f) else []) s v
      ∧ leaves i s iss.thr u ∧ movedOn iss.thr iss.lanes 8 s u ∧ aside s u ∧ u.mem = v.mem ∧ u.fl = s.fl
      ∧ (∀ j, j ≠ iss.thr → u.thread j = s.thread j) ∧ kept (u.thread iss.thr) = kept (s.thread iss.thr)
      ∧ bare (u.thread iss.thr).regs = bare (regsOf s iss) ∧ u.ca.tlb = v.ca.tlb
      ∧ (i = .pref f → f.h ≠ 3 → u.ca = v.ca)
      ∧ (i = .flush f → ∀ l a, l < 64 → acts s iss f.g l → a / 256 = fmAddr s iss (hintShape f) f l / 256 →
          look {} u.ca.l1 (l1Key (s.thread iss.thr).core (s.thread iss.thr).ctx a) = {}))
  ∧ (∀ (core ctx va a : Nat) (s : State), a / 256 = va % 2 ^ 56 / 256 →
    ∃ u, exec (.l1Eviction core ctx va) s = .next u ∧ look {} u.ca.l1 (l1Key core ctx a) = {}
      ∧ u = { s with ca := { s.ca with l1 := u.ca.l1, l1data := u.ca.l1data } })
  ∧ (∀ (cluster ctx va : Nat) (s : State),
    ∃ u, exec (.tlbEviction cluster ctx va) s = .next u ∧ u = { s with ca := { s.ca with tlb := u.ca.tlb } }
      ∧ ∀ e, e ∈ u.ca.tlb ↔ e ∈ s.ca.tlb ∧ ¬ (e.cluster = cluster ∧ e.ctx = ctx ∧ e.vpn = va % 2 ^ 56 / 2 ^ 16))
  ∧ ∀ (cluster ctx launch va : Nat) (s : State) (p : Page),
    let who : Who := { ctx, cluster, die := dieOfCluster cluster, launch }
    cluster < 48 → (s.ctx ctx).live = true → va < 2 ^ 56 → inLagoon va = false → tlbFind s who va = none →
    pageOf s who { va } va false = .ok p →
    ∃ u e, exec (.tlbWalk cluster ⟨ctx, launch⟩ va) s = .next u ∧ aside s u ∧ u.mem = s.mem ∧ u.fl = s.fl
      ∧ (∀ j, u.thread j = s.thread j) ∧ u.ca = { s.ca with tlb := u.ca.tlb, leases := u.ca.leases, walks := u.ca.walks }
      ∧ e ∈ u.ca.tlb ∧ e.live = true ∧ e.cluster = cluster ∧ e.ctx = ctx ∧ e.vpn = va / 2 ^ 16
      ∧ e.space = p.space ∧ e.base = p.base ∧ e.flags = p.flags ∧ e.level = p.level

/-- `LMAP` adds a region to its workgroup, or stops its group with the first cause that R194 gives. `LUNMAP` takes one
away, writing its dirty blocks back as one store (R177, R195), or stops with MAPCONF where none is mapped. A fill copies
a granule whole from global memory, poison with it, and no other byte changes but a leaf's A bit (R176). -/
def Obligations.RegionsMapAndFill : Prop :=
  (∀ (f : FM) (s : State) (iss : Issue),
    let sb := f.sb.toNat
    let n := f.off.toNat + 1
    let lag := (scalar s iss sb).toNat % 2 ^ 56
    let glob := (scalar s iss (sb + 1)).toNat % 2 ^ 56
    let w := (s.thread iss.thr).wg
    runsNow { undef := sb == 0 || sb == 63 || decide (192 < n) || f.g != 0, ssrc := [sb, sb + 1], late := true } (fun _ _ => true) iss s →
    plainGroup s iss → iss.lanes ≠ 0 → (s.thread iss.thr).lostScalar sb = false → (s.thread iss.thr).lostScalar (sb + 1) = false →
    ∃ u, leaves (.lmap f) s iss.thr u
      ∧ match lmapFail (s.wg w) lag glob n with
        | some (c, d) => stopsGroup s u iss c (BitVec.ofNat 64 d) ∧ ∀ j, u.wg j = s.wg j
        | none => movedOn iss.thr iss.lanes 8 s u ∧ u.mem = s.mem ∧ u.fl = s.fl ∧ u.ca = s.ca
          ∧ bare (u.thread iss.thr).regs = bare (regsOf s iss) ∧ (∀ j, j ≠ w → u.wg j = s.wg j)
          ∧ u.wg w = { s.wg w with regions := (s.wg w).regions ++ [{ live := true, lagoon := lag, global := glob, count := n }] })
  ∧ (∀ (f : FM) (s : State) (iss : Issue),
    let lag := (scalar s iss f.sb.toNat).toNat % 2 ^ 56
    let w := (s.thread iss.thr).wg
    let who := whoOf (s.thread iss.thr)
    runsNow { undef := f.g != 0, ssrc := [f.sb.toNat], cls := .s } (fun _ _ => true) iss s → plainGroup s iss → iss.lanes ≠ 0 →
    match (s.wg w).regions.find? fun r => r.live && !r.closing && r.lagoon == lag with
    | none => ∃ u, leaves (.lunmap f) s iss.thr u ∧ stopsGroup s u iss .mapConf 0
    | some r => backVerdict s who r = none →
      ∃ v u, tookPages who true (distinct ((regionBlocks r).map fun e => e.2 / 65536 * 65536)) s v
        ∧ leaves (.lunmap f) s iss.thr u ∧ movedOn iss.thr iss.lanes 8 s u ∧ u.mem = v.mem
        ∧ entered s u { live := true, thr := iss.thr, cls := .s, pc := iss.pc, ctx := who.ctx } (backReqs v s.fl.next w who r (s.thread iss.thr).launch)
        ∧ (u.thread iss.thr).cntS = (s.thread iss.thr).cntS + 1 ∧ bare (u.thread iss.thr).regs = bare (regsOf s iss)
        ∧ u.wg w = { s.wg w with regions := (s.wg w).regions.filter fun x => x.lagoon != lag })
  ∧ ∀ (w i granule : Nat) (s : State) (r : Region),
    let who := mapUnit s w
    let src := r.global + granule * 65536
    let first := lagoonKey (lagoonCluster r.lagoon) (r.lagoon % 2 ^ 24) + granule * 65536
    (s.wg w).regions[i]? = some r → r.live = true → r.closing = false → granule < r.count → granule ∉ r.filled →
    engineBad s who false src = none → fillClear s who src = true →
    ∃ v u, tookPage who false (src % 2 ^ 56) s v ∧ exec (.regionFill w i granule) s = .next u
      ∧ ∀ p, translate v who .read src = .ok p →
        let key := forward v p.space p.key
        (∀ k, u.byte k = if first ≤ k ∧ k < first + 65536 then v.byte (key + (k - first)) else v.byte k)
        ∧ (∀ j, j < 1024 → (first + 64 * j ∈ u.poison ↔ poisoned v p.space (key + 64 * j) 64 = true))
        ∧ (∃ q : Region, (u.wg w).regions[i]? = some q ∧ q = { r with filled := granule :: r.filled })
        ∧ ∀ j, u.thread j = s.thread j

/-- `FENCE` at warp scope moves on; at any other it holds its group until the conditions of R211 hold, and the held lanes
then do what they were held for (R100, R210 to R212). `GWCT` writes LGW (R213). `TWAIT` moves on when device time has
reached its sum modulo 2^64 and else holds its group until then (R214). None touches memory. -/
def Obligations.FencesAndTimesHold : Prop :=
  (∀ (f : FB) (s : State) (iss : Issue), runsNow { engines := ctlEngines } (fun _ _ => true) iss s → plainGroup s iss →
    ∃ u, leaves (.fence f) s iss.thr u ∧ lanesTo iss.thr s u (regsOf s iss) fun l x =>
      if inGroup iss l then
        if f.cc = 0 then Lane.advance 8 x
        else { x with hold := .fence (if f.n = 0 then .full else if f.n = 1 then .rel else .acq) f.cc.toNat iss.start .move }
      else x)
  ∧ (∀ (thr lane : Nat) (kind : FenceKind) (scope before : Nat) (next : After) (s : State), mayRelease s thr lane →
    ((s.thread thr).lane lane).hold = .fence kind scope before next → fenceHolds s thr kind scope before = true →
    (s.thread thr).seq = none →
    ∃ u, settles (.fenceRelease thr lane) s thr u ∧ others thr s u ∧ bare (u.thread thr).regs = bare (s.thread thr).regs
      ∧ (u.thread thr).links = (if scope = 7 then 0 else (s.thread thr).links)
      ∧ ∀ l, l < (s.thread thr).width → (u.thread thr).lane l =
          if heldWith s thr lane l then afterFence next ((s.thread thr).lane l) else (s.thread thr).lane l)
  ∧ (∀ (f : FB) (s : State) (iss : Issue), runsNow { engines := ctlEngines, sdst := [f.s.toNat] } storesReturned iss s →
    ∃ u, leaves (.gwct f) s iss.thr u ∧ movedOn iss.thr iss.lanes 8 s u
      ∧ onlyRegs iss.thr s u ((regsOf s iss).setS f.s.toNat (BitVec.ofNat 64 (s.thread iss.thr).lgw)))
  ∧ (∀ (f : FB) (s : State) (iss : Issue),
    let target := ((scalar s iss f.s.toNat).toNat + (f.off.toInt % 2 ^ 64).toNat) % 2 ^ 64
    runsNow { engines := ctlEngines, ssrc := [f.s.toNat] } (fun _ _ => true) iss s → plainGroup s iss →
    ∃ u, leaves (.twait f) s iss.thr u ∧ lanesTo iss.thr s u (regsOf s iss) fun l x =>
      if inGroup iss l then (if target ≤ dtOf s (s.thread iss.thr) then Lane.advance 8 x else { x with hold := .until target }) else x)
  ∧ ∀ (thr lane target : Nat) (s : State), mayRelease s thr lane → ((s.thread thr).lane lane).hold = .until target →
    target ≤ dtOf s (s.thread thr) → (s.thread thr).seq = none →
    ∃ u, settles (.twaitRelease thr lane) s thr u ∧ lanesTo thr s u (s.thread thr).regs fun l x =>
      if heldWith s thr lane l then Lane.advance 8 x else x

end

/-- Loads, stores and atomics check their lanes, strike those that fail and send one operation for those that pass. -/
def Obligations.AccessesAreSent : Prop :=
  Sys2Proof.Claims.LoadsAreSent ∧ Sys2Proof.Claims.StoresAreSent
    ∧ Sys2Proof.Claims.AtomicsAreSent ∧ Sys2Proof.Claims.AccessesAreJudged
    ∧ Sys2Proof.Claims.SomeLanesFail ∧ Sys2Proof.Claims.SomeAtomicsFail

/-- A request in flight is performed on memory, and what it returns lands in its thread. -/
def Obligations.AccessesPerform : Prop :=
  Sys2Proof.Claims.LoadsPerformAndLand ∧ Sys2Proof.Claims.StoresPerformAndReturn
    ∧ Sys2Proof.Claims.AtomicsPerform

namespace Sys2Proof.Claims

open Sys2Proof.Machine Sys2Proof.Safety

/-! ### Row lines and runahead -/

/-- The address sum of `ROPEN`, modulo 2^64 and then 2^56. -/
def openVa (f : FY) (s : State) (iss : Issue) : Nat :=
  ((((scalar s iss f.sa.toNat).toNat : Int) + f.imm.toInt) % 2 ^ 56).toNat

/-- One request to the base die is entered with one scalar result; L rises by one and the group moves on. -/
def asked (s v u : State) (iss : Issue) (act : RowAct) (sd va key : Nat) : Prop :=
  movedOn iss.thr iss.lanes 8 s u ∧ u.mem = v.mem ∧ bare (u.thread iss.thr).regs = bare (regsOf s iss)
    ∧ (u.thread iss.thr).cntL = (s.thread iss.thr).cntL + 1 ∧ (∀ n, (u.ctx n).rows = (s.ctx n).rows)
    ∧ entered s u
        { live := true, thr := iss.thr, cls := .l, lanes := iss.lanes, pc := iss.pc, ctx := (s.thread iss.thr).ctx
          core := (s.thread iss.thr).core, dsts := [.s sd], rowAct := some act }
        [{ live := true, op := s.fl.next, thr := iss.thr, ctx := (s.thread iss.thr).ctx, launch := (s.thread iss.thr).launch
           core := (s.thread iss.thr).core, kind := .row, key, va, size := 1024 }]

/-- A valid handle (R247): a number below 64 whose entry is not free. -/
def isHandle (s : State) (iss : Issue) (r h : Nat) : Prop :=
  (scalar s iss r).toNat = h ∧ h < 64 ∧ (look {} (s.ctx (s.thread iss.thr).ctx).rows h).state ≠ .free

/-- No such entry. -/
def noHandle (s : State) (iss : Issue) (r : Nat) : Prop := ¬ ∃ h, isHandle s iss r h

/-- `LDROW` and `STROW`: the fields, what it names, whether it stores (R251). -/
def rowTable : Instr → Option (FM × Shape × Bool)
  | .ldrow f => some (f, { loadShape f with late := false }, false)
  | .strow f => some (f, { storeShape f with late := false }, true)
  | _ => none

/-- RSTAT after the use of a stale handle: STALE, and COUNT up to 255 (R244, R252). -/
def afterStale (x : W32) : W32 := (x &&& 0xFFFF00FF) ||| BitVec.ofNat 32 (min 255 (x.toNat / 256 % 256 + 1) * 256) ||| 1

/-- A counter instruction's selected counter (R262). -/
def raSelected (t : Thread) (sel : Nat) : Nat :=
  if sel = 0 then t.episodes else if sel = 1 then t.prefetches else if sel = 2 then t.useful else t.rainsts

end Sys2Proof.Claims

section
open Classical
open Sys2Proof Sys2Proof.Machine Sys2Proof.Safety Sys2Proof.Claims

/-- `ROPEN` sends the base die a request for the row line of its address where that address is DEV memory, and else stops
with BADADDR or MEMTYPE (R248). `RRENEW` sends one for a handle's row, and stops with BADROW where none is held or stale
(R247, R249). `RREL` frees the handle, begins the close of a held row and, unless its hold has lapsed, counts as a store
until the row is closed (R250). -/
def Sys2Proof.Claims.RowInstructionsAsk : Prop :=
  (∀ (f : FY) (s : State) (iss : Issue),
    let who := whoOf (s.thread iss.thr)
    let va := openVa f s iss
    runsNow { ssrc := [f.sa.toNat], sdst := [f.sd.toNat], cls := .l, late := true } (fun _ _ => true) iss s → plainGroup s iss → iss.lanes ≠ 0 →
    (inLagoon va = true → ∃ u, leaves (.ropen f) s iss.thr u ∧ stopsGroup s u iss .badAddr (BitVec.ofNat 64 va))
    ∧ (inLagoon va = false → ∀ p, translate s who .read va = .ok p →
        if p.space = .dev then (s.thread iss.thr).lostScalar f.sa.toNat = false →
          ∃ v u, tookPage who false va s v ∧ leaves (.ropen f) s iss.thr u
            ∧ asked s v u iss (.open_ p.canW p.level) f.sd.toNat (va / 1024 * 1024) (p.key / 1024 * 1024)
        else ∃ u, leaves (.ropen f) s iss.thr u ∧ stopsGroup s u iss .memType (BitVec.ofNat 64 va)))
  ∧ (∀ (f : FY) (s : State) (iss : Issue),
    runsNow { ssrc := [f.sa.toNat], sdst := [f.sd.toNat], cls := .l } (fun _ _ => true) iss s → plainGroup s iss → iss.lanes ≠ 0 →
    (∀ h, isHandle s iss f.sa.toNat h → ∃ u, leaves (.rrenew f) s iss.thr u
      ∧ asked s s u iss (.renew h) f.sd.toNat (look {} (s.ctx (s.thread iss.thr).ctx).rows h).va
          (look {} (s.ctx (s.thread iss.thr).ctx).rows h).pa)
    ∧ (noHandle s iss f.sa.toNat → ∃ u, leaves (.rrenew f) s iss.thr u ∧ stopsGroup s u iss .badRow (scalar s iss f.sa.toNat)))
  ∧ ∀ (f : FY) (s : State) (iss : Issue),
    let c := (s.thread iss.thr).ctx
    runsNow { ssrc := [f.sa.toNat], cls := .s } (fun _ _ => true) iss s → plainGroup s iss → iss.lanes ≠ 0 →
    (∀ h, isHandle s iss f.sa.toNat h →
      let row := look {} (s.ctx c).rows h
      ∃ u, leaves (.rrel f) s iss.thr u ∧ movedOn iss.thr iss.lanes 8 s u ∧ u.mem = s.mem
        ∧ bare (u.thread iss.thr).regs = bare (regsOf s iss)
        ∧ (∀ g, look {} (u.ctx c).rows g = if g = h then {} else look {} (s.ctx c).rows g)
        ∧ u.sys.closing = s.sys.closing ++ (if row.state = .held then [(row.pa, s.fl.next)] else [])
        ∧ (if row.state = .held ∧ baseTime s row.pa < row.expiry then
             (u.thread iss.thr).cntS = (s.thread iss.thr).cntS + 1 ∧ (u.op s.fl.next).rowAct = some (.release row.pa)
               ∧ (u.op s.fl.next).cls = .s ∧ (u.op s.fl.next).live = true
           else (u.thread iss.thr).cntS = (s.thread iss.thr).cntS ∧ u.fl = s.fl))
    ∧ (noHandle s iss f.sa.toNat → ∃ u, leaves (.rrel f) s iss.thr u ∧ stopsGroup s u iss .badRow (scalar s iss f.sa.toNat))

/-- The base die answers a request for an open with the handle that holds the row already, with the refusal's code, or
by taking the lowest free handle with an expiry 1,000 ns ahead (R238, R241, R248); a renewal with the new expiry, 1,000
ns ahead, or 0 (R249; log entry 45: of a handle freed meanwhile it is refused and sets LAPSED). A hold whose expiry has
come is stale and its row begins to close (R239); a row is closed after the accesses before (R239, R250). A refresh
gives a subarray its next deadline, an interval of at most 32 ms fixed at training after the base die's time (R240,
R241). No byte of memory changes. -/
def Obligations.RowsAreHeldAndClosed : Prop :=
  (∀ (n : Nat) (s : State) (w : Bool) (level : Nat),
    let r := s.req n
    let pa := forward s .dev r.key
    r.kind = .row → mayPerform s n = true → (s.op r.op).rowAct = some (.open_ w level) →
    ∃ u x, exec (.sliceStore (.req n)) s = .next u ∧ u.mem = s.mem ∧ (∀ j, u.thread j = s.thread j)
      ∧ (u.req n).done = true ∧ (u.op r.op).outs = (s.op r.op).dsts.map (fun d => (d, BitVec.ofInt 64 x))
      ∧ ((∃ e ∈ heldRows s, e.1 = r.ctx ∧ e.2.2.pa = pa) →
          (∃ e ∈ heldRows s, e.1 = r.ctx ∧ e.2.2.pa = pa ∧ x = (e.2.1 : Int)) ∧ ∀ j, u.ctx j = s.ctx j)
      ∧ ((¬ ∃ e ∈ heldRows s, e.1 = r.ctx ∧ e.2.2.pa = pa) →
          match refusal s r.ctx pa with
          | some code => x = code ∧ ∀ j, u.ctx j = s.ctx j
          | none => ∃ h : Nat, x = (h : Int) ∧ h < 64 ∧ (look {} (s.ctx r.ctx).rows h).state = .free
              ∧ (∀ g, g < h → (look {} (s.ctx r.ctx).rows g).state ≠ .free) ∧ (u.req n).gwct = openTime s pa
              ∧ ∀ g, look {} (u.ctx r.ctx).rows g =
                  if g = h then { state := .held, va := r.va, pa, w, level, expiry := baseTime s pa + 1000
                                  opened := baseTime s pa }
                  else look {} (s.ctx r.ctx).rows g))
  ∧ (∀ (n h : Nat) (s : State),
    let r := s.req n
    let row := rowNow s r.ctx h
    let expiry := baseTime s row.pa + 1000
    r.kind = .row → mayPerform s n = true → (s.op r.op).rowAct = some (.renew h) →
    ∃ u, exec (.sliceStore (.req n)) s = .next u ∧ u.mem = s.mem ∧ (u.req n).done = true
      ∧ if row.state = .held ∧ expiry ≤ latestExpiry s row.pa ∧ expiry ≤ row.opened + rowMost
            ∧ channelRefuses s (channelAt s row.pa) = false then
          (u.op r.op).outs = (s.op r.op).dsts.map (fun d => (d, BitVec.ofNat 64 expiry))
            ∧ look {} (u.ctx r.ctx).rows h = { row with expiry }
        else (u.op r.op).outs = (s.op r.op).dsts.map (fun d => (d, 0)) ∧ (u.ctx r.ctx).rows = (s.ctx r.ctx).rows
          ∧ (u.thread r.thr).rstat = (s.thread r.thr).rstat ||| (if row.state = .held then 2 else 4))
  ∧ (∀ (c h : Nat) (s : State),
    let row := look {} (s.ctx c).rows h
    row.state = .held → row.expiry ≤ baseTime s row.pa →
    ∃ u, exec (.rowHoldLapse c h) s = .next u ∧ u.mem = s.mem ∧ look {} (u.ctx c).rows h = { row with state := .stale }
      ∧ u.sys.closing = s.sys.closing ++ [(row.pa, s.fl.next)] ∧ u.fl = s.fl)
  ∧ (∀ (pa q b : Nat) (s : State), s.sys.closing.find? (fun e => e.1 / 1024 == pa / 1024) = some (q, b) → blockQuiet s pa b = true →
    ∃ u, exec (.rowClose pa) s = .next u ∧ u.mem = s.mem ∧ u.sys.closing = s.sys.closing.filter (· != (q, b))
      ∧ ∀ n o, (n, o) ∈ s.fl.ops → o.rowAct = some (.release q) → o = s.op n →
          (u.op n).rowAct = some .access ∧ (u.op n).gwct = baseTime s q + 2)
  ∧ ∀ (pa : Nat) (s : State), rowOpenIn s (subOf pa) = false → rowOpenIn s (partner (subOf pa)) = false →
    0 < refreshInterval (subOf pa) ∧ refreshInterval (subOf pa) ≤ 32000000 ∧
    ∃ u, exec (.subarrayRefresh (subOf pa) pa) s = .next u
      ∧ refreshDeadline u (subOf pa) = baseTime s pa + refreshInterval (subOf pa) ∧ u.mem = s.mem
      ∧ u = { s with sys := { s.sys with refresh := u.sys.refresh } }

/-- `LDROW` and `STROW` through a valid handle whose lanes all pass R251 are served at the row buffer while the row is
held and as `LD` and `ST` once it is stale, which RSTAT records (R238, R244, R251, R252); a handle that is free or
malformed stops the group with BADROW (R247). Memory itself changes only by A and D bits here. -/
def Sys2Proof.Claims.RowAccessesAreSent : Prop :=
  ∀ (i : Instr) (f : FM) (sh : Shape) (store : Bool) (s : State) (iss : Issue), i.wellFormed = true → rowTable i = some (f, sh, store) →
    runsNow sh (rowReady f sh store) iss s → calm s iss sh → plainGroup s iss → iss.lanes ≠ 0 →
    (noHandle s iss f.sb.toNat → ∃ u, leaves i s iss.thr u ∧ stopsGroup s u iss .badRow (scalar s iss f.sb.toNat))
    ∧ ∀ h, isHandle s iss f.sb.toNat h →
      let who := whoOf (s.thread iss.thr)
      let row := rowNow s (s.thread iss.thr).ctx h
      let xs := rowAccesses s iss sh f row
      let acc := xs.map RowAccess.a
      let size := szBytes f.sz
      let rules := rowRules f store
      let held := row.state == .held
      (∀ x ∈ xs, x.q % size = 0 ∧ 0 ≤ x.q ∧ x.q + (f.n.toNat + 1) * size ≤ 1024 ∧ rowJudge s who iss.thr h f row store x.a = none) →
      ∃ v u, tookPages who store (if held || acc.isEmpty then [] else touched (unitsOf s who rules acc)) s v
        ∧ leaves i s iss.thr u ∧ movedOn iss.thr iss.lanes 8 s u ∧ u.mem = v.mem
        ∧ bare (u.thread iss.thr).regs = bare (regsOf s iss)
        ∧ (u.thread iss.thr).rstat =
            (if held || acc.isEmpty then (s.thread iss.thr).rstat else afterStale (s.thread iss.thr).rstat)
        ∧ (let us := if held then rowUnits row acc else unitsOf v who rules acc
           let o := u.op s.fl.next
           if acc = [] then u.fl = s.fl
           else if store then
             (u.thread iss.thr).cntS = (s.thread iss.thr).cntS + 1 ∧ o.cls = .s ∧ o.rowAct = some .access
               ∧ ∀ k (x : UnitAt), us[k]? = some x → u.req (s.fl.next + 1 + k) =
                   { baseReq v iss s.fl.next x with
                     kind := .store, mask := (unitData x (acc.flatMap LaneAccess.pieces)).1
                     data := (unitData x (acc.flatMap LaneAccess.pieces)).2 }
           else
             (u.thread iss.thr).cntL = (s.thread iss.thr).cntL + 1 ∧ o.cls = .l ∧ o.rowAct = some .access
               ∧ o.elems = (acc.flatMap LaneAccess.pieces).map (fun p => { dst := p.dst, bit := p.bit, width := p.width, sext := p.sext })
               ∧ (held = true → ∀ k (x : UnitAt), us[k]? = some x → u.req (s.fl.next + 1 + k) =
                   { baseReq v iss s.fl.next x with kind := .load, acq := true }))

/-- Where some lanes of `LDROW` or `STROW` fail, each is stopped or parked: for ALIGN or BADADDR by its offset in the block;
through a held handle a store to a row whose recorded W is 0 parks with reason 4 (R251); through a stale one as `LD` or
`ST` would (R183, R244). The others make their access as one operation and move on; in a `REP` sequence none does (R86). The
use of a stale handle by a lane whose offset is in range is recorded in RSTAT (R244, R252). -/
def Sys2Proof.Claims.SomeRowLanesFail : Prop :=
  ∀ (i : Instr) (f : FM) (sh : Shape) (store : Bool) (s : State) (iss : Issue) (h : Nat), i.wellFormed = true →
    rowTable i = some (f, sh, store) → runsNow sh (rowReady f sh store) iss s → (s.thread iss.thr).reefUse = [] → realLanes s iss →
    isHandle s iss f.sb.toNat h →
    let who := whoOf (s.thread iss.thr)
    let row := rowNow s (s.thread iss.thr).ctx h
    let xs := rowAccesses s iss sh f row
    let size := szBytes f.sz
    let outside := fun (x : RowAccess) => x.q < 0 ∨ 1024 < x.q + (f.n.toNat + 1) * size
    let meets := fun (x : RowAccess) =>
      if x.q % size ≠ 0 then some (.trap .align (BitVec.ofNat 64 x.a.addr))
      else if outside x then some (.trap .badAddr (BitVec.ofNat 64 x.a.addr))
      else if row.state = .held then
        if store = true ∧ row.w = false then some (.miss { access := 1, reason := 4, level := row.level, va := row.va, row := some h })
        else if x.a.bad = true then some (.trap .poison 0)
        else if store = false ∧ ∃ y ∈ rowUnits row [x.a], poisoned s .dev (forward s .dev y.key) y.size = true ∧ nothingBefore s iss.thr y = true then
          some (.trap .poison (BitVec.ofNat 64 x.a.addr))
        else none
      else judge s who (rowRules f store) (if store then none else some iss.thr) x.a
    let bad := fun (l : Nat) => xs.findSome? fun x => if x.a.lane = l then meets x else none
    let made := if (∃ l, bad l ≠ none) ∧ inSequence (s.thread iss.thr) iss.pc = true then []
      else (xs.map RowAccess.a).filter fun a => decide (bad a.lane = none)
    ∃ v u, tookPages who store (if row.state = .held ∨ made = [] then [] else touched (unitsOf s who (rowRules f store) made)) s v
      ∧ leaves i s iss.thr u ∧ u.mem = v.mem ∧ bare (u.thread iss.thr).regs = bare (regsOf s iss)
      ∧ oneSent s u iss.thr (if store then .s else .l) (made = []) (fun l => l ∈ made.map LaneAccess.lane)
      ∧ (u.thread iss.thr).rstat = (if row.state ≠ .held ∧ ∃ x ∈ xs, x.q % size = 0 ∧ ¬ outside x
          then afterStale (s.thread iss.thr).rstat else (s.thread iss.thr).rstat)
      ∧ someStruck s u iss bad fun _ x y => y = Lane.advance 8 x

/-- `RSTAT` reads and clears the warp's row status, `RSTAT.h` reads a handle's expiry, 0 for a stale and −1 for a free one
(R252, R253); `RACTL` writes the runahead enable and gives the old one (R261); `RASTAT` reads and may zero a runahead
counter (R262). -/
def Sys2Proof.Claims.StatusReads : Prop :=
  (∀ (f : FY) (s : State) (iss : Issue), f.id = 0 → runsNow { sdst := [f.sd.toNat] } (fun iss s => rowsQuiet s iss.thr) iss s →
    ∃ u, leaves (.rstat f) s iss.thr u ∧ movedOn iss.thr iss.lanes 8 s u ∧ others iss.thr s u
      ∧ bare (u.thread iss.thr).regs = bare ((regsOf s iss).setS f.sd.toNat ((s.thread iss.thr).rstat.setWidth 64))
      ∧ (u.thread iss.thr).rstat = (s.thread iss.thr).rstat
          &&& ~~~(BitVec.ofNat 32 (f.imm.toNat % 8 + (if f.imm.toNat / 8 % 2 = 1 then 0xFF00 else 0))))
  ∧ (∀ (f : FY) (s : State) (iss : Issue), f.id ≠ 0 →
    let h := (scalar s iss f.sa.toNat).toNat
    runsNow { ssrc := [f.sa.toNat], sdst := [f.sd.toNat] } (fun _ _ => true) iss s → plainGroup s iss → iss.lanes ≠ 0 →
    if h < 64 then
      ∃ u, leaves (.rstat f) s iss.thr u ∧ movedOn iss.thr iss.lanes 8 s u
        ∧ onlyRegs iss.thr s u ((regsOf s iss).setS f.sd.toNat
            (match (rowNow s (s.thread iss.thr).ctx h).state with
              | .held => BitVec.ofNat 64 (rowNow s (s.thread iss.thr).ctx h).expiry
              | .stale => 0
              | .free => BitVec.allOnes 64))
    else ∃ u, leaves (.rstat f) s iss.thr u ∧ stopsGroup s u iss .badRow (scalar s iss f.sa.toNat))
  ∧ (∀ (f : FY) (s : State) (iss : Issue), runsNow { sdst := [f.sd.toNat] } (fun _ _ => true) iss s →
    ∃ u, leaves (.ractl f) s iss.thr u ∧ movedOn iss.thr iss.lanes 8 s u
      ∧ onlyRegs iss.thr s u
          { ((regsOf s iss).setS f.sd.toNat (if (regsOf s iss).raen then 1 else 0)) with raen := decide (f.imm.toNat % 2 = 1) })
  ∧ ∀ (f : FY) (s : State) (iss : Issue), runsNow { sdst := [f.sd.toNat] } (fun _ _ => true) iss s →
    ∃ u, leaves (.rastat f) s iss.thr u ∧ movedOn iss.thr iss.lanes 8 s u ∧ others iss.thr s u
      ∧ bare (u.thread iss.thr).regs =
          bare ((regsOf s iss).setS f.sd.toNat (BitVec.ofNat 64 (raSelected (s.thread iss.thr) (f.imm.toNat % 4))))
      ∧ ∀ sel, sel < 4 → raSelected (u.thread iss.thr) sel =
          if sel = f.imm.toNat % 4 ∧ f.imm.toNat / 256 % 2 = 1 then 0 else raSelected (s.thread iss.thr) sel

/-- An episode begins with a checkpoint of the warp's registers, the running lanes' live groups and the destinations of
outstanding loads marked invalid, and takes the core's checkpoint buffer (R255, R256). At its end the warp stands where
it stood: scalar, mask and rejoin registers and the live vector registers of its lanes are those of the checkpoint, the
lanes are back at their instructions, the buffer is free, and no byte of memory has changed by it (R259). -/
def Sys2Proof.Claims.EpisodesLeaveNoTrace : Prop :=
  (∀ (thr op : Nat) (s : State), mayRunAhead s thr op = true →
    ∃ u e, exec (.runaheadEntry thr op) s = .next u ∧ (u.thread thr).episode = some e ∧ (u.thread thr).regs = (s.thread thr).regs
      ∧ e.shadow = (s.thread thr).regs ∧ e.trigger = op ∧ e.issued = 0 ∧ e.held = []
      ∧ (∀ l, e.lanesIn.testBit l = true ↔ l < (s.thread thr).width ∧ ((s.thread thr).lane l).live = true
          ∧ ((s.thread thr).lane l).state = .running)
      ∧ (∀ n o r l, (n, o) ∈ s.fl.ops → o.thr = thr → .v r l ∈ o.dsts → 64 * r + l ∈ e.badV)
      ∧ (u.core (s.thread thr).core).ckpt = some thr ∧ u.mem = s.mem ∧ (∀ n, u.req n = s.req n) ∧ u.fl.next = s.fl.next
      ∧ ∀ n, u.op n = if n = op then { s.op n with triggered := true } else s.op n)
  ∧ ∀ (thr : Nat) (s : State) (e : Episode), episodeOver s thr = true → (s.thread thr).episode = some e → e.held = [] → e.lost = false →
    ∃ u, settles (.runaheadExit thr) s thr u ∧ (u.thread thr).episode = none ∧ u.mem = s.mem ∧ u.fl = s.fl ∧ u.ca = s.ca
      ∧ (u.core (s.thread thr).core).ckpt = none ∧ (∀ j, j ≠ thr → u.thread j = s.thread j)
      ∧ (u.thread thr).regs.s = e.shadow.s ∧ (u.thread thr).regs.m = e.shadow.m ∧ (u.thread thr).regs.j = e.shadow.j
      ∧ (u.thread thr).regs.em = e.shadow.em ∧ (u.thread thr).regs.fpctl = e.shadow.fpctl
      ∧ (u.thread thr).regs.fpstat = e.shadow.fpstat
      ∧ (∀ r l, r < (s.thread thr).budget → l < 64 → e.lanesIn.testBit l = true → e.groups.testBit (r / 32) = true →
          (u.thread thr).regs.getV r l = e.shadow.getV r l)
      ∧ (∀ r l, r < (s.thread thr).budget → l < 64 → e.lanesIn.testBit l = false →
          (u.thread thr).regs.getV r l = (s.thread thr).regs.getV r l)
      ∧ ∀ l, l < (s.thread thr).width → (u.thread thr).lane l =
          if e.lanesIn.testBit l = true then
            { (look {} e.shadow.lanes l) with starve := ((s.thread thr).lane l).starve, excluded := ((s.thread thr).lane l).excluded }
          else (s.thread thr).lane l

end

/-- Row instructions ask the base die, and accesses through a handle are made, or strike the lanes that fail. -/
def Obligations.RowInstructions : Prop :=
  Sys2Proof.Claims.RowInstructionsAsk ∧ Sys2Proof.Claims.RowAccessesAreSent
    ∧ Sys2Proof.Claims.SomeRowLanesFail

/-- Status reads return, and a runahead episode leaves no trace. -/
def Obligations.StatusAndEpisodes : Prop :=
  Sys2Proof.Claims.StatusReads ∧ Sys2Proof.Claims.EpisodesLeaveNoTrace

namespace Sys2Proof.Claims

open Sys2Proof.Machine Sys2Proof.Safety

/-! ### Copies and sync words -/

/-- The copies (R266, R267). -/
def copyTable : Instr → Option (FS × Bool)
  | .copy f => some (f, false)
  | .copy2d f => some (f, true)
  | _ => none

/-- The sync word at `a` in two states: counted bytes, generation, target and flags (R272). -/
def syncFields (s : State) (a : Nat) : Nat × Nat × Nat × Nat :=
  let w := readNat s (syncKey a) 16
  (w % 2 ^ 32, w / 2 ^ 32 % 2 ^ 32, w / 2 ^ 64 % 2 ^ 32, w / 2 ^ 96 % 2 ^ 32)

/-- No byte of memory outside the sync word at `a` differs. -/
def onlySync (s u : State) (a : Nat) : Prop := ∀ k, (k < syncKey a ∨ syncKey a + 16 ≤ k) → u.byte k = s.byte k

/-- Counting `b` bytes (R273). -/
def counted (b : Nat) (w : Nat × Nat × Nat × Nat) : Nat × Nat × Nat × Nat :=
  let n := (w.2.1 + b) % 2 ^ 32
  if w.1 = 0 then (w.1, n, w.2.2)
  else (w.1, n % w.1, (w.2.2.1 + n / w.1) % 2 ^ 32, if n / w.1 > 0 ∧ n % w.1 ≠ 0 then w.2.2.2 ||| 1 else w.2.2.2)

/-- The sync instructions: their fields and what they name (R274 to R276). -/
def syncShape (ssrc sdst : List Nat) (cls : Cls) : Shape := { engines := ctlEngines, ssrc, sdst, cls, late := true }

end Sys2Proof.Claims

section
open Classical
open Sys2Proof Sys2Proof.Machine Sys2Proof.Safety Sys2Proof.Claims

/-- `COPY` and `COPY2D` hand their copy to the engine, raise C and hold their group (R265 to R267). A copy that passes
R268 is accepted: it is queued and the group moves on; one that does not is given up, C falls and the group traps or
parks. -/
def Sys2Proof.Claims.CopiesAreAccepted : Prop :=
  (∀ (i : Instr) (f : FS) (two : Bool) (s : State) (iss : Issue), i.wellFormed = true → copyTable i = some (f, two) →
    runsNow { engines := ctlEngines, ssrc := (List.range (if two then 6 else 4)).map (f.sa.toNat + ·), cls := .c, late := true }
      (fun iss s => copyRoom s (s.thread iss.thr).cluster) iss s → plainGroup s iss →
    (∀ n, n < (if two then 6 else 4) → (s.thread iss.thr).lostScalar (f.sa.toNat + n) = false) →
    let r := fun n => scalar s iss (f.sa.toNat + n)
    ∃ u, leaves i s iss.thr u ∧ u.mem = s.mem ∧ u.ca = s.ca ∧ bare (u.thread iss.thr).regs = bare (regsOf s iss)
      ∧ (u.thread iss.thr).cntC = (s.thread iss.thr).cntC + 1 ∧ u.fl.ops = s.fl.ops ∧ u.fl.reqs = s.fl.reqs
      ∧ (∀ l, l < (s.thread iss.thr).width → (u.thread iss.thr).lane l =
          if inGroup iss l then { (s.thread iss.thr).lane l with hold := .copy s.fl.next } else (s.thread iss.thr).lane l)
      ∧ (∀ n, n ≠ s.fl.next → u.copy n = s.copy n)
      ∧ u.copy s.fl.next =
          { live := true, thr := iss.thr, lanes := iss.lanes, slot := (s.thread iss.thr).slot, pc := iss.pc
            ctx := (s.thread iss.thr).ctx, launch := (s.thread iss.thr).launch, cluster := (s.thread iss.thr).cluster
            dst := (r 0).toNat % 2 ^ 56, src := (r 1).toNat % 2 ^ 56
            rows := if two then (r 2).toNat / 2 ^ 32 else 1
            len := if two then (r 2).toNat % 2 ^ 32 else (r 2).toNat
            dpitch := if two then (r 3).toInt else 0, spitch := if two then (r 4).toInt else 0
            sync := (if two then r 5 else r 3).toNat % 2 ^ 56 })
  ∧ ∀ (n : Nat) (s : State),
    let c := s.copy n
    c.live = true → c.accepted = false → c.owner = .thread → copyRoom s c.cluster = true → (s.thread c.thr).live = true →
    (s.thread c.thr).episode = none → (s.thread c.thr).seq = none → c.lanes ≠ 0 →
    (∀ l, c.lanes.testBit l = true → l < (s.thread c.thr).width ∧ l < 64) →
    (∀ m d, (m, d) ∈ s.fl.copies → m < n → d.live = true → d.accepted = false → d.thr ≠ c.thr) →
    match copyBad s c with
    | none => ∃ u, settles (.copyAccept n) s c.thr u ∧ u.copy n = { c with accepted := true }
        ∧ (u.cluster c.cluster).queue = (s.cluster c.cluster).queue ++ [n] ∧ (u.thread c.thr).cntC = (s.thread c.thr).cntC
        ∧ ∀ l, l < (s.thread c.thr).width → (u.thread c.thr).lane l =
            if c.lanes.testBit l then Lane.advance 8 ((s.thread c.thr).lane l) else (s.thread c.thr).lane l
    | some b => ∃ u, settles (.copyAccept n) s c.thr u ∧ u.copy n = {} ∧ u.mem = s.mem
        ∧ (u.thread c.thr).cntC = (s.thread c.thr).cntC - 1
        ∧ ∀ l, l < (s.thread c.thr).width → c.lanes.testBit l = true → ((u.thread c.thr).lane l).state =
            match b with
            | .trap _ _ => .stopped (.record s.fl.next)
            | .miss _ => .parked s.fl.next

/-- The engine reads a source unit into the copy and changes no memory but a leaf's A bit (R229); it writes the bytes of
a destination unit in one store, of a copy that does not overlap itself those read (where rows meet in a byte, one of
theirs), and no other byte but a leaf's A and D bits (R269). A block whose bytes are all written and timed is counted in
the sync word, its generation rising as the count passes the target (R230, R273). A page fault stalls the copy (R268); a
copy with every byte counted is complete: it is gone from the queue and C falls (R270). -/
def Sys2Proof.Claims.CopiesMoveAndComplete : Prop :=
  (∀ (n i : Nat) (dram : Bool) (s : State), (s.copy n).mayRead s i = true →
    ∃ v u, tookPage (s.copy n).who false ((s.copy n).srcOf i % 2 ^ 56) s v
      ∧ exec (.sliceLineRequest (.copy n i) dram) s = .next u ∧ u.mem = v.mem ∧ (∀ j, u.thread j = s.thread j)
      ∧ ∀ x, unitAt v (s.copy n).who .read ((s.copy n).srcOf i) = some x →
          ∀ j, j ∈ (u.copy n).got → j ∉ (s.copy n).got →
            look 0 (u.copy n).buf j = v.byte (forward v x.space x.key + ((s.copy n).srcOf j - x.va)))
  ∧ (∀ (n i : Nat) (s : State), (s.copy n).mayWrite s i = true → (s.copy n).overlaps = false → (s.copy n).spoiled = [] →
    ∃ v u, tookPage (s.copy n).who true ((s.copy n).dstOf i % 2 ^ 56) s v
      ∧ exec (.sliceStore (.copy n i)) s = .next u ∧ (∀ j, u.thread j = s.thread j)
      ∧ ∀ x, unitAt v (s.copy n).who .write ((s.copy n).dstOf i) = some x →
          let at_ := fun j => forward v x.space x.key + ((s.copy n).dstOf j - x.va)
          (∀ j ∈ (s.copy n).batch x, ∃ q ∈ (s.copy n).batch x, (s.copy n).dstOf q = (s.copy n).dstOf j
              ∧ u.byte (at_ j) = look 0 (s.copy n).buf q)
            ∧ ∀ k, (∀ j ∈ (s.copy n).batch x, k ≠ at_ j) → u.byte k = v.byte k)
  ∧ (∀ (n block : Nat) (s : State),
    let c := s.copy n
    c.live = true → c.accepted = true → c.abandoned = false → block < 2 ^ 48 → c.piece block ≠ [] → block ∉ c.pieces → syncServed s c = true →
    (∀ j ∈ c.piece block, c.countable s j = true) →
    ∃ u, exec (.copyPieceCount n block) s = .next u
      ∧ u.copy n = { c with pieces := block :: c.pieces, counted := c.counted + (c.piece block).length }
      ∧ if c.sync = 0 then u.mem = s.mem
        else syncFields u c.sync = counted (c.piece block).length (syncFields s c.sync) ∧ onlySync s u c.sync)
  ∧ (∀ (n i : Nat) (m : Miss) (s : State),
    let c := s.copy n
    c.runs = true → i < c.total → syncServed s c = true → c.stopAt s i = some (.miss m) →
    ∃ u, exec (.copyPageFault n i) s = .next u ∧ (u.copy n).stalled = some s.fl.next ∧ (u.fault s.fl.next).live = true
      ∧ (u.fault s.fl.next).who = .copy n ∧ (u.fault s.fl.next).miss = m ∧ (u.fault s.fl.next).agent = 3)
  ∧ ∀ (n : Nat) (s : State),
    let c := s.copy n
    c.live = true → c.accepted = true → c.abandoned = false → c.counted = c.total → syncServed s c = true → c.owner = .thread →
    ∃ u, exec (.copyComplete n) s = .next u ∧ u.copy n = {} ∧ u.mem = s.mem
      ∧ u.thread c.thr = { s.thread c.thr with cntC := (s.thread c.thr).cntC - 1 }
      ∧ (u.cluster c.cluster).queue = (s.cluster c.cluster).queue.filter (· != n)

/-- `SYNCINIT` sends a store of its target that, when performed, clears the count and the flags and keeps the generation
(R274). `SYNCWAIT` holds its group until the word's generation differs from its operand, which it then writes to sd before
an acquire at device scope (R230, R275). `SYNCRD` loads the word from its slice, never from L1 (R276). An address that
fails R274 stops the group. -/
def Obligations.SyncWordsCountAndWait : Prop :=
  (∀ (f : FS) (s : State) (iss : Issue),
    let a := (scalar s iss f.sa.toNat).toNat % 2 ^ 56
    runsNow (syncShape (fsReads f) [] .s) (syncReady f) iss s → plainGroup s iss → iss.lanes ≠ 0 →
    (s.thread iss.thr).lostScalar f.sa.toNat = false → (f.i = 0 → (s.thread iss.thr).lostScalar f.sb.toNat = false) →
    match syncVerdict f none iss s with
    | none => ∃ u, leaves (.syncinit f) s iss.thr u ∧ movedOn iss.thr iss.lanes 8 s u ∧ u.mem = s.mem
        ∧ (u.thread iss.thr).cntS = (s.thread iss.thr).cntS + 1 ∧ bare (u.thread iss.thr).regs = bare (regsOf s iss)
        ∧ (u.op s.fl.next).live = true ∧ (u.op s.fl.next).cls = .s
        ∧ u.req (s.fl.next + 1) =
            { live := true, op := s.fl.next, thr := iss.thr, ctx := (s.thread iss.thr).ctx, launch := (s.thread iss.thr).launch
              kind := .syncInit, space := .lagoon, key := syncKey a, va := a, size := 16
              data := (secondOperand f s iss).toNat % 2 ^ 32 }
    | some (.trap c d) => ∃ u, leaves (.syncinit f) s iss.thr u ∧ stopsGroup s u iss c d
    | some (.miss _) => True)
  ∧ (∀ (n a : Nat) (s : State), (s.req n).kind = .syncInit → mayPerform s n = true → (s.req n).key = syncKey a →
    ∃ u, exec (.sliceStore (.req n)) s = .next u ∧ onlySync s u a
      ∧ syncFields u a = ((s.req n).data % 2 ^ 32, 0, (syncFields s a).2.2.1, 0))
  ∧ (∀ (f : FS) (s : State) (iss : Issue), runsNow (syncShape [f.sa.toNat, f.sb.toNat] [f.sd.toNat] .none) (syncReady f) iss s →
    plainGroup s iss → syncVerdict f none iss s = none →
    (s.thread iss.thr).lostScalar f.sa.toNat = false → (s.thread iss.thr).lostScalar f.sb.toNat = false →
    ∃ u, leaves (.syncwait f) s iss.thr u ∧ lanesTo iss.thr s u (regsOf s iss) fun l x =>
      if inGroup iss l then { x with hold := .sync f.sd.toNat ((scalar s iss f.sa.toNat).toNat % 2 ^ 56)
                                                  ((scalar s iss f.sb.toNat).toNat % 2 ^ 32) } else x)
  ∧ (∀ (thr lane sd a gen : Nat) (s : State), mayRelease s thr lane → ((s.thread thr).lane lane).hold = .sync sd a gen →
    unfilled s a = none → (syncFields s a).2.2.1 ≠ gen →
    ∃ u, settles (.syncwaitRelease thr lane) s thr u
      ∧ lanesTo thr s u ((s.thread thr).regs.setS sd (BitVec.ofNat 64 (syncFields s a).2.2.1)) fun l x =>
          if heldWith s thr lane l then { x with hold := .fence .acq 5 s.fl.next .done } else x)
  ∧ ∀ (f : FS) (s : State) (iss : Issue),
    let a := (scalar s iss f.sa.toNat).toNat % 2 ^ 56
    runsNow (syncShape [f.sa.toNat] [f.sd.toNat] .l) (syncReady f) iss s → plainGroup s iss → syncVerdict f (some iss.thr) iss s = none →
    (s.thread iss.thr).lostScalar f.sa.toNat = false →
    ∃ u, leaves (.syncrd f) s iss.thr u ∧ movedOn iss.thr iss.lanes 8 s u ∧ u.mem = s.mem
      ∧ (u.thread iss.thr).cntL = (s.thread iss.thr).cntL + 1 ∧ bare (u.thread iss.thr).regs = bare (regsOf s iss)
      ∧ (u.op s.fl.next).sync = some f.imm.toNat
      ∧ (u.op s.fl.next).elems = [{ dst := .s f.sd.toNat, bit := if f.imm = 0 then 8 * a + 32 else 8 * a, width := 64 }]
      ∧ (∃ r, u.req (s.fl.next + 1) = r ∧ r.kind = .load ∧ r.acq = true ∧ r.va ≤ a ∧ a + 16 ≤ r.va + r.size)

end

/-- Copies are accepted, move their bytes and complete. -/
def Obligations.CopiesRun : Prop :=
  Sys2Proof.Claims.CopiesAreAccepted ∧ Sys2Proof.Claims.CopiesMoveAndComplete

namespace Sys2Proof.Claims

open Sys2Proof.Machine Sys2Proof.Safety

/-! ### Access threads -/

/-- The entry of a push is reserved at its port and its loads are sent (R278, R280): one operation for the elements. -/
def pushed (s u : State) (iss : Issue) (f : FM) (as : List LaneAccess) : Prop :=
  let w := accompanied (s.thread iss.thr)
  movedOn iss.thr iss.lanes 8 s u ∧ bare (u.thread iss.thr).regs = bare (regsOf s iss)
    ∧ (∀ q, q < 4 → (u.thread w).queue q =
        (s.thread w).queue q ++ (if q = portPushed f then [{ id := s.fl.next }] else []))
    ∧ (u.thread w).regs = (s.thread w).regs
    ∧ (u.op s.fl.next).live = true ∧ (u.op s.fl.next).thr = iss.thr ∧ (u.op s.fl.next).cls = .q ∧ (u.op s.fl.next).poison = 0
    ∧ (u.op s.fl.next).elems = (as.flatMap LaneAccess.pieces).map fun p => { dst := p.dst, bit := p.bit, width := p.width, sext := p.sext }

/-- The element of an entry for a lane. -/
def elementFor (o : Op) (id l : Nat) (old : W32) : W32 :=
  match o.elems.reverse.find? (fun e => match e.dst with | .q _ n m => n == id && m == l | _ => false) with
  | some e => (elemValue o e).setWidth 32
  | none => old

/-- Vector instructions whose source fields may name ports (R38), with what they name. -/
noncomputable def portTable (s : State) (iss : Issue) (i : Instr) : Option Shape :=
  ((laneTable i).map LaneForm.shape).or (((exchangeTable i).map fun F => F.shape s iss).or ((arithmeticTable i).map FloatForm.shape))

/-- How many source fields name port `q` (R38). -/
def fieldsAt (fields : List Nat) (q : Nat) : Nat := fields.countP fun r => r == 1020 + q

end Sys2Proof.Claims

section
open Classical
open Sys2Proof Sys2Proof.Machine Sys2Proof.Safety Sys2Proof.Claims

/-- `QLD` reserves the next entry of its port and loads one element for each lane below the width whose EM bit is set,
from the address of R280; `QLDROW` does so through a held row at its buffer, and as `QLD` once the row is stale (R244,
R251, R280). An entry whose elements have all arrived is filled with them, those of poisoned units marked so (R278,
R280). `QDROP` removes entries from a port (R282). None writes memory beyond A bits. -/
def Sys2Proof.Claims.QueueEntriesFillAndDrop : Prop :=
  (∀ (f : FM) (s : State) (iss : Issue),
    let t := s.thread iss.thr
    let acc := qldAccesses f iss s 0
    runsNow { engines := [.access], ssrc := [f.sb.toNat] }
      (fun iss s => portRoom f iss s && accessReady (pushRules f) (fun iss s => qldAccesses f iss s 0) iss s) iss s →
    iss.thr ≠ accompanied t → (∀ a ∈ acc, judge s (whoOf t) (pushRules f) none a = none) →
    ∃ v u, tookPages (whoOf t) false (if acc.isEmpty then [] else touched (unitsOf s (whoOf t) (pushRules f) acc)) s v
      ∧ leaves (.qld f) s iss.thr u ∧ u.mem = v.mem
      ∧ pushed s u iss f (qldAccesses f iss s s.fl.next)
      ∧ ∀ a ∈ qldAccesses f iss s s.fl.next,
          a.addr = (((scalar s iss f.sb.toNat).toNat + f.off.toInt + (a.lane * f.vx.toNat * 2 ^ f.sz.toNat : Nat)) % 2 ^ 56).toNat
            ∧ a.lane < (s.thread (accompanied t)).width ∧ (s.thread (accompanied t)).regs.em.getLsbD a.lane = true)
  ∧ (∀ (f : FM) (s : State) (iss : Issue), runsNow { engines := [.access], ssrc := [f.sb.toNat] } (portRoom f) iss s →
    plainGroup s iss → iss.lanes = 1 → iss.thr ≠ accompanied (s.thread iss.thr) →
    (noHandle s iss f.sb.toNat → ∃ u, leaves (.qldrow f) s iss.thr u ∧ stopsGroup s u iss .badRow (scalar s iss f.sb.toNat))
    ∧ ∀ h, isHandle s iss f.sb.toNat h →
      let who := whoOf (s.thread iss.thr)
      let row := rowNow s (s.thread iss.thr).ctx h
      let xs := qldrowAccesses f iss s row 0
      let acc := xs.map RowAccess.a
      let held := row.state == .held
      let units := fun (s : State) (a : List LaneAccess) => if held then rowUnits row a else unitsOf s who (pushRules f) a
      (∀ x ∈ xs, x.q % szBytes f.sz = 0 ∧ 0 ≤ x.q ∧ x.q + szBytes f.sz ≤ 1024
        ∧ (held = false → judge s who (pushRules f) none x.a = none)) →
      ∃ v u, tookPages who false (if held || acc.isEmpty then [] else touched (units s acc)) s v
        ∧ leaves (.qldrow f) s iss.thr u ∧ u.mem = v.mem
        ∧ pushed s u iss f ((qldrowAccesses f iss s row s.fl.next).map RowAccess.a))
  ∧ (∀ (n : Nat) (s : State),
    let w := accompanied (s.thread (s.op n).thr)
    (s.op n).live = true → (s.op n).cls = .q → (∀ m r, (m, r) ∈ s.fl.reqs → r.op = n → r.done = true) →
    ∃ u, exec (.queueEntryFill n) s = .next u ∧ u.mem = s.mem ∧ u.op n = {} ∧ (∀ j, j ≠ w → u.thread j = s.thread j)
      ∧ (u.thread w).regs = (s.thread w).regs
      ∧ ∀ (q i : Nat) (e : Entry), q < 4 → ((s.thread w).queue q)[i]? = some e →
          ∃ e' : Entry, ((u.thread w).queue q)[i]? = some e' ∧ e'.id = e.id
            ∧ (e.id ≠ n ∨ e.filled = true → e' = e)
            ∧ (e.id = n → e.filled = false → e'.filled = true ∧ e'.poison = (s.op n).poison
                ∧ ∀ l, look 0 e'.values l = elementFor (s.op n) n l 0))
  ∧ ∀ (f : FS) (s : State) (iss : Issue),
    let p := f.imm.toNat % 4
    let k := f.imm.toNat / 256 + 1
    runsNow { undef := noPorts s }
      (fun iss s => (s.thread (accessKey (s.thread iss.thr).core (s.thread iss.thr).slot)).ended
        || (decide (k ≤ ((s.thread iss.thr).queue p).length) && (((s.thread iss.thr).queue p).take k).all fun e => e.filled)) iss s →
    ∃ u, leaves (.qdrop f) s iss.thr u ∧ movedOn iss.thr iss.lanes 8 s u ∧ onlyRegs iss.thr s u (regsOf s iss)
      ∧ ∀ q, q < 4 → (u.thread iss.thr).queue q = if q = p then ((s.thread iss.thr).queue q).drop k else (s.thread iss.thr).queue q

/-- A source field that names a port reads the oldest entry that no earlier field of the instruction takes (R38, R278); the
instruction then removes the entries that its fields took, also with an empty Active(g), and waits while one of them is not
filled (R116, R278, R279). Where the access thread has ended and a port holds too few, its group traps QUNDER with the
lowest such port (R279). A lane whose source is marked poisoned traps POISON, and the others write (R115, R279, R379). -/
def Sys2Proof.Claims.PortsPopAndUnderrun : Prop :=
  (∀ (s : State) (iss : Issue) (sh : Shape) (i q l : Nat) (e : Entry), hasPorts s (s.thread iss.thr) = true → q < 4 →
    sh.vsrc[i]? = some (1020 + q) → ((s.thread iss.thr).queue q)[fieldsAt (sh.vsrc.take i) q]? = some e →
    operand s iss sh i l = look 0 e.values l)
  ∧ (∀ (i : Instr) (sh : Shape) (s : State) (iss : Issue), i.wellFormed = true → portTable s iss i = some sh →
    hasPorts s (s.thread iss.thr) = true → runsNow sh (fun _ _ => true) iss s → calm s iss sh → plainGroup s iss →
    (sourceRegs s iss).fpctl.toNat / 2 ^ 8 % 2 ^ 5 = 0 → 0 < (s.thread iss.thr).width →
    ∃ u, leaves i s iss.thr u ∧ ∀ q, q < 4 → (u.thread iss.thr).queue q = ((s.thread iss.thr).queue q).drop (fieldsAt sh.vsrc q))
  ∧ (∀ (i : Instr) (sh : Shape) (s : State) (iss : Issue) (q : Nat), i.wellFormed = true → portTable s iss i = some sh →
    hasPorts s (s.thread iss.thr) = true → s.cur = some iss → decodeTrap s iss sh = none → (s.thread iss.thr).episode = none → q < 4 →
    let t := s.thread iss.thr
    let short := fun q => (t.queue q).length < fieldsAt sh.vsrc q
    ((s.thread (accessKey t.core t.slot)).ended = true → short q → (∀ p, p < q → ¬ short p) → plainGroup s iss → iss.lanes ≠ 0 →
      ∃ u, leaves i s iss.thr u ∧ stopsGroup s u iss .qUnder (BitVec.ofNat 64 q)
        ∧ ∀ p, p < 4 → (u.thread iss.thr).queue p = t.queue p)
    ∧ ((s.thread (accessKey t.core t.slot)).ended = false →
      (short q ∨ ∃ e ∈ (t.queue q).take (fieldsAt sh.vsrc q), e.filled = false) → exec i s = .next s))
  ∧ ∀ (i : Instr) (F : LaneForm) (s : State) (iss : Issue), i.wellFormed = true → laneTable i = some F →
    runsNow F.shape (fun _ _ => true) iss s → (s.thread iss.thr).reefUse = [] → realLanes s iss →
    let bad := fun (l : Nat) => if acts s iss F.g l ∧ poisonedLane s iss F.shape l = true then some (Bad.trap .poison 0) else none
    let wait := (∃ l, bad l ≠ none) ∧ inSequence (s.thread iss.thr) iss.pc = true
    ∃ u, leaves i s iss.thr u ∧ u.mem = s.mem ∧ someStruck s u iss bad (fun _ x y => y = Lane.advance 8 x)
      ∧ bare (u.thread iss.thr).regs = bare ((regsOf s iss).setLanes F.d.toNat
          (((activeLanes s iss F.shape).filter fun l => decide (bad l = none ∧ ¬wait)).map fun l =>
            (l, F.op (sourceValues s iss F.shape l))))

/-- `AELOOP` with a count opens a loop, at most four deep, and with none skips the body; `AEEND` adds sa to sd and goes back
to the word after the `AELOOP`, leaves the loop at its last turn, or ends the thread where no loop is open (R281). -/
def Sys2Proof.Claims.AccessLoopsTurn : Prop :=
  (∀ (f : FS) (s : State) (iss : Issue),
    let n : Int := if f.i = 1 then f.imm.toInt else ((scalar s iss f.sb.toNat).setWidth 32).toInt
    let t := s.thread iss.thr
    runsNow { engines := [.access], ssrc := if f.i = 1 then [] else [f.sb.toNat] } (fun _ _ => true) iss s → plainGroup s iss →
    iss.lanes ≠ 0 →
    ∃ u, leaves (.aeloop f) s iss.thr u
      ∧ if n ≤ 0 then movedOn iss.thr iss.lanes 8 s u ∧ (u.thread iss.thr).skip = 1 ∧ (u.thread iss.thr).loops = t.loops
          ∧ bare (u.thread iss.thr).regs = bare (regsOf s iss)
        else if 4 ≤ t.loops.length then stopsGroup s u iss .undef 0
        else movedOn iss.thr iss.lanes 8 s u ∧ bare (u.thread iss.thr).regs = bare (regsOf s iss)
          ∧ (u.thread iss.thr).skip = t.skip
          ∧ (u.thread iss.thr).loops = { count := n.toNat, sd := f.sd.toNat, sa := f.sa.toNat, back := iss.pc + 8
                                         header := (t.lane 0).header, word := (t.lane 0).word } :: t.loops)
  ∧ ∀ (f : FS) (s : State) (iss : Issue),
    let t := s.thread iss.thr
    runsNow { engines := [.access] } (fun _ _ => true) iss s → plainGroup s iss →
    ∃ u, leaves (.aeend f) s iss.thr u ∧ others iss.thr s u
      ∧ match t.loops with
        | [] => (u.thread iss.thr).ended = true ∧ bare (u.thread iss.thr).regs = bare (regsOf s iss)
        | p :: rest =>
          bare (u.thread iss.thr).regs = bare ((regsOf s iss).setS p.sd ((regsOf s iss).getS p.sd + (regsOf s iss).getS p.sa))
            ∧ (u.thread iss.thr).ended = t.ended
            ∧ if 1 < p.count then
                (u.thread iss.thr).loops = { p with count := p.count - 1 } :: rest
                  ∧ ((u.thread iss.thr).lane 0).pc = p.back ∧ ((u.thread iss.thr).lane 0).header = p.header
              else (u.thread iss.thr).loops = rest ∧ movedOn iss.thr iss.lanes 8 s u

end

/-- The access engine fills and drops queue entries and turns its loops, and vector instructions pop them. -/
def Obligations.AccessEngineRuns : Prop :=
  Sys2Proof.Claims.QueueEntriesFillAndDrop ∧ Sys2Proof.Claims.AccessLoopsTurn
    ∧ Sys2Proof.Claims.PortsPopAndUnderrun

namespace Sys2Proof.Claims

open Classical Sys2Proof.Machine Sys2Proof.Safety

/-! ### The Reef array -/

/-- The slot loads, by the minor of their row (R302). -/
def slotLoadTable : Instr → Option (FT × Nat)
  | .rloadbQ4 f => some (f, 0)
  | .rloadbE4m3 f => some (f, 1)
  | .rloadbE5m2 f => some (f, 2)
  | .rloadbE3m2 f => some (f, 3)
  | .rloadbE2m3 f => some (f, 4)
  | .rloadbI8 f => some (f, 5)
  | .rloadbBf16 f => some (f, 6)
  | .rcode f => some (f, 7)
  | _ => none

/-- The multiplications: their format, and whether they use the pair (R302). -/
def macTable : Instr → Option (FT × Nat × Bool)
  | .rmacI8 f => some (f, 0, false)
  | .rmacE4m3 f => some (f, 1, false)
  | .rmacE5m2 f => some (f, 2, false)
  | .rmacBf16 f => some (f, 3, false)
  | .rmacpI8 f => some (f, 0, true)
  | .rmacpE4m3 f => some (f, 1, true)
  | .rmacpE5m2 f => some (f, 2, true)
  | .rmacpBf16 f => some (f, 3, true)
  | _ => none

/-- What a slot load names. -/
def slotLoadShape (s : State) (f : FT) (fmt : Nat) : Shape :=
  { undef := narrowWarp s, g := f.g.toNat, vmore := loadScales f fmt, cls := .t, tensor := true, late := true
    ssrc := f.sx.toNat :: (if f.sp = 0 ∨ fmt = 7 then [] else [f.sp.toNat]) }

/-- What a drain names: its registers only where its operands cannot make it trap UNDEF first (R6, R308). -/
def drainShape (s : State) (f : FT) : Shape :=
  { reefShape s f with vmore := if drainRanged f s then drainRegs f else [], ssrc := regsFrom f.sx.toNat 5, cls := .s, late := true }

/-- What the other instructions of group 0xB name, and when they are ready, for the case of an empty mask. -/
def reefTable (s : State) : Instr → Option (FT × Shape)
  | .rfence f => some (f, reefShape s f)
  | .rdrain f => some (f, drainShape s f)
  | .rpair f => some (f, reefShape s f)
  | .rstatReef f => some (f, { reefShape s f with sdst := [f.sx.toNat] })
  | _ => none

/-- A launch becomes the owner of an array that has none, with empty slots (R286, R287). -/
def claimed (s u : State) (t : Thread) (core : Nat) : Prop :=
  if (s.core core).owner = none then (u.core core).owner = some t.launchOf ∧ (u.core core).slots = []
  else (u.core core).owner = (s.core core).owner ∧ (u.core core).slots = (s.core core).slots

/-- The owner of an array, if there is one, still has a workgroup on the core. -/
def ownerStays (s : State) (core : Nat) : Prop :=
  ∀ o, (s.core core).owner = some o → residentOn s core o.1 o.2 = true

/-- T falls by one for the thread of an operation, if it is still there. -/
def tFalls (s u : State) (k : Nat) : Prop :=
  (u.thread k).cntT = if (s.thread k).live then (s.thread k).cntT - 1 else (s.thread k).cntT

/-- A byte as a two's-complement integer. -/
def signedByte (x : Nat) : Int := (BitVec.ofNat 8 x).toInt

/-- Element (r, k) of an 8-bit A tile: byte i of lane 4r + q of the tile's register j, where k = 16q + 4j + i (R290). -/
def tileByte (o : ReefOp) (r k : Nat) : Nat :=
  (look (0 : W32) (o.avals.getD (k % 16 / 4) []) (4 * r + k / 16)).toNat / 2 ^ (8 * (k % 4)) % 2 ^ 8

/-- Element (r, k) of a BF16 A tile: half h of lane 4r + q of the tile's register j, where k = 16q + 2j + h (R290). -/
def tileHalf (o : ReefOp) (r k : Nat) : Nat :=
  (look (0 : W32) (o.avals.getD (k % 16 / 2) []) (4 * r + k / 16)).toNat / 2 ^ (16 * (k % 2)) % 2 ^ 16

/-- A result is a number. -/
def Result.isNum : Result → Prop
  | .num _ _ => True
  | _ => False

/-- The number of a result. -/
def Result.number : Result → ℚ
  | .num q _ => q
  | _ => 0

/-- Element (r, k) of the A tile, at its exact value (R290, R293, R306). -/
def tileA (o : ReefOp) (r k : Nat) : Result :=
  match o.fmt with
  | 0 => .num (signedByte (tileByte o r k)) false
  | 1 => .of (valueOf e4m3 (tileByte o r k))
  | 2 => .of (valueOf e5m2 (tileByte o r k))
  | _ => .of (valueOf bf16 (tileHalf o r k))

/-- Element (k, n) of a slot by its tag: a codebook entry, a code of a narrow format, BF16, or an integer (R287, R293). -/
def tileB (t : Slot) (k n : Nat) : Result :=
  let code := look 0 t.store (64 * k + n)
  match t.tag with
  | 1 => .of (valueOf bf16 (look 0 t.code code))
  | 2 => .of (valueOf e4m3 code)
  | 3 => .of (valueOf e5m2 code)
  | 4 => .of (valueOf e3m2 code)
  | 5 => .of (valueOf e2m3 code)
  | 7 => .of (valueOf bf16 code)
  | _ => .num (signedByte code) false

/-- The A scale of row `r` and block `b`: lane 2r + b of the scale register, under bs (R149, R291). -/
def rowScale (o : ReefOp) (r b : Nat) : Nat := (look (0 : W32) (o.scales.getD 0 []) (2 * r + b)).toNat / 2 ^ (8 * o.bs) % 2 ^ 10

/-- The A elements of block `b` as the array uses them, whole numbers times f (R294). -/
def blockSplit (o : ReefOp) (r b : Nat) (whole : Nat → ℚ) (f : ℚ) : Prop :=
  let a := fun k => (tileA o r (32 * b + k)).number
  let w : Int := if o.fmt = 3 then 16 else 8
  if o.fmt = 0 then f = 1 ∧ ∀ k, k < 32 → whole k = a k
  else if ∀ k, k < 32 → a k = 0 then f = 0
  else ∃ e : Int, (∀ k, k < 32 → |a k| < (2 : ℚ) ^ (e + 1)) ∧ (∃ k, k < 32 ∧ (2 : ℚ) ^ e ≤ |a k|)
    ∧ f = (2 : ℚ) ^ (e - (w - 2)) ∧ ∀ k, k < 32 → whole k = wholeBy 1 (a k * (2 : ℚ) ^ (w - 2 - e))

/-- Block `b` adds its term to an accumulator, with the flags of its one rounding (R294, R296). -/
def addsBlock (o : ReefOp) (t : Slot) (r n b : Nat) (acc new : W32) (flags : Nat) : Prop :=
  ∃ (whole : Nat → ℚ) (f sa sb : ℚ), blockSplit o r b whole f
    ∧ scaleNumber (rowScale o r b) = some sa ∧ scaleNumber (t.scaleB b n) = some sb ∧
    let term := ((List.range 32).map fun k => whole k * (tileB t (32 * b + k) n).number).sum * f * sa * sb
    if term = 0 then new = acc ∧ flags = 0
    else ∃ code fl, roundsTo fp32 {} 0 (sumOf 0 [.of (valueOf fp32 acc.toNat), .num term false]).1 False code fl
      ∧ new = BitVec.ofNat 32 code
      ∧ flags = (if flagged fl 4 then 1 else 0) + (if flagged fl 3 then 2 else 0) + (if flagged fl 2 then 4 else 0)

end Sys2Proof.Claims

section
open Classical
open Sys2Proof Sys2Proof.Machine Sys2Proof.Safety Sys2Proof.Claims

/-- A slot load that nothing stops sends the loads of its tile, claims the array, raises T and holds its group until the
bytes have arrived (R286, R304, R305); it is then accepted and the group moves on. Its write puts element (k, n) where the
tile has it, with the tag and the scales, or the 16 codebook entries, into its slot, and T falls (R287, R291, R304, R305).
What stops it stops the group. -/
def Sys2Proof.Claims.SlotLoadsFillSlots : Prop :=
  (∀ (i : Instr) (f : FT) (fmt : Nat) (s : State) (iss : Issue), i.wellFormed = true → slotLoadTable i = some (f, fmt) →
    let t := s.thread iss.thr
    runsNow (slotLoadShape s f fmt) (loadReady f fmt) iss s → calm s iss (slotLoadShape s f fmt) → plainGroup s iss →
    if active s iss f.g.toNat = 0 then
      ∃ u, leaves i s iss.thr u ∧ movedOn iss.thr iss.lanes 8 s u ∧ onlyRegs iss.thr s u (regsOf s iss)
    else match loadVerdict f fmt s iss with
    | some (.trap c d) => ∃ u, leaves i s iss.thr u ∧ stopsGroup s u iss c d
    | some (.miss _) => True
    | none =>
      let ps := tilePieces f fmt s iss
      ∃ v u, tookPages (whoOf t) false (touched (pieceUnits s t .read ps)) s v
        ∧ leaves i s iss.thr u ∧ u.mem = v.mem ∧ bare (u.thread iss.thr).regs = bare (regsOf s iss)
        ∧ (u.thread iss.thr).cntT = t.cntT + 1 ∧ claimed s u t t.core
        ∧ (u.op s.fl.next).live = true ∧ (u.op s.fl.next).cls = .t ∧ (u.op s.fl.next).reef = some (loadOp f fmt s iss)
        ∧ (∀ x ∈ pieceUnits v t .read ps, l1Serves v t iss.thr x = false → ∃ n, s.fl.next < n ∧ (u.req n).op = s.fl.next
            ∧ (u.req n).kind = .load ∧ (u.req n).space = x.space ∧ (u.req n).key = x.key ∧ (u.req n).va = x.va)
        ∧ ∀ l, l < t.width → (u.thread iss.thr).lane l =
            if inGroup iss l then { t.lane l with hold := .tile s.fl.next } else t.lane l)
  ∧ (∀ (id : Nat) (s : State) (r : ReefOp),
    let o := s.op id
    let t := s.thread o.thr
    o.live = true → o.reef = some r → r.accepted = false → o.poison = 0 → answered s id = true → gated s o.thr = false →
    t.live = true → t.episode = none → t.seq = none → queueRoom s r.core = true → loadsAhead s r.core id = false →
    ∃ u, settles (.loadComplete id) s o.thr u ∧ (u.op id).reef = some { r with accepted := true }
      ∧ (u.core r.core).queue = (s.core r.core).queue ++ [id] ∧ u.mem = s.mem
      ∧ ∀ l, l < t.width → (u.thread o.thr).lane l =
          if (t.lane l).live = true ∧ (t.lane l).state = .running ∧ (t.lane l).hold = .tile id then Lane.advance 8 (t.lane l)
          else t.lane l)
  ∧ (∀ (id : Nat) (s : State) (r : ReefOp), (s.op id).reef = some r → r.kind = .loadB → writeMay s id = true → r.clash = false →
    ownerStays s r.core →
    ∃ u, exec (.reefSlotWrite id) s = .next u ∧ u.op id = {} ∧ u.mem = s.mem ∧ tFalls s u (s.op id).thr
      ∧ (u.core r.core).queue = (s.core r.core).queue.filter (· != id)
      ∧ (slotOf u r.core r.slot).tag = r.fmt + 1 ∧ (∀ j, j ≠ r.slot → slotOf u r.core j = slotOf s r.core j)
      ∧ (∀ k n, k < 64 → n < 64 → look 0 (slotOf u r.core r.slot).store (64 * k + n) =
          bitsOf (s.op id).bytes (8 * ((r.x + k * r.pitch) % 2 ^ 56) + tileBits r.fmt * n) (tileBits r.fmt))
      ∧ ∀ b n, b < 2 → n < 64 → (slotOf u r.core r.slot).scaleB b n =
          (look (0 : W32) (r.scales.getD ((2 * n + b) / 64) []) ((2 * n + b) % 64)).toNat / 2 ^ (8 * r.bs) % 2 ^ 10)
  ∧ ∀ (id : Nat) (s : State) (r : ReefOp), (s.op id).reef = some r → r.kind = .code → writeMay s id = true → ownerStays s r.core →
    ∃ u, exec (.reefCodebookWrite id) s = .next u ∧ u.op id = {} ∧ u.mem = s.mem ∧ tFalls s u (s.op id).thr
      ∧ (slotOf u r.core r.slot).store = (slotOf s r.core r.slot).store
      ∧ (∀ j, j ≠ r.slot → slotOf u r.core j = slotOf s r.core j)
      ∧ ∀ i, i < 16 → look 0 (slotOf u r.core r.slot).code i = bitsOf (s.op id).bytes (8 * r.x + 16 * i) 16

/-- A multiplication that nothing stops is accepted: it joins its arrays' queues in order with the A tile and scales that
it read, claims the arrays, raises T and moves on (R286, R288, R290, R306). Its serial phase reads its slots once the ones
before have begun (R288), and its results are written in the order of acceptance: element (r, n) of the accumulators takes
what R294 gives, no other register changes, REEFST gathers the flags and T falls (R292, R294, R296). -/
def Sys2Proof.Claims.MultiplicationsAccumulate : Prop :=
  (∀ (i : Instr) (f : FT) (fmt : Nat) (pair : Bool) (s : State) (iss : Issue), i.wellFormed = true → macTable i = some (f, fmt, pair) →
    let t := s.thread iss.thr
    runsNow (macShape f fmt pair s) (macReady f pair) iss s → t.reefUse = [] → plainGroup s iss →
    if active s iss f.g.toNat = 0 then
      ∃ u, leaves i s iss.thr u ∧ movedOn iss.thr iss.lanes 8 s u ∧ onlyRegs iss.thr s u (regsOf s iss)
    else match macStop f fmt pair s iss.thr with
    | some (.trap c d) => ∃ u, leaves i s iss.thr u ∧ stopsGroup s u iss c d
    | some (.miss _) => True
    | none =>
      ∃ u, leaves i s iss.thr u ∧ movedOn iss.thr iss.lanes 8 s u ∧ u.mem = s.mem
        ∧ bare (u.thread iss.thr).regs = bare (regsOf s iss) ∧ (u.thread iss.thr).cntT = t.cntT + 1
        ∧ (u.op s.fl.next).live = true ∧ (u.op s.fl.next).thr = iss.thr ∧ (u.op s.fl.next).reef = some (macOp f fmt pair s iss)
        ∧ (∀ c ∈ (if pair then [t.core, t.core + 1] else [t.core]),
            (u.core c).queue = (s.core c).queue ++ [s.fl.next] ∧ claimed s u t c)
        ∧ (u.thread iss.thr).reefUse = [{ op := s.fl.next, acc := macAcc f pair, src := macReads f fmt s iss.thr }])
  ∧ (∀ (core id : Nat) (s : State) (r : ReefOp), nextSerial s core = some id → (s.op id).reef = some r →
    (∀ c ∈ r.arrays, nextSerial s c = some id ∧ serialMay s c id = true) →
    ∃ u, exec (.reefSerialPhase core) s = .next u ∧ u.mem = s.mem ∧ (∀ j, u.thread j = s.thread j) ∧ (∀ c, u.core c = s.core c)
      ∧ (u.op id).reef = some { r with begun := true, tiles := r.arrays.map fun c => slotOf s c r.slot })
  ∧ ∀ (id : Nat) (s : State) (r : ReefOp),
    let k := (s.op id).thr
    let value := fun (row n : Nat) =>
      macElement r (r.tiles.getD (n / 64) {}) row (n % 64) ((s.thread k).regs.getV (accReg r.acc row n) (n % 64))
    (s.op id).live = true → (s.op id).reef = some r → r.isMac = true → r.begun = true → r.clash = false → r.spoilt = [] →
    (∀ c ∈ r.arrays, id ∈ (s.core c).queue ∧ coreFrozen s c = false ∧ ∀ e ∈ Machine.before s c id, (reefOf s e).isMac = false) →
    (s.thread k).live = true → (s.thread k).episode = none →
    ∃ u flags, exec (.reefAccumulatorWrite id) s = .next u ∧ u.op id = {} ∧ u.mem = s.mem
      ∧ (u.thread k).cntT = (s.thread k).cntT - 1
      ∧ (∀ row n, row < 16 → n < r.columns → (u.thread k).regs.getV (accReg r.acc row n) (n % 64) = (value row n).1)
      ∧ (∀ d l, l < 64 → (d < r.acc ∨ r.acc + (if r.kind = .macPair then 32 else 16) ≤ d) →
          (u.thread k).regs.getV d l = (s.thread k).regs.getV d l)
      ∧ { (u.thread k).regs with v := [] } = { (s.thread k).regs with v := [] }
      ∧ (u.thread k).reefst = (s.thread k).reefst ||| BitVec.ofNat 32 flags
      ∧ ∀ b, flags.testBit b = true ↔ ∃ row n, row < 16 ∧ n < r.columns ∧ (value row n).2.testBit b = true

/-- An element of an .i8 product is its old value plus the exact sum of the 64 products of the tiles' bytes, modulo 2^32,
and raises no flag (R290, R292, R294). -/
def Sys2Proof.Claims.IntegerTilesMultiplyExactly : Prop :=
  ∀ (o : ReefOp) (t : Slot) (r n : Nat) (acc : W32), o.fmt = 0 → t.tag = 6 → t.bad = [] →
    macElement o t r n acc =
      (acc + BitVec.ofInt 32 (((List.range 64).map fun k => signedByte (tileByte o r k) * signedByte (look 0 t.store (64 * k + n))).sum), 0)

/-- An element of a product off the integer path (R293 to R296), in rational numbers. A row or a column with a NaN, an infinity
or a NaN scale leaves 0x7FC00000, with NV where the accumulator was no NaN. Else block 0 and then block 1 each add one term:
the sum of the products of the block's A elements, cut towards zero to w − 1 bits under the block's largest exponent (i8 as
they are), with the B elements, times the scales; each sum is rounded once to FP32, to nearest even, and a zero term leaves the
accumulator as it is. -/
def Sys2Proof.Claims.FloatTilesMultiply : Prop :=
  ∀ (o : ReefOp) (t : Slot) (r n : Nat) (acc : W32), o.fmt < 4 → t.tag < 8 → t.bad = [] → r < 16 → n < 64 →
    ¬(o.fmt = 0 ∧ (t.tag = 6 ∨ t.tag = 0)) → (t.tag = 0 → t.store = []) →
    let special := (∃ k, k < 64 ∧ (¬(tileA o r k).isNum ∨ ¬(tileB t k n).isNum))
      ∨ ∃ b, b < 2 ∧ (scaleNumber (rowScale o r b) = none ∨ scaleNumber (t.scaleB b n) = none)
    if special then
      macElement o t r n acc = (0x7FC00000, if (valueOf fp32 acc.toNat).isNan = true then 0 else 8)
    else ∃ mid fl, addsBlock o t r n 0 acc mid fl ∧ ∃ fl', addsBlock o t r n 1 mid (macElement o t r n acc).1 fl'
      ∧ (macElement o t r n acc).2 = fl ||| fl'

/-- `RFENCE` holds its group until every earlier write of a vector register has been made (R307). `RDRAIN` stores the tile
and the transposed copy as stores of the warp and gathers its flags (R308). `RPAIR` binds and unbinds the core after its
own, or stops with PAIRLESS and the condition that failed (R297). `RSTAT.reef` reads, and may clear, REEFST, or reads the
array's state (R309). With an empty mask each only moves its group on (R303). -/
def Sys2Proof.Claims.ReefControl : Prop :=
  (∀ (i : Instr) (f : FT) (sh : Shape) (s : State) (iss : Issue), i.wellFormed = true →
    reefTable s i = some (f, sh) → runsNow sh (fun _ _ => true) iss s → (s.thread iss.thr).reefUse = [] →
    active s iss f.g.toNat = 0 →
    ∃ u, leaves i s iss.thr u ∧ movedOn iss.thr iss.lanes 8 s u ∧ onlyRegs iss.thr s u (regsOf s iss))
  ∧ (∀ (f : FT) (s : State) (iss : Issue), runsNow (reefShape s f) (fun _ _ => true) iss s → plainGroup s iss →
    active s iss f.g.toNat ≠ 0 →
    ∃ u, leaves (.rfence f) s iss.thr u ∧ lanesTo iss.thr s u (regsOf s iss) fun l x =>
      if inGroup iss l then { x with hold := .written s.fl.next (s.thread iss.thr).lastDue } else x)
  ∧ (∀ (thr lane before until_ : Nat) (s : State), mayRelease s thr lane →
    ((s.thread thr).lane lane).hold = .written before until_ → (s.thread thr).seq = none → vectorsWritten s thr before = true →
    until_ ≤ tickOf s (s.thread thr) →
    ∃ u, settles (.fenceRelease thr lane) s thr u ∧ lanesTo thr s u (s.thread thr).regs fun l x =>
      if heldWith s thr lane l then Lane.advance 8 x else x)
  ∧ (∀ (f : FT) (s : State) (iss : Issue),
    let t := s.thread iss.thr
    let out := drainNow f s iss
    runsNow (drainShape s f)
      (fun iss s => active s iss f.g.toNat == 0
        || (!ownedByOther s (s.thread iss.thr) (s.thread iss.thr).core
            && ((drainVerdict s (s.thread iss.thr) (drainOf f s iss) (drainNow f s iss).1).isSome
                || tileFilled s (rangesOf (drainNow f s iss).1)))) iss s →
    (∀ r ∈ drainRegs f, ∀ l, t.lostAt r l = false) → (∀ r ∈ regsFrom f.sx.toNat 5, t.lostScalar r = false) → t.reefUse = [] →
    plainGroup s iss → active s iss f.g.toNat ≠ 0 →
    match drainVerdict s t (drainOf f s iss) out.1 with
    | some (.trap c d) => ∃ u, leaves (.rdrain f) s iss.thr u ∧ stopsGroup s u iss c d
    | some (.miss _) => True
    | none =>
      if out.1 = [] then ∃ u, leaves (.rdrain f) s iss.thr u ∧ movedOn iss.thr iss.lanes 8 s u ∧ u.mem = s.mem ∧ u.fl = s.fl
          ∧ claimed s u t t.core
      else ∃ v u m, let ps := out.1.drop m ++ out.1.take m
        tookPages (whoOf t) true (touched (pieceUnits s t .write ps)) s v
          ∧ leaves (.rdrain f) s iss.thr u ∧ movedOn iss.thr iss.lanes 8 s u ∧ u.mem = v.mem
          ∧ bare (u.thread iss.thr).regs = bare (regsOf s iss) ∧ (u.thread iss.thr).cntS = t.cntS + 1
          ∧ (u.thread iss.thr).reefst = t.reefst ||| BitVec.ofNat 32 out.2
          ∧ claimed s u t t.core ∧ (u.op s.fl.next).cls = .s ∧ (u.op s.fl.next).drain = true
          ∧ ∀ j (x : UnitAt), (pieceUnits v t .write ps)[j]? = some x → (u.req (s.fl.next + 1 + j)).kind = .store
              ∧ (u.req (s.fl.next + 1 + j)).space = x.space ∧ (u.req (s.fl.next + 1 + j)).key = x.key
              ∧ (u.req (s.fl.next + 1 + j)).mask = (unitData x ps).1 ∧ (u.req (s.fl.next + 1 + j)).data = (unitData x ps).2)
  ∧ (∀ (f : FT) (s : State) (iss : Issue),
    let t := s.thread iss.thr
    let set := f.m.toNat % 2 = 1
    runsNow (reefShape s f) (fun iss s => active s iss f.g.toNat == 0
      || (!ownedByOther s (s.thread iss.thr) (s.thread iss.thr).core && (has f.m.toNat 0 || !pairBusy s (s.thread iss.thr).core))) iss s →
    plainGroup s iss → active s iss f.g.toNat ≠ 0 → t.reefUse = [] →
    ∃ u, leaves (.rpair f) s iss.thr u ∧ u.mem = s.mem
      ∧ if (s.core t.core).bind = .follower then stopsGroup s u iss .pairLess 6
        else if ¬ set then movedOn iss.thr iss.lanes 8 s u ∧ (u.core t.core).bind = .none
          ∧ ((s.core t.core).bind = .leader → (u.core (t.core + 1)).bind = .none)
        else if (s.core t.core).bind = .leader then movedOn iss.thr iss.lanes 8 s u ∧ ∀ c, u.core c = s.core c
        else match pairFails s t with
          | some n => stopsGroup s u iss .pairLess (BitVec.ofNat 64 n)
          | none => movedOn iss.thr iss.lanes 8 s u ∧ (u.core t.core).bind = .leader ∧ (u.core (t.core + 1)).bind = .follower
              ∧ claimed s u t t.core ∧ claimed s u t (t.core + 1))
  ∧ ∀ (f : FT) (s : State) (iss : Issue),
    let t := s.thread iss.thr
    runsNow { reefShape s f with sdst := [f.sx.toNat] }
      (fun iss s => active s iss f.g.toNat == 0 || (opsOf s iss.thr).all fun o => o.2.reef.isNone && !o.2.drain) iss s →
    active s iss f.g.toNat ≠ 0 → t.reefUse = [] →
    ∃ u, leaves (.rstatReef f) s iss.thr u ∧ movedOn iss.thr iss.lanes 8 s u ∧ others iss.thr s u
      ∧ bare (u.thread iss.thr).regs = bare ((regsOf s iss).setS f.sx.toNat
          (BitVec.ofNat 64 (if f.m.toNat % 4 = 0 then t.reefst.toNat else arrayStatus s t)))
      ∧ (u.thread iss.thr).reefst = if f.m.toNat / 4 % 2 = 1 then 0 else t.reefst

end

/-- Slots of a Reef fill from memory, and its control instructions answer. -/
def Obligations.ReefSlotsAndControl : Prop :=
  Sys2Proof.Claims.SlotLoadsFillSlots ∧ Sys2Proof.Claims.ReefControl

/-- A Reef multiplies tiles into its accumulators; integer tiles exactly, modulo 2 to the 32, others by blocks with two
roundings. -/
def Obligations.ReefMultiplications : Prop :=
  Sys2Proof.Claims.MultiplicationsAccumulate ∧ Sys2Proof.Claims.IntegerTilesMultiplyExactly
    ∧ Sys2Proof.Claims.FloatTilesMultiply

namespace Sys2Proof.Claims

open Sys2Proof.Machine Sys2Proof.Safety

/-! ### The tide loop -/

/-- The state with another tide-loop state for one context. -/
def withTide (s : State) (n : Nat) (t : Tide) : State := { s with ctxs := put {} s.ctxs n { s.ctx n with tide := t } }

/-- A number clamped to a range. -/
def clamp (lo hi x : Int) : Int := max lo (min hi x)

/-- What `TSET` of id makes of a loop state (R313, R314). -/
def tideSet (id : Nat) (v : W64) (t t' : Tide) : Prop :=
  (id = 0 → t' = { t with target := max 0 (v.setWidth 32).toInt })
  ∧ (id = 1 → t' = { t with kp := v.toNat % 2 ^ 16, ki := v.toNat / 2 ^ 16 % 2 ^ 16 })
  ∧ (id = 2 → t'.umax = max 1 (v.toNat % 64) ∧ t'.enable = v.getLsbD 6
      ∧ t'.imaxlog = max 16 (min 39 (v.toNat / 2 ^ 8 % 64)) ∧ t'.cls = v.toNat / 2 ^ 16 % 4
      ∧ t'.kc = min 9 (v.toNat / 2 ^ 20 % 16) ∧ t'.pos = min t.pos (36 + t'.kc)
      ∧ t'.int = clamp (1 - 2 ^ t'.imaxlog) (2 ^ t'.imaxlog - 1) t.int
      ∧ (t.allocated = true → t'.demand = t.demand ∧ t'.grant = t.grant)
      ∧ t'.target = t.target ∧ t'.kp = t.kp ∧ t'.ki = t.ki ∧ t'.job = t.job ∧ t'.flags = t.flags ∧ t'.count = t.count)
  ∧ (id = 3 → t' = { t with job := v.toNat % 2 ^ 32 })
  ∧ (id = 4 → t'.pos = min (v.toNat % 64) (36 + t.kc) ∧ (t.allocated = true → t'.demand = t.demand ∧ t'.grant = t.grant)
      ∧ { t' with pos := t.pos, step := t.step, demand := t.demand, grant := t.grant } = t)
  ∧ (id = 5 → t'.int = clamp (1 - 2 ^ t.imaxlog) (2 ^ t.imaxlog - 1) v.toInt ∧ { t' with int := t.int, step := t.step } = t)
  ∧ (id = 9 → { t' with flags := t.flags } = t ∧ ∀ i, i < 8 → t'.flags.testBit i = (t.flags.testBit i && !v.getLsbD i))

/-- A live context of an atoll. -/
def ofAtoll (s : State) (atoll n : Nat) : Prop := (s.ctx n).live = true ∧ (s.ctx n).atoll = atoll

/-- Only contexts, and what is sent, differ. -/
def onlyCtxs (s u : State) : Prop := unsent u.sys = unsent s.sys ∧ u = { s with ctxs := u.ctxs, sys := u.sys }

/-- The step of a context with its count known. -/
def stepWith (s : State) (n b : Nat) : Option Step := (s.ctx n).tide.step.map fun (x : Step) => { x with merged := some b }

/-- The grant of a claim. -/
def grantOf (g : Nat × Granted) (x : Claim) : Nat := look 0 g.2 x.ctx

end Sys2Proof.Claims

section
open Classical
open Sys2Proof Sys2Proof.Machine Sys2Proof.Safety Sys2Proof.Claims

/-- `BEAT` adds to the context's own count, which saturates, and counts in its counters (R312, R332, R386); `TSET`
writes a register of the TIDE set (R313, R314, R333), `TREAD` reads one, not before an update that is due (R318, R334),
`PCLASS` replaces the workgroup's ratio request (R335). Harbour code has no context: they have no effect there, and
`TREAD` writes all ones. -/
def Sys2Proof.Claims.TideInstructions : Prop :=
  (∀ (f : FY) (s : State) (iss : Issue), runsNow { engines := ctlEngines } periodsServed iss s →
    let t := s.thread iss.thr
    let x := (s.ctx t.ctx).tide
    ∃ u, leaves (.beat f) s iss.thr u ∧ movedOn iss.thr iss.lanes 8 s u
      ∧ if t.engine = .harbour then onlyRegs iss.thr s u t.regs
        else onlyRegs iss.thr (withTide s t.ctx { x with count := min (2 ^ 24 - 1) (x.count + f.imm.toNat % 256) }) u t.regs
          ∧ ((s.ctx t.ctx).live = true → f.imm.toNat % 256 ≠ 0 → ∀ i, i < 8 →
              field (look {} (s.ctx t.ctx).counters i).conf 7 0 = 0x0F →
              look {} (u.ctx t.ctx).counters i = (look {} (s.ctx t.ctx).counters i).add 0x0F (f.imm.toNat % 256) t.launch))
  ∧ (∀ (f : FY) (s : State) (iss : Issue),
    runsNow { engines := ctlEngines, level := .steward, ssrc := [f.sa.toNat] } periodsServed iss s →
    let t := s.thread iss.thr
    ∃ u, leaves (.tset f) s iss.thr u ∧ movedOn iss.thr iss.lanes 8 s u
      ∧ if t.engine = .harbour then onlyRegs iss.thr s u t.regs
        else ∃ t', onlyRegs iss.thr (withTide s t.ctx t') u t.regs
          ∧ tideSet f.id.toNat (scalar s iss f.sa.toNat) (s.ctx t.ctx).tide t')
  ∧ (∀ (f : FY) (s : State) (iss : Issue), runsNow { engines := ctlEngines, sdst := [f.sd.toNat] } tideCurrent iss s →
    let t := s.thread iss.thr
    ∃ u, leaves (.tread f) s iss.thr u ∧ movedOn iss.thr iss.lanes 8 s u
      ∧ onlyRegs iss.thr s u (t.regs.setS f.sd.toNat
          (if t.engine = .harbour then BitVec.allOnes 64 else tideRead s t.ctx f.id.toNat)))
  ∧ ∀ (f : FY) (s : State) (iss : Issue), runsNow { engines := ctlEngines } (fun _ _ => true) iss s →
    let t := s.thread iss.thr
    ∃ u, leaves (.pclass f) s iss.thr u ∧ movedOn iss.thr iss.lanes 8 s u
      ∧ onlyRegs iss.thr
          (if t.engine = .core then { s with wgs := put {} s.wgs t.wg { s.wg t.wg with ratio := f.imm.toNat % 4 } } else s) u t.regs

/-- A period end passes every count to its step and clears it (R312, R318). A step takes the job minimum, or at the
deadline 0, or the local minimum where no port is owned, with MISS (R324, R325, R399). At t + 4 µs the step's D and I
appear, but for what a `TSET` has written since (R318). A clock change is made once the slew budget covers it, and relocks
the cluster (R328, R409). -/
def Sys2Proof.Claims.TidePeriods : Prop :=
  (∀ (atoll t : Nat) (s : State), s.wf = true →
    (∃ n, ofAtoll s atoll n ∧ nextEnd (s.atoll atoll) (s.ctx n).tide = t) →
    (∀ n, ofAtoll s atoll n → t ≤ nextEnd (s.atoll atoll) (s.ctx n).tide) → t ≤ s.sys.dt →
    (∀ n, ofAtoll s atoll n → nextEnd (s.atoll atoll) (s.ctx n).tide = t → (s.ctx n).tide.step = none) →
    ∃ u, exec (.periodEnd atoll) s = .next u ∧ onlyCtxs s u
      ∧ ∀ n, let x := (s.ctx n).tide
        if ofAtoll s atoll n ∧ nextEnd (s.atoll atoll) x = t then
          (u.ctx n).tide.count = 0 ∧ (u.ctx n).tide.period = t ∧ (u.ctx n).tide.pos = x.pos ∧ (u.ctx n).tide.int = x.int
            ∧ if (s.ctx n).served = true then
                ∃ y, (u.ctx n).tide.step = some y ∧ y.at_ = t ∧ y.own = x.count ∧ y.target = x.target ∧ y.pos = x.pos
                  ∧ y.int = x.int ∧ y.held = (x.short || x.throttled || x.stopped)
                  ∧ y.merged = if x.job = 0 then some x.count else none
              else (u.ctx n).tide.step = none
        else u.ctx n = s.ctx n)
  ∧ (∀ (atoll job b t : Nat) (ns : List Nat) (s : State), awaiting s atoll job = some (t, ns) → s.sys.dt ≤ t + 2000 →
    membersReady s job t = true → b ≤ localMinimum s (membersAt s job t) →
    ∃ u, exec (.jobMinimum atoll job b) s = .next u ∧ onlyCtxs s u
      ∧ ∀ n, if n ∈ ns ∧ hasPort s n = true then (u.ctx n).tide.step = stepWith s n b
          ∧ { (u.ctx n) with tide := (s.ctx n).tide } = s.ctx n else u.ctx n = s.ctx n)
  ∧ (∀ (atoll job t : Nat) (ns : List Nat) (s : State), awaiting s atoll job = some (t, ns) → t + 2000 ≤ s.sys.dt →
    ∃ u, exec (.mergeDeadline atoll job) s = .next u ∧ onlyCtxs s u
      ∧ ∀ n, if n ∈ ns then
          (u.ctx n).tide.step = stepWith s n (if hasPort s n = true then 0 else localMinimum s (membersAt s job t))
            ∧ (u.ctx n).tide.flags = (s.ctx n).tide.flags ||| 16
        else u.ctx n = s.ctx n)
  ∧ (∀ (atoll n : Nat) (y : Step) (s : State), s.wf = true → ofAtoll s atoll n → (s.ctx n).tide.step = some y →
    (∀ m x, ofAtoll s atoll m → (s.ctx m).tide.step = some x → x.at_ + 4000 ≤ s.sys.dt ∧ x.merged ≠ none) →
    ∃ u, exec (.tideUpdate atoll) s = .next u ∧ u.mem = s.mem ∧ u.fl = s.fl
      ∧ (let x := (u.ctx n).tide
         x.pos = (if y.keepPos = true then (s.ctx n).tide.pos else min y.out.pos (s.ctx n).tide.dmax)
          ∧ (y.keepInt = true → x.int = (s.ctx n).tide.int) ∧ x.own = y.own ∧ x.merged = min (y.merged.getD y.own) 32767
          ∧ x.step = none ∧ (x.flags ||| y.out.flags = x.flags) ∧ x.demand = demandAt x.kc x.pos
          ∧ x.target = (s.ctx n).tide.target ∧ x.count = (s.ctx n).tide.count))
  ∧ (∀ (atoll : Nat) (x : Change) (rest : List Change) (s : State), pendingChanges s atoll = x :: rest →
    (s.atoll atoll).slewFrom + (1000 * x.cost + (s.atoll atoll).slew - 1) / (s.atoll atoll).slew ≤ s.sys.dt →
    ∃ u, exec (.slewApply atoll) s = .next u ∧ (u.atoll atoll) = { s.atoll atoll with slewFrom := s.sys.dt }
      ∧ u = { s with clusters := u.clusters, atolls := u.atolls }
      ∧ match x with
        | .step cl k => u.cluster cl = { s.cluster cl with was := (s.cluster cl).step, step := k, relock := true }
        | .ratio cl k => u.cluster cl = { s.cluster cl with was := (s.cluster cl).step, ratio := k, relock := true }
        | .ballast cl => u.cluster cl = { s.cluster cl with ballast := (s.cluster cl).ballast - 1 })
  ∧ ∀ (cl : Nat) (s : State), (s.cluster cl).relock = true →
    ∃ u, exec (.clockRelockEnd cl) s = .next u ∧ u = { s with clusters := u.clusters }
      ∧ ∀ n, u.cluster n = if n = cl then { s.cluster cl with relock := false, was := (s.cluster cl).step } else s.cluster n

/-- The controller step keeps D on its ladder and I within its bound, holds both where it is disabled or the first after a
restore, holds I where it freezes, and gives the worked period of chapter 14 (R319, R326). -/
def Sys2Proof.Claims.ControllerStep : Prop :=
  (∀ x : Machine.Step, x.pos ≤ x.dmax → -x.imax ≤ x.int → x.int ≤ x.imax →
    x.out.pos ≤ x.dmax ∧ -x.imax ≤ x.out.int ∧ x.out.int ≤ x.imax
      ∧ (x.first = true ∨ x.enable = false → x.out.pos = x.pos ∧ x.out.int = x.int)
      ∧ (x.out.flags.testBit 3 = true → x.out.int = x.int)
      ∧ (x.held = true → x.first = false → x.enable = true → x.out.flags.testBit 3 = true)
      ∧ ((x.out.pos : Int) ≤ x.pos + x.umax ∧ (x.pos : Int) ≤ x.out.pos + x.umax))
  ∧ (∀ (own pos : Nat) (int : Int),
    let a : Machine.Step := { own, target := 100 * 2 ^ 16, kp := 0x0800, ki := 0x0200, umax := 8, enable := true
                              imax := 2 ^ 24 - 1, dmax := 40, pos, int }
    (own = 92 → pos = 10 → int = 196608 → a.out.pos = 15 ∧ a.out.int = 720896 ∧ a.out.flags = 0)
      ∧ (own = 104 → pos = 15 → int = 720896 → a.out.pos = 13 ∧ a.out.int = 458752 ∧ a.out.flags = 0))
  ∧ (demandAt 4 15 = [32, 4, 5, 8, 0] ∧ demandAt 4 17 = [32, 4, 7, 8, 0] ∧ demandAt 4 19 = [32, 4, 8, 16, 0])

/-- The allocator divides a pool whose floors fit: every grant lies between floor and demand, what is granted and what
remains make the capacity, nothing remains while a demand is unmet, and a class whose demand is unmet leaves the later
classes their floors (R322, R323). -/
def Sys2Proof.Claims.AllocatorDividesPools : Prop :=
  ∀ (capacity : Nat) (xs : List Claim), (xs.map Claim.ctx).Nodup → (∀ x ∈ xs, x.floor ≤ x.want ∧ x.cls < 4) →
    (xs.map Claim.floor).sum ≤ capacity →
    let g := divide capacity xs
    (∀ x ∈ xs, x.floor ≤ grantOf g x ∧ grantOf g x ≤ x.want)
      ∧ g.1 + (xs.map (grantOf g)).sum = capacity
      ∧ ((∃ x ∈ xs, grantOf g x < x.want) → g.1 = 0)
      ∧ ∀ x ∈ xs, ∀ y ∈ xs, grantOf g x < x.want → x.cls < y.cls → grantOf g y = y.floor

end

/-- A Tide context declares its demand and its periods are served. -/
def Obligations.TideServes : Prop :=
  Sys2Proof.Claims.TideInstructions ∧ Sys2Proof.Claims.TidePeriods

/-- The controller makes its step, and the allocator divides the pools. -/
def Obligations.TideControls : Prop :=
  Sys2Proof.Claims.ControllerStep ∧ Sys2Proof.Claims.AllocatorDividesPools

namespace Sys2Proof.Claims

open Sys2Proof.Machine Sys2Proof.Safety

/-! ### Launches, mailboxes and events -/

/-- The shape word breaks R339. -/
def shapeBad (x : Nat) : Prop :=
  ¬ (x % 2 ^ 8 ∈ [16, 32, 64] ∧ 32 ≤ x / 2 ^ 8 % 2 ^ 11 ∧ x / 2 ^ 8 % 2 ^ 11 ≤ 1024 ∧ x / 2 ^ 8 % 32 = 0
    ∧ 1 ≤ x / 2 ^ 20 % 32 ∧ x / 2 ^ 20 % 32 ≤ 16 ∧ x / 2 ^ 32 % 2 ^ 24 ≤ 12582912
    ∧ x / 2 ^ 19 % 2 = 0 ∧ x / 2 ^ 25 % 8 = 0 ∧ x / 2 ^ 29 % 8 = 0 ∧ x / 2 ^ 56 = 0)

/-- The rectangle of the operand breaks R340 for an atoll of these clusters. -/
def rectBad (x clusters : Nat) : Prop :=
  let ox := x / 2 ^ 32 % 256
  let oy := x / 2 ^ 40 % 256
  let w := x / 2 ^ 48 % 256
  let h := x / 2 ^ 56
  ¬ (w ∈ [1, 2, 4, 8, 16, 32] ∧ h ∈ [1, 2, 4, 8, 16] ∧ ox % w = 0 ∧ oy % h = 0 ∧ ox + w ≤ 32 ∧ oy + h ≤ 24
    ∧ ∀ i j, i < w → j < h → clusters.testBit (8 * ((oy + j) / 4) + (ox + i) / 4) = true)

/-- An extent of 0 or above 2^31 − 1. -/
def extentBad (n : Nat) : Prop := n = 0 ∨ 2 ^ 31 ≤ n

/-- An entry that is misaligned or in the Lagoon window. -/
def entryBad (x : Nat) : Prop := x % 8 ≠ 0 ∨ inLagoon (x % 2 ^ 56) = true

/-- The first check of R341 that the operands fail. -/
def launchFails (o : Nat → Nat) (clusters : Nat) (code : Int) : Prop :=
  let a := shapeBad (o 4)
  let b := rectBad (o 3) clusters
  let c := extentBad (o 2 % 2 ^ 32) ∨ extentBad (o 2 / 2 ^ 32) ∨ extentBad (o 3 % 2 ^ 32)
  let d := 131072 < (o 4 / 2 ^ 20 % 32) * (o 4 % 2 ^ 8) * (o 4 / 2 ^ 8 % 2 ^ 11)
  let e := o 0 % 2 ^ 56 = 0 ∨ entryBad (o 0) ∨ entryBad (o 1)
  (code = -1 ∧ a) ∨ (code = -2 ∧ ¬ a ∧ b) ∨ (code = -3 ∧ ¬ a ∧ ¬ b ∧ c) ∨ (code = -4 ∧ ¬ a ∧ ¬ b ∧ ¬ c ∧ d)
    ∨ (code = -5 ∧ ¬ a ∧ ¬ b ∧ ¬ c ∧ ¬ d ∧ e)

/-- The registers that `LAUNCH` reads. -/
def launchReads (f : FY) : List Nat := (List.range (if has f.imm.toNat 0 then 7 else 6)).map (f.sa.toNat + ·)

/-- A `LAUNCH` goes on: its operands fail, or its table entry is not incomplete. -/
def launchMay (f : FY) (iss : Issue) (s : State) : Bool :=
  let n := (s.thread iss.thr).ctx
  ((launchOf f iss s).code (atollOf s n)).isSome || !(look {} (dueCtx s n).launches ((s.ctx n).nextLaunch % 16)).open_

/-- What an instruction of group 0xC that a steward issues names. -/
def stewardShape (ssrc sdst : List Nat) : Shape := { engines := ctlEngines, level := .steward, ssrc, sdst }

/-- Registers with consecutive ones written. -/
def withWords (r : Regs) (base : Nat) (l : List W64) : Regs := l.zipIdx.foldl (fun r e => r.setS (base + e.2) e.1) r

/-- Nothing changes but thread `k`, contexts, and what is sent or waits to be. -/
def besidesCtxs (k : Nat) (s u : State) : Prop :=
  unsent u.sys = unsent s.sys
    ∧ u = { s with threads := u.threads, ctxs := u.ctxs, dies := u.dies, sys := u.sys, cur := u.cur, fresh := u.fresh }
    ∧ (∀ d, untold (u.die d) = untold (s.die d)) ∧ ∀ j, j ≠ k → u.thread j = s.thread j

/-- A message that a ring takes at its producer index. -/
def ringTakes (r r' : Ring) (msg : List W64) : Prop :=
  r'.pi = (r.pi + 1) % 2 ^ 32 ∧ r'.ci = r.ci ∧ (∀ i, i < 8 → look 0 r'.slots (8 * (r.pi % 64) + i) = msg.getD i 0)
    ∧ ∀ j, j / 8 ≠ r.pi % 64 → look 0 r'.slots j = look 0 r.slots j

/-- The generator of a lane of a warp at its start (R143). -/
def seeded (thread index : Nat) : W32 :=
  let g := (thread * 0x9E3779B9 + index * 0x85EBCA6B + 0x6A09E667) % 2 ^ 32
  if g = 0 then 1 else BitVec.ofNat 32 g

/-- A slot is used by a workgroup of a core. -/
def slotUsed (s : State) (core slot : Nat) : Prop := ∃ g w, (g, w) ∈ s.wgs ∧ w.live = true ∧ w.core = core ∧ slot ∈ w.slots

/-- A lane that runs again; one whose PC was rewritten comes to a block. -/
def runsAgain (x : Lane) : Lane := { x with state := .running, need := if x.rewritten = true then .start else x.need, rewritten := false }

/-- The lanes of thread `k` that are parked on fault `id`. -/
def parkedOn (s : State) (k id mask l : Nat) : Prop :=
  ((s.thread k).lane l).live = true ∧ mask.testBit l = true ∧ ((s.thread k).lane l).state = .parked id

open Classical in
/-- How a fault's service ends for the lanes of thread `k` (R371, R374, R375). -/
def served (id k mask : Nat) (a : Service) (s u : State) : Prop :=
  let f := s.fault id
  u.fault id = {} ∧ bare (u.thread k).regs = bare (s.thread k).regs
    ∧ (∀ l, l < (s.thread k).width → (u.thread k).lane l =
        if parkedOn s k id mask l then
          (match a with
           | .retry _ => runsAgain ((s.thread k).lane l)
           | _ => { (s.thread k).lane l with state := .stopped (.record s.fl.next), hold := .none })
        else (s.thread k).lane l)
    ∧ ((∃ l, l < (s.thread k).width ∧ parkedOn s k id mask l) →
        match a with
        | .retry _ => True
        | _ => (u.trap s.fl.next).live = true ∧ (u.trap s.fl.next).thr = k
            ∧ (u.trap s.fl.next).cause = (match a with | .fail => .xFault | _ => .frame)
            ∧ (u.trap s.fl.next).detail = BitVec.ofNat 64 f.miss.va)

end Sys2Proof.Claims

section
open Classical
open Sys2Proof Sys2Proof.Machine Sys2Proof.Safety Sys2Proof.Claims

/-- `LAUNCH` writes the code of the first operand check that fails and does nothing else (R341), or enters the launch under
the context's next number, which it writes (R339, R355). -/
def Sys2Proof.Claims.LaunchesAreEntered : Prop :=
  ∀ (f : FY) (s : State) (iss : Issue), runsNow (stewardShape (launchReads f) [f.sd.toNat]) (launchMay f) iss s →
    let t := s.thread iss.thr
    let o := fun i => (scalar s iss (f.sa.toNat + i)).toNat
    let a := (atollOf s t.ctx).clusters
    (∀ c, launchFails o a c →
      ∃ u, leaves (.launch f) s iss.thr u ∧ movedOn iss.thr iss.lanes 8 s u
        ∧ onlyRegs iss.thr s u (t.regs.setS f.sd.toNat (BitVec.ofInt 64 c)))
    ∧ ((¬ ∃ c, launchFails o a c) →
      let k := (s.ctx t.ctx).nextLaunch
      let d := dueCtx s t.ctx
      ∃ u, leaves (.launch f) s iss.thr u ∧ movedOn iss.thr iss.lanes 8 s u ∧ besidesCtxs iss.thr s u
        ∧ bare (u.thread iss.thr).regs = bare (t.regs.setS f.sd.toNat (BitVec.ofNat 64 k))
        ∧ (u.ctx t.ctx).lastLaunch = k ∧ (u.ctx t.ctx).nextLaunch = (if (k + 1) % 2 ^ 32 = 0 then 1 else (k + 1) % 2 ^ 32)
        ∧ (∀ j, j ≠ k % 16 → look {} (u.ctx t.ctx).launches j = look {} d.launches j)
        ∧ (let e := look {} (u.ctx t.ctx).launches (k % 16)
           e.live = true ∧ e.number = k ∧ e.open_ = true ∧ e.next = 0 ∧ e.completed = 0 ∧ e.done = false ∧ e.killed = false
            ∧ e.hexit = false ∧ e.frozen = false ∧ e.init = f.imm.getLsbD 0 ∧ e.notify = f.imm.getLsbD 1
            ∧ e.total = o 2 % 2 ^ 32 * (o 2 / 2 ^ 32) * (o 3 % 2 ^ 32)
            ∧ ∀ i, i < 7 → (e.ops.getD i 0).toNat = if i = 6 ∧ e.init = false then 0 else o i))

/-- `LWAIT` gives the status of a launch that is not incomplete, acquiring at system scope where it is DONE, and else holds
its thread until an `LWAIT_RELEASE` finds it complete, or gives 0 under `.nowait` (R356). -/
def Sys2Proof.Claims.LaunchesAreAwaited : Prop :=
  (∀ (c : Ctx) (n : Nat), let e := look {} c.launches (n % 16)
    (n ≠ 0 ∧ e.live = true ∧ e.number = n → lwaitResult c n = if e.open_ = true then none else
      some (BitVec.ofNat 64 (e.completed % 2 ^ 32 * 2 ^ 32 + (if e.done = true then 1 else 0) + (if e.killed = true then 4 else 0)
        + (if e.hexit = true then 8 else 0)), e.done))
    ∧ (¬ (n ≠ 0 ∧ e.live = true ∧ e.number = n) →
        lwaitResult c n = some (if n = 0 ∨ c.lastLaunch < n then BitVec.allOnes 64 else 2, false)))
  ∧ (∀ (f : FY) (s : State) (iss : Issue), runsNow (stewardShape [f.sa.toNat] [f.sd.toNat]) (fun _ _ => true) iss s →
    plainGroup s iss →
    let t := s.thread iss.thr
    let n := (scalar s iss f.sa.toNat).toNat % 2 ^ 32
    ∃ u, leaves (.lwait f) s iss.thr u ∧ besidesCtxs iss.thr s u
      ∧ match lwaitResult (dueCtx s t.ctx) n with
        | some (v, acq) => bare (u.thread iss.thr).regs = bare (t.regs.setS f.sd.toNat v)
            ∧ ∀ l, l < t.width → (u.thread iss.thr).lane l = if inGroup iss l then
                (if acq = true then { t.lane l with hold := .fence .acq 7 s.fl.next .done } else Lane.advance 8 (t.lane l)) else t.lane l
        | none =>
          if f.imm.getLsbD 8 = true then bare (u.thread iss.thr).regs = bare (t.regs.setS f.sd.toNat 0) ∧ movedOn iss.thr iss.lanes 8 s u
          else bare (u.thread iss.thr).regs = bare t.regs
            ∧ ∀ l, l < t.width → (u.thread iss.thr).lane l =
                if inGroup iss l then { t.lane l with hold := .launch f.sd.toNat n } else t.lane l)
  ∧ ∀ (thr sd n : Nat) (v : W64) (acq : Bool) (s : State), mayRelease s thr 0 → ((s.thread thr).lane 0).hold = .launch sd n →
    (s.thread thr).seq = none → 0 < (s.thread thr).width → lwaitResult (dueCtx s (s.thread thr).ctx) n = some (v, acq) →
    ∃ u, settles (.lwaitRelease thr) s thr u ∧ besidesCtxs thr s u
      ∧ bare (u.thread thr).regs = bare ((s.thread thr).regs.setS sd v)
      ∧ (u.thread thr).lane 0 = if acq = true then { (s.thread thr).lane 0 with hold := .fence .acq 7 s.fl.next .done }
          else Lane.advance 8 ((s.thread thr).lane 0)

/-- `MBRECV` takes the oldest deliverable message, writes how many are left and its words, and acquires at system scope;
with none it holds, to be delivered later, or gives −1 under `.nowait` (R337, R338, R357). A RESUME that it delivers
ends the fault whose ring entry it names: its lanes run again, or trap XFAULT or FRAME; action 3 is ignored (R374).
`MBSEND` first waits as a `FENCE.sys` does, then writes its message, its KIND zero, into a ring with a free place and
gives the places left, or gives −1 under `.nowait` (R358). -/
def Sys2Proof.Claims.MailboxesCarryMessages : Prop :=
  (∀ (f : FY) (s : State) (iss : Issue), runsNow (stewardShape [] ((List.range 9).map (f.sd.toNat + ·))) (fun _ _ => true) iss s →
    plainGroup s iss →
    let t := s.thread iss.thr
    let box := f.imm.toNat % 4
    let r := (s.ctx t.ctx).inRing box
    match r.oldest with
    | some msg =>
      field (msg.getD 0 0) 63 56 ≠ 1 →
      ∃ u, exec (.mbrecv f) s = .next (settleAll t.ctx (taken (settle iss.thr u))) ∧ besidesCtxs iss.thr s u
        ∧ bare (u.thread iss.thr).regs = bare (withWords t.regs f.sd.toNat
            (BitVec.ofNat 64 ((((u.ctx t.ctx).inRing box).pi + 2 ^ 32 - ((u.ctx t.ctx).inRing box).ci) % 2 ^ 32) :: msg))
        ∧ ((u.ctx t.ctx).inRing box).ci = (r.ci + 1) % 2 ^ 32 ∧ ((u.ctx t.ctx).inRing box).pi = r.pi
        ∧ ∀ l, l < t.width → (u.thread iss.thr).lane l =
            if inGroup iss l then { t.lane l with hold := .fence .acq 7 s.fl.next .done } else t.lane l
    | none =>
      ∃ u, exec (.mbrecv f) s = .next (settleAll t.ctx (taken (settle iss.thr u)))
        ∧ if f.imm.getLsbD 8 = true then onlyRegs iss.thr s u (t.regs.setS f.sd.toNat (BitVec.allOnes 64)) ∧ movedOn iss.thr iss.lanes 8 s u
          else lanesTo iss.thr s u t.regs fun l x => if inGroup iss l then { x with hold := .mailbox f.sd.toNat box } else x)
  ∧ (∀ (thr sd box : Nat) (msg : List W64) (s : State), mayRelease s thr 0 → ((s.thread thr).lane 0).hold = .mailbox sd box →
    0 < (s.thread thr).width → ((s.ctx (s.thread thr).ctx).inRing box).oldest = some msg → field (msg.getD 0 0) 63 56 ≠ 1 →
    let n := (s.thread thr).ctx
    ∃ u, exec (.mbrecvDelivery thr) s = .next (settleAll n (settle thr u)) ∧ besidesCtxs thr s u
      ∧ (∀ i, 0 < sd → i < 8 → (u.thread thr).regs.getS (sd + 1 + i) = msg.getD i 0)
      ∧ ((u.ctx n).inRing box).ci = (((s.ctx n).inRing box).ci + 1) % 2 ^ 32
      ∧ (u.thread thr).lane 0 = { (s.thread thr).lane 0 with hold := .fence .acq 7 s.fl.next .done })
  ∧ (∀ (f : FY) (s : State) (iss : Issue) (msg : List W64) (id k mask : Nat) (g : FaultRec),
    runsNow (stewardShape [] ((List.range 9).map (f.sd.toNat + ·))) (fun _ _ => true) iss s → plainGroup s iss → s.wf = true →
    let t := s.thread iss.thr
    let box := f.imm.toNat % 4
    let action := field (msg.getD 1 0) 1 0
    ((s.ctx t.ctx).inRing box).oldest = some msg → field (msg.getD 0 0) 63 56 = 1 → (id, g) ∈ s.fl.faults → g.live = true →
    g.ctx = t.ctx → g.index = some (field (msg.getD 0 0) 31 0) → g.who = .lanes k mask → g.miss.row = none →
    (∀ j h, (j, h) ∈ s.fl.faults → h.live = true → h.ctx = t.ctx → h.index = g.index → j = id) →
    k ≠ iss.thr → (s.thread k).seq = none → mask < 2 ^ 64 → (s.thread k).width ≤ 64 → (s.thread k).live = true →
    ∃ u, exec (.mbrecv f) s = .next (settleAll t.ctx (taken (settle iss.thr u))) ∧ u.mem = s.mem
      ∧ ((u.ctx t.ctx).inRing box).ci = (((s.ctx t.ctx).inRing box).ci + 1) % 2 ^ 32
      ∧ (∀ l, l < t.width → inGroup iss l → ∃ b, (u.thread iss.thr).lane l = { t.lane l with hold := .fence .acq 7 b .done })
      ∧ if action = 3 then u.thread k = s.thread k ∧ u.fault id = s.fault id
        else served id k mask (if action = 0 then .retry [] else if action = 1 then .fail else .noFrame) s u)
  ∧ ∀ (f : FY) (s : State) (iss : Issue),
    let box := f.imm.toNat % 4
    let regs := (List.range 8).map (f.sa.toNat + ·)
    runsNow (stewardShape regs [f.sd.toNat])
      (fun iss s => !allPassed s iss || has f.imm.toNat 8 || sendRoom s (s.thread iss.thr).ctx box) iss s → plainGroup s iss →
    let t := s.thread iss.thr
    if allPassed s iss = false then
      ∃ u, leaves (.mbsend f) s iss.thr u ∧ lanesTo iss.thr s u t.regs fun l x =>
        if inGroup iss l then { x with hold := .fence .full 7 iss.start .access } else x
    else if sendRoom s t.ctx box = true then
      ∃ u, leaves (.mbsend f) s iss.thr u ∧ movedOn iss.thr iss.lanes 8 s u ∧ besidesCtxs iss.thr s u
        ∧ ringTakes ((s.ctx t.ctx).outRing box) ((u.ctx t.ctx).outRing box)
            ((scalar s iss f.sa.toNat &&& 0x00FFFFFFFFFFFFFF) :: (List.range 7).map fun i => scalar s iss (f.sa.toNat + 1 + i))
        ∧ bare (u.thread iss.thr).regs = bare (t.regs.setS f.sd.toNat (BitVec.ofNat 64
            (64 - (((u.ctx t.ctx).outRing box).pi + 2 ^ 32 - ((u.ctx t.ctx).outRing box).ci) % 2 ^ 32)))
    else ∃ u, leaves (.mbsend f) s iss.thr u ∧ movedOn iss.thr iss.lanes 8 s u
      ∧ onlyRegs iss.thr s u (t.regs.setS f.sd.toNat (BitVec.allOnes 64))

/-- `EVWAIT` takes the oldest record of a kind in its mask, or holds until one comes, or gives −1 under `.nowait`; other
records stay (R359). -/
def Sys2Proof.Claims.EventsAreTaken : Prop :=
  (∀ (f : FY) (s : State) (iss : Issue), runsNow (stewardShape [] [f.sd.toNat, f.sd.toNat + 1]) (fun _ _ => true) iss s →
    plainGroup s iss →
    let t := s.thread iss.thr
    let mask := f.imm.toNat % 2 ^ 16
    let d := dueCtx s t.ctx
    ∃ u, leaves (.evwait f) s iss.thr u ∧ besidesCtxs iss.thr s u
      ∧ match d.events.find? fun r => mask.testBit r.kind with
        | some r => bare (u.thread iss.thr).regs = bare (withWords t.regs f.sd.toNat [r.word0, r.word1])
            ∧ (u.ctx t.ctx).events = d.events.erase r ∧ movedOn iss.thr iss.lanes 8 s u
        | none => (u.ctx t.ctx).events = d.events ∧
            if f.imm.getLsbD 16 = true then bare (u.thread iss.thr).regs = bare (t.regs.setS f.sd.toNat (BitVec.allOnes 64))
              ∧ movedOn iss.thr iss.lanes 8 s u
            else bare (u.thread iss.thr).regs = bare t.regs ∧ ∀ l, l < t.width → (u.thread iss.thr).lane l =
              if inGroup iss l then { t.lane l with hold := .event f.sd.toNat mask } else t.lane l)
  ∧ (∀ (thr sd mask : Nat) (r : EvRec) (s : State), mayRelease s thr 0 → ((s.thread thr).lane 0).hold = .event sd mask →
    (s.thread thr).seq = none → 0 < (s.thread thr).width →
    let d := dueCtx s (s.thread thr).ctx
    d.events.find? (fun r => mask.testBit r.kind) = some r →
    ∃ u, settles (.evwaitRelease thr) s thr u ∧ besidesCtxs thr s u
      ∧ bare (u.thread thr).regs = bare (withWords (s.thread thr).regs sd [r.word0, r.word1])
      ∧ (u.ctx (s.thread thr).ctx).events = d.events.erase r
      ∧ (u.thread thr).lane 0 = Lane.advance 8 ((s.thread thr).lane 0))
  ∧ (∀ (c : Ctx) (kind source : Nat) (w : W64), let seq := look 0 c.evSeq source
    look 0 (c.post kind source w).evSeq source = (seq + 1) % 2 ^ 32
      ∧ (c.events.length < 32 → (c.post kind source w).events = c.events ++ [{ kind, lost := decide (source ∈ c.evLost), source, seq, word1 := w }])
      ∧ (32 ≤ c.events.length → (c.post kind source w).events = c.events ∧ source ∈ (c.post kind source w).evLost))
  ∧ ∀ r : EvRec, r.kind < 16 → r.source < 2 ^ 16 → r.seq < 2 ^ 32 →
    field r.word0 7 0 = r.kind ∧ field r.word0 8 8 = (if r.lost = true then 1 else 0) ∧ field r.word0 31 16 = r.source
      ∧ field r.word0 63 32 = r.seq

/-- A placement puts the next workgroup of the launch whose turn it is on a granted core, in that core's lowest free warp
slots and the cluster's lowest free Lagoon range, none of them in use (R342, R343). Its warps start with registers of zero,
EM full, every lane before the header at the entry and G seeded (R143, R346); a released slot's warp is gone, and a
workgroup that it leaves without warps or regions is counted by its launch (R345). -/
def Obligations.WorkgroupsArePlaced : Prop :=
  (∀ (atoll n core : Nat) (e : Launch) (s : State),
    let v := run [seatContexts atoll] s
    let g := freeWgKey v core
    nextTurn v atoll = some n → placeable v n = some (e, core) → (e.init = true → launchReleased v n e = true) →
    (v.wg g).live = false →
    ∃ u, exec (.workgroupPlacement atoll) s = .next u ∧ (∀ j, u.thread j = s.thread j)
      ∧ core ∈ grantedCores (v.ctx n) e
      ∧ (u.wg g).live = true ∧ (u.wg g).ctx = n ∧ (u.wg g).launch = e.number ∧ (u.wg g).index = e.next ∧ (u.wg g).core = core
      ∧ (u.wg g).slots.length = e.warps ∧ (∀ x ∈ (u.wg g).slots, x < 32 ∧ ¬ slotUsed v core x)
      ∧ (∀ x, x < 32 → ¬ slotUsed v core x → x ∉ (u.wg g).slots → ∀ y ∈ (u.wg g).slots, y < x)
      ∧ e.lagoon ≤ (u.wg g).bytes ∧ (u.wg g).bytes % 65536 = 0 ∧ (u.wg g).lagoon + (u.wg g).bytes ≤ 12582912 ∧ (u.wg g).lagoon % 65536 = 0
      ∧ (∀ j w, (j, w) ∈ v.wgs → w.live = true → clusterOf w.core = clusterOf core → 0 < w.bytes → 0 < (u.wg g).bytes →
          (u.wg g).lagoon + (u.wg g).bytes ≤ w.lagoon ∨ w.lagoon + w.bytes ≤ (u.wg g).lagoon)
      ∧ (∀ j, j ≠ g → u.wg j = s.wg j) ∧ (u.atoll atoll).turn = n
      ∧ (∀ k, u.byte k = s.byte k ∨ u.byte k = 0 ∧ lagoonKey (clusterOf core) (u.wg g).lagoon ≤ k
          ∧ k < lagoonKey (clusterOf core) (u.wg g).lagoon + (u.wg g).bytes))
  ∧ (∀ (g : Nat) (s : State),
    let w := s.wg g
    let e := (s.ctx w.ctx).launch w.launch
    w.live = true → w.started = false → w.init = none → launchReleased s w.ctx e = true →
    (s.cluster (clusterOf w.core)).gated = false → w.slots.Nodup → (∀ x ∈ w.slots, x < 32) → w.core < 768 →
    ∃ u, exec (.warpStart g) s = .next (w.slots.foldl (fun s slot =>
          let s := settle (warpKey w.core slot) s
          if e.access = 0 then s else settle (accessKey w.core slot) s) u)
      ∧ u.mem = s.mem ∧ u.wg g = { w with started := true, warps := w.slots.map (warpKey w.core) }
      ∧ ∀ k slot, w.slots[k]? = some slot →
          (let t := u.thread (warpKey w.core slot)
           t.live = true ∧ t.engine = .core ∧ t.level = .kernel ∧ t.ctx = w.ctx ∧ t.core = w.core ∧ t.slot = slot ∧ t.warp = k
            ∧ t.width = e.width ∧ t.budget = e.budget ∧ t.regs.raen = true ∧ t.regs.em = BitVec.ofNat 64 (2 ^ e.width - 1)
            ∧ { t.regs with em := 0, lanes := [] } = { ({} : Regs) with raen := true }
            ∧ t.counters = 0 ∧ t.lgw = 0 ∧ t.repcnt = 0 ∧ t.rstat = 0 ∧ t.reefst = 0 ∧ t.seq = none
            ∧ ∀ l, l < e.width → t.lane l = { live := true, pc := BitVec.ofNat 56 e.entry, need := .start
                                              gen := seeded (k * e.width + l) w.index })
          ∧ (e.access ≠ 0 →
              let t := u.thread (accessKey w.core slot)
              t.live = true ∧ t.engine = .access ∧ (t.lane 0).pc = BitVec.ofNat 56 e.access ∧ (t.lane 0).need = .start
                ∧ t.regs.getS 1 = e.operand 5 ∧ t.regs.getS 5 = BitVec.ofNat 64 k ∧ t.regs.getS 7 = BitVec.ofNat 64 e.width))
  ∧ ∀ (k : Nat) (s : State),
    let t := s.thread k
    let w := s.wg t.wg
    releasableSlot s k = true → w.live = true →
    ∃ u, exec (.warpSlotRelease k) s = .next u ∧ u.thread k = {} ∧ (k ≠ accessKey t.core t.slot → u.thread (accessKey t.core t.slot) = {})
      ∧ (w.warps.filter (· != k) ≠ [] → u.mem = s.mem
          ∧ u.wg t.wg = { w with warps := w.warps.filter (· != k), lastThr := k, lgw := max w.lgw t.lgw })
      ∧ (w.warps.filter (· != k) = [] → w.regions = [] → w.started = true → opsOf s (backKey t.wg) = [] → releaseStopped s t.wg = false →
          u.mem = s.mem ∧ u.wg t.wg = {}
            ∧ (((s.ctx w.ctx).launch w.launch).live = true →
                ((u.ctx w.ctx).launch w.launch).completed = ((s.ctx w.ctx).launch w.launch).completed + 1))

end

/-- Launches are entered in a table, and awaited. -/
def Obligations.LaunchesRun : Prop :=
  Sys2Proof.Claims.LaunchesAreEntered ∧ Sys2Proof.Claims.LaunchesAreAwaited

/-- Mailboxes carry messages, and event records are taken in their order. -/
def Obligations.MessagesArrive : Prop :=
  Sys2Proof.Claims.MailboxesCarryMessages ∧ Sys2Proof.Claims.EventsAreTaken

namespace Sys2Proof.Claims

open Sys2Proof.Machine Sys2Proof.Safety

/-! ### Traps, returns and the service of faults -/

/-- The codes of the trap causes (R361). -/
def causeCodes : List (Cause × Nat) :=
  [(.undef, 0x01), (.priv, 0x02), (.regRange, 0x03), (.badTarget, 0x04), (.align, 0x05), (.badAddr, 0x06), (.memType, 0x07),
   (.poison, 0x08), (.fpe, 0x09), (.qUnder, 0x0A), (.pairLess, 0x0B), (.badRow, 0x0C), (.mapConf, 0x0D), (.frame, 0x0E),
   (.trap, 0x0F), (.xFault, 0x10)]

/-- A lane that `ERET.skip` moves on. -/
def skipped (x : Lane) : Lane := { Lane.advance 8 x with rewritten := x.rewritten }

/-- The lanes that an `ERET` of a record resumes: those of the record, and those stopped with them in a sequence. -/
def resumes (t : Thread) (r : Trap) (l : Nat) : Prop :=
  r.lanes.testBit l = true ∨ (r.inrep = true ∧ (t.lane l).live = true ∧ (t.lane l).state = .stopped .sequence)

/-- After the handler's own issue the resumed thread goes on. -/
def returns (i : Instr) (s u : State) (k thr : Nat) : Prop :=
  let v := taken (settle k u)
  exec i s = .next (if (v.thread thr).live = true then settle thr v else v)

end Sys2Proof.Claims

section
open Classical
open Sys2Proof Sys2Proof.Machine Sys2Proof.Safety Sys2Proof.Claims

/-- `TRAP` stops every lane of its group for one record of cause TRAP with its code (R361, R380). The delivery of a record
starts a handler thread in the lowest free slot of its cluster's SCC, at the header in TRAPVEC, at the handler level, with
the four words of the record in s1 to s4 and all else zero, and leaves the stopped lanes as they are (R13, R362, R363); with
TRAPVEC zero the lanes end (R364). -/
def Sys2Proof.Claims.TrapsAreTaken : Prop :=
  (∀ (f : FY) (s : State) (iss : Issue), runsNow { engines := ctlEngines } (fun _ _ => true) iss s → plainGroup s iss →
    iss.lanes ≠ 0 →
    ∃ u, leaves (.trap f) s iss.thr u ∧ stopsGroup s u iss .trap (BitVec.ofNat 64 (f.imm.toNat % 65536)))
  ∧ (∀ (id slot : Nat) (s : State),
    let r := s.trap id
    let c := s.ctx r.ctx
    deliverable s id = true → c.trapvec ≠ 0 → slot < 8 → (s.thread (sccKey r.cluster slot)).live = false →
    (∀ i, i < slot → (s.thread (sccKey r.cluster i)).live = true) →
    ∃ u, settles (.trapDelivery id) s (sccKey r.cluster slot) u ∧ u.mem = s.mem
      ∧ (∀ j, j ≠ sccKey r.cluster slot → u.thread j = s.thread j) ∧ u.trap id = { r with handler := some (sccKey r.cluster slot) }
      ∧ (let t := u.thread (sccKey r.cluster slot)
         t.live = true ∧ t.engine = .scc ∧ t.level = .handler ∧ t.ctx = r.ctx ∧ t.core = r.cluster ∧ t.slot = slot
          ∧ t.record = id + 1 ∧ t.width = 1 ∧ (t.lane 0).live = true ∧ (t.lane 0).state = .running
          ∧ (t.lane 0).pc = BitVec.ofNat 56 c.trapvec ∧ (t.lane 0).need = .start
          ∧ (∀ i, i < 4 → t.regs.getS (i + 1) = r.words.getD i 0) ∧ (∀ i, 5 ≤ i → t.regs.getS i = 0)
          ∧ t.counters = 0 ∧ t.lgw = 0))
  ∧ (∀ (id l : Nat) (s : State),
    let r := s.trap id
    deliverable s id = true → (s.ctx r.ctx).trapvec = 0 → (s.thread r.thr).live = true → (s.thread r.thr).seq = none →
    l < (s.thread r.thr).width →
    ∃ u, settles (.trapDelivery id) s r.thr u ∧ u.mem = s.mem ∧ u.trap id = {}
      ∧ ((s.thread r.thr).engine = .core →
          (u.thread r.thr).regs.em = (s.thread r.thr).regs.em &&& ~~~(BitVec.ofNat 64 r.lanes)
            ∧ if r.lanes.testBit l = true then ((u.thread r.thr).lane l).state = .exited
              else (u.thread r.thr).lane l = (s.thread r.thr).lane l)
      ∧ ((s.thread r.thr).engine = .access → (u.thread r.thr).ended = true ∧ ((u.thread r.thr).lane 0).state = .exited)
      ∧ ((s.thread r.thr).engine = .scc → u.thread r.thr = {} ∧ (u.ctx (s.thread r.thr).ctx).steward = none))
  ∧ ∀ (r : Trap) (code : Nat), (r.cause, code) ∈ causeCodes → r.agent < 8 → r.core < 1024 → r.slot < 32 → r.seq < 2 ^ 32 →
    let w := fun i => r.words.getD i 0
    field (w 0) 7 0 = code ∧ field (w 0) 10 8 = r.agent ∧ field (w 0) 11 11 = (if r.inrep = true then 1 else 0)
      ∧ field (w 0) 15 12 = 0 ∧ field (w 0) 25 16 = r.core ∧ field (w 0) 30 26 = r.slot ∧ field (w 0) 31 31 = 0
      ∧ field (w 0) 63 32 = r.seq ∧ w 1 = BitVec.ofNat 64 r.lanes ∧ w 2 = r.pc.setWidth 64 ∧ w 3 = r.detail

/-- `ERET` ends the handler and its record and lets the record's lanes run again where they stopped, a rewritten PC as the
start of a block; `ERET.skip` moves them past the instruction and abandons the rest of a sequence. When a rewritten PC names
no header, nothing resumes and the handler traps BADTARGET (R381). -/
def Sys2Proof.Claims.ReturnsResumeTheRecord : Prop :=
  (∀ (f : FY) (id : Nat) (s : State) (iss : Issue),
    runsNow { engines := ctlEngines, level := .handler } (fun _ _ => true) iss s →
    (s.thread iss.thr).record = id + 1 →
    let r := s.trap id
    let t := s.thread r.thr
    let skip := f.imm.getLsbD 0
    r.live = true → t.live = true → r.thr ≠ iss.thr → badResume s id skip = none → (skip = false → t.seq = none) →
    ∃ u, returns (.eret f) s u iss.thr r.thr ∧ u.mem = s.mem ∧ u.thread iss.thr = {} ∧ u.trap id = {}
      ∧ bare (u.thread r.thr).regs = bare t.regs ∧ (u.thread r.thr).seq = none ∧ (skip = true → (u.thread r.thr).repcnt = 0)
      ∧ ∀ l, l < t.width → (u.thread r.thr).lane l =
          if resumes t r l then runsAgain (if skip = true then skipped (t.lane l) else t.lane l) else t.lane l)
  ∧ (∀ (f : FY) (id l : Nat) (s : State) (iss : Issue),
    runsNow { engines := ctlEngines, level := .handler } (fun _ _ => true) iss s → plainGroup s iss → iss.lanes = 1 →
    (s.thread iss.thr).record = id + 1 →
    let r := s.trap id
    let t := s.thread r.thr
    let a := (t.lane l).pc + (if f.imm.getLsbD 0 = true then 8 else 0)
    r.thr ≠ iss.thr → l < t.width → resumes t r l → (t.lane l).rewritten = true →
    (∀ m, m < t.width → m ≠ l → resumes t r m → (t.lane m).rewritten = false) →
    (a.toNat % 8 ≠ 0 ∨ ∃ w : W64, fetch s t a = .ok w ∧ w.extractLsb' 58 6 ≠ 63) →
    ∃ u, returns (.eret f) s u iss.thr r.thr ∧ stopsGroup s u iss .badTarget (a.setWidth 64) ∧ u.thread r.thr = t)

/-- Lanes that meet a translation fault park on it, and the fault goes by its stage: a first-stage one to the context's
ring, a second-stage one to the die's Harbour pair or, host-assisted, as a request to the host, which waits while the pair
restarts or is handed over (R371, R405, R424, R431). A ring entry is 32 bytes with the fields of R373 at the producer index of
a ring with room; a FAULT event and bit 1 of ISTAT follow (R359, R372, R373). -/
def Sys2Proof.Claims.FaultsParkAndAreRouted : Prop :=
  (∀ (k : Nat) (pc : Addr) (group l : Nat) (m : Miss) (s : State),
    let t := s.thread k
    let n := m.of_.getD t.ctx
    let c := s.ctx n
    let id := s.fl.next
    let u := run [fun s => strike s k pc group [(l, .miss m)]] s
    l < t.width → l < 64 → t.seq = none → m.home = false →
    (u.fault id).live = true ∧ (u.fault id).miss = m ∧ (u.fault id).ctx = n ∧ (u.fault id).who = .lanes k (2 ^ l)
      ∧ (m.region = false → (u.fault id).pc = pc)
      ∧ (∀ j, j < t.width → (u.thread k).lane j = if j = l then { t.lane l with state := .parked id, hold := .none } else t.lane j)
      ∧ bare (u.thread k).regs = bare t.regs ∧ u.mem = s.mem
      ∧ if m.stage2 = false then (u.ctx n).frwait = c.frwait ++ [id] ∧ (u.fault id).seq = (s.die t.die).faultSeq % 2 ^ 32
            ∧ (u.die t.die).faultSeq = ((s.die t.die).faultSeq + 1) % 2 ^ 32
        else if hostAssisted s c.atoll 0 = false then
          (∀ b, (look 0 (u.die t.die).hpend 0).testBit b = ((look 0 (s.die t.die).hpend 0).testBit b || decide (b = 1)))
        else if (s.die t.die).restart = true ∨ (s.die t.die).handover = true then u.sys.asks = s.sys.asks
        else u.sys.asks = s.sys.asks ++ [{ tag := s.sys.nextTag, code := 0x80, what := id }])
  ∧ (∀ (n id : Nat) (p : Place) (s : State),
    let c := s.ctx n
    let f := s.fault id
    let index := c.frpi % 2 ^ 32
    let u := run [serveRing n] s
    c.frwait = [id] → (c.frpi + 2 ^ 32 - c.frci) % 2 ^ 32 < 2 ^ c.fsize → f.live = true →
    translate s { ctx := n, cluster := c.home, die := dieOfCluster c.home } .write (c.fring + 32 * (c.frpi % 2 ^ 32 % 2 ^ c.fsize)) = .ok p →
    p.space = .dev →
    (∀ i, i < 4 → dword u (p.key + 8 * i) = BitVec.ofNat 64 (f.words.getD i 0))
      ∧ (∀ j, (j < p.key ∨ p.key + 32 ≤ j) → u.byte j = s.byte j)
      ∧ u.fault id = { f with index := some index } ∧ (u.ctx n).frpi = (c.frpi + 1) % 2 ^ 32 ∧ (u.ctx n).frwait = []
      ∧ (u.ctx n).events = (c.post 2 f.die (BitVec.ofNat 64 index)).events ∧ (u.ctx n).istat.testBit 1 = true)
  ∧ ∀ f : FaultRec, f.miss.access < 4 → f.miss.reason < 16 → f.agent < 5 → f.miss.level < 8 → f.ctx < 64 → f.core < 1024 →
    f.slot < 32 →
    let w := fun i => f.words.getD i 0
    w 0 % 2 ^ 4 = f.miss.access ∧ w 0 / 2 ^ 4 % 2 ^ 4 = f.miss.reason ∧ w 0 / 2 ^ 8 % 2 ^ 3 = f.agent
      ∧ w 0 / 2 ^ 11 % 2 ^ 3 = f.miss.level ∧ w 0 / 2 ^ 14 % 2 ^ 2 = 0 ∧ w 0 / 2 ^ 16 % 2 ^ 6 = f.ctx
      ∧ w 0 / 2 ^ 22 % 2 ^ 10 = f.core ∧ w 0 / 2 ^ 32 = f.seq ∧ w 1 = f.miss.va ∧ w 2 % 2 ^ 56 = f.pc.toNat
      ∧ w 2 / 2 ^ 56 = f.slot
      ∧ (∀ k m, f.who = .lanes k m → f.agent ≠ 3 → w 3 = if f.agent = 0 then m else if f.agent = 4 then 0 else 1)
      ∧ ((∀ k m, f.who ≠ .lanes k m) → w 3 = 0)

/-- The service of a second-stage fault by the die's pair, or of a home-served one by its home, ends the fault: its lanes run
again, or they trap XFAULT or FRAME with its address (R371, R374, R375). -/
def Sys2Proof.Claims.ServicesEndFaults : Prop :=
  (∀ (id k mask : Nat) (a : Service) (s : State),
    let f := s.fault id
    f.live = true → f.miss.stage2 = true → f.miss.home = false → hostAssisted s (s.ctx f.ctx).atoll 0 = false →
    (s.die f.die).restart = false → (s.die f.die).handover = false → f.who = .lanes k mask → (s.thread k).seq = none →
    f.miss.row = none → mask < 2 ^ 64 → (s.thread k).width ≤ 64 → (s.thread k).live = true →
    ∃ u, settles (.secondStageService id a) s k u ∧ served id k mask a s u
      ∧ match a with
        | .retry [e] => dword u (e.1 % 2 ^ 52 / 8 * 8) = e.2
            ∧ ∀ j, (j < e.1 % 2 ^ 52 / 8 * 8 ∨ e.1 % 2 ^ 52 / 8 * 8 + 8 ≤ j) → u.byte j = s.byte j
        | .retry (_ :: _ :: _) => True
        | _ => u.mem = s.mem)
  ∧ ∀ (id k mask : Nat) (a : Service) (s : State),
    let f := s.fault id
    f.live = true → f.miss.home = true → f.who = .lanes k mask → (s.thread k).seq = none → f.miss.row = none →
    mask < 2 ^ 64 → (s.thread k).width ≤ 64 → (s.thread k).live = true →
    ∃ u, settles (.peerHomeFault id a) s k u ∧ served id k mask a s u ∧ u.mem = s.mem
      ∧ u.sys.homeBad = match a with
        | .retry _ => s.sys.homeBad.filter (· != f.miss.gpa / 2 ^ 16)
        | _ => s.sys.homeBad

end

/-- A trap record is taken by a handler, whose return resumes its lanes. -/
def Obligations.TrapsAndReturns : Prop :=
  Sys2Proof.Claims.TrapsAreTaken ∧ Sys2Proof.Claims.ReturnsResumeTheRecord

/-- A fault parks its lanes and is routed, and a service ends it. -/
def Obligations.FaultsAreServed : Prop :=
  Sys2Proof.Claims.FaultsParkAndAreRouted ∧ Sys2Proof.Claims.ServicesEndFaults

namespace Sys2Proof.Claims

open Sys2Proof.Machine Sys2Proof.Safety

/-! ### The host and the fabric -/

/-- An index write of value `v` is accepted over `n` places (R393). -/
def indexOk (v base n : Nat) : Prop := 1 ≤ (v % 2 ^ 32 + 2 ^ 32 - base) % 2 ^ 32 ∧ (v % 2 ^ 32 + 2 ^ 32 - base) % 2 ^ 32 ≤ n

/-- Only ISTAT bit `bit` of a context is set, and its vector is sent where the bit was clear and is enabled (R394). -/
def interrupted (s u : State) (n bit : Nat) : Prop :=
  let c := s.ctx n
  u.ctx n = { c with istat := c.istat ||| 2 ^ bit } ∧ (∀ m, m ≠ n → u.ctx m = s.ctx m)
    ∧ u.sys.out = s.sys.out ++ (if c.istat.testBit bit = false ∧ c.imask.testBit bit = true then
        [.vector c.fn (4 * c.fslot + (if bit = 4 then 3 else bit))] else [])
    ∧ u = { s with ctxs := u.ctxs, sys := { s.sys with out := u.sys.out } }

/-- A byte of `size` bytes from `key` after a masked store. -/
def storedByte (s : State) (key mask data k : Nat) : Byte :=
  let m := BitVec.ofNat 8 (mask / 2 ^ (8 * (k - key)))
  (s.byte k &&& ~~~m) ||| (BitVec.ofNat 8 (data / 2 ^ (8 * (k - key))) &&& m)

/-- Only the masked bits of `size` bytes at `key` are stored. -/
def storesOnly (s u : State) (key size mask data : Nat) : Prop :=
  ∀ k, u.byte k = if key ≤ k ∧ k < key + size then storedByte s key mask data k else s.byte k

/-- Only one message more is sent. -/
def onlySends (s u : State) (m : Sent) : Prop := u = { s with sys := { s.sys with out := s.sys.out ++ [m] } }

/-- A peer's access is performed at a place of device memory: a read or a write of its 16-byte unit, or an atomic, answered at
once; of an add.bf16x2 the low half now, and its request stands for the high half (R198, R398). -/
def peerPerformed (q : PeerRequest) (canW : Bool) (pa : Nat) (s u : State) : Prop :=
  let unit_ := forward s .dev (pa / 16 * 16)
  let at_ := forward s .dev pa
  match q.atom with
  | some a =>
    let size := if a.aop = 17 then 8 else 4
    let m := readNat s at_ size
    if a.aop = 10 then
      let r := u.req s.fl.next
      storesOnly s u at_ 2 (2 ^ 16 - 1) (sliceAdd bf16 (m % 2 ^ 16) (a.x % 2 ^ 16)) ∧ u.sys.out = s.sys.out
        ∧ r.live = true ∧ r.kind = .atomic ∧ r.half = true ∧ r.inbound = true ∧ r.thr = peerAgent q.source ∧ r.space = .dev
        ∧ r.key = pa ∧ r.atoms = [{ a with canW, cmp := m % 2 ^ 16 }]
    else
      u.fl = s.fl ∧ u.sys.out = s.sys.out ++ [.peerReply true m (gwctOf s .dev at_)]
        ∧ match (Atom.writes { a with canW } m) with
          | some x => storesOnly s u at_ size (2 ^ (8 * size) - 1) x
          | none => u.mem = s.mem
  | none =>
    u.fl = s.fl ∧ if q.write = true then storesOnly s u unit_ 16 q.mask q.data
        ∧ u.sys.out = s.sys.out ++ [.peerReply true 0 (gwctOf s .dev unit_)]
      else onlySends s u (.peerReply true (readNat s unit_ 16) 0)

end Sys2Proof.Claims

section
open Classical
open Sys2Proof Sys2Proof.Machine Sys2Proof.Safety Sys2Proof.Claims

/-- An accepted INPI write completes the messages up to it with what their slots hold, tells the steward and the worker; an
accepted OUTCI, FRCI or SVRCI write frees places, of which a waiting notice takes one; any other index write is ignored and
sets PIERR on a context's page (R337, R359, R393, R403). ISTAT is cleared by ones and IMASK stored, sending the vectors that it
lets through (R394). -/
def Sys2Proof.Claims.HostWritesIndices : Prop :=
  (∀ (n box v : Nat) (s : State), (s.ctx n).live = true → box < 4 →
    let r := (s.ctx n).inRing box
    (indexOk v r.pi 64 ∧ indexOk v r.ci 64 →
      ∃ u, exec (.inboundMessage n box v) s = .next u ∧ u.mem = s.mem ∧ (∀ j, u.thread j = s.thread j) ∧ (∀ m, m ≠ n → u.ctx m = s.ctx m)
        ∧ (let r' := (u.ctx n).inRing box
           r'.pi = v % 2 ^ 32 ∧ r'.ci = r.ci ∧ r'.slots = r.slots
            ∧ (∀ i w, i < (v % 2 ^ 32 + 2 ^ 32 - r.pi) % 2 ^ 32 → w < 8 →
                look 0 r'.kept (8 * ((r.pi + i) % 64) + w) = look 0 r.slots (8 * ((r.pi + i) % 64) + w)))
        ∧ (∀ b, b ≠ box → (u.ctx n).inRing b = (s.ctx n).inRing b)
        ∧ look 0 (u.ctx n).evSeq (0x0200 + box) = (look 0 (s.ctx n).evSeq (0x0200 + box) + 1) % 2 ^ 32
        ∧ ((s.ctx n).events.length < 32 → ∃ e, (u.ctx n).events = (s.ctx n).events ++ [e] ∧ e.kind = 3 ∧ e.source = 0x0200 + box
            ∧ e.word1 = BitVec.ofNat 64 ((v % 2 ^ 32 + 2 ^ 32 - r.ci) % 2 ^ 32))
        ∧ (look 0 (u.die (dieOfCluster (s.ctx n).home)).hpend (1 + n % 4)).testBit 0 = true)
    ∧ (¬ (indexOk v r.pi 64 ∧ indexOk v r.ci 64) → ∃ u, exec (.inboundMessage n box v) s = .next u ∧ interrupted s u n 4))
  ∧ (∀ (n box v : Nat) (s : State), (s.ctx n).live = true → box < 4 →
    let r := (s.ctx n).outRing box
    let held := (r.pi + 2 ^ 32 - r.ci) % 2 ^ 32
    (indexOk v r.ci held →
      ∃ u, exec (.outciWrite n box v) s = .next u ∧ u.mem = s.mem ∧ (∀ j, u.thread j = s.thread j)
        ∧ ((u.ctx n).outRing box).ci = v % 2 ^ 32
        ∧ (box ≠ 3 ∨ (s.ctx n).notices = [] → (u.ctx n).outRing box = { r with ci := v % 2 ^ 32 })
        ∧ (∀ m ms, box = 3 → (s.ctx n).notices = m :: ms → r.pi < 2 ^ 32 → (r.pi + 2 ^ 32 - v % 2 ^ 32) % 2 ^ 32 < 64 →
            (u.ctx n).notices.length ≤ ms.length
              ∧ ∀ i, i < 8 → look 0 ((u.ctx n).outRing 3).slots (8 * (r.pi % 64) + i) = m.getD i 0))
    ∧ (¬ indexOk v r.ci held → ∃ u, exec (.outciWrite n box v) s = .next u ∧ interrupted s u n 4))
  ∧ (∀ (n v : Nat) (s : State), (s.ctx n).live = true → (s.ctx n).frwait = [] →
    let c := s.ctx n
    (indexOk v c.frci ((c.frpi + 2 ^ 32 - c.frci) % 2 ^ 32) →
      ∃ u, exec (.frciWrite n v) s = .next u ∧ u = { s with ctxs := put {} s.ctxs n { c with frci := v % 2 ^ 32 } })
    ∧ (¬ indexOk v c.frci ((c.frpi + 2 ^ 32 - c.frci) % 2 ^ 32) → ∃ u, exec (.frciWrite n v) s = .next u ∧ interrupted s u n 4))
  ∧ (∀ (v : Nat) (s : State),
    let y := s.sys
    let ok := indexOk v y.svrci ((y.svrpi + 2 ^ 32 - y.svrci) % 2 ^ 32)
    ∃ u, exec (.svrciWrite v) s = .next u ∧ u = { s with sys := u.sys }
      ∧ (¬ ok → u = s) ∧ (ok → u.sys.svrci = v % 2 ^ 32 ∧ u.sys.waiting.length ≤ y.waiting.length
          ∧ (y.waiting = [] → u.sys = { y with svrci := v % 2 ^ 32 })))
  ∧ (∀ (n v : Nat) (s : State), (s.ctx n).live = true →
    (∃ u, exec (.istatClear n v) s = .next u ∧ (∀ b, b < 5 → (u.ctx n).istat.testBit b = ((s.ctx n).istat.testBit b && !v.testBit b))
      ∧ u = { s with ctxs := put {} s.ctxs n { s.ctx n with istat := (u.ctx n).istat } })
    ∧ (∃ u l, exec (.imaskWrite n v) s = .next u ∧ (∀ b, b < 5 → (u.ctx n).imask.testBit b = v.testBit b)
      ∧ u = { s with ctxs := put {} s.ctxs n { s.ctx n with imask := (u.ctx n).imask }, sys := { s.sys with out := s.sys.out ++ l } }
      ∧ ∀ x, x ∈ l ↔ ∃ b, b < 5 ∧ v.testBit b = true ∧ (s.ctx n).imask.testBit b = false ∧ (s.ctx n).istat.testBit b = true
          ∧ x = .vector (s.ctx n).fn (4 * (s.ctx n).fslot + (if b = 4 then 3 else b))))

/-- A register write stores the bits that are not reserved; ATOLLMODE only while the atoll has no active context, SVCPI
only where its index rule allows it (R3, R401 to R403, R427). A host reads and writes a context's ring slots and control
page through BAR0, ring slots in any bytes, device memory of the function's atoll through BAR2 of an enabled function,
and the Harbour block through the PF's BAR4 (R391, R392, R402, R425). -/
def Sys2Proof.Claims.HostReachesRegisters : Prop :=
  (∀ (r : PfReg) (v : W64) (s : State), ∃ u, exec (.registerWrite r v) s = .next u ∧ u.mem = s.mem ∧ (∀ j, u.thread j = s.thread j)
    ∧ match r with
      | .hrbase i => i < 16 → u = { s with sys := { s.sys with hrbase := put 0 s.sys.hrbase i (v &&& 0x000FFFFFFFFFF000) } }
      | .hrlim i => i < 16 → u = { s with sys := { s.sys with hrlim := put 0 s.sys.hrlim i (v &&& 0x000FFFFFFFFFF003) } }
      | .fncfg f => f < 64 → u = { s with sys := { s.sys with fncfg := put 0 s.sys.fncfg f (v &&& 0x000FFFF000000703) } }
      | .atollmode a => a < 8 →
          if ∃ n c, (n, c) ∈ s.ctxs ∧ c.live = true ∧ c.active = true ∧ c.atoll = a then u = s
          else u = { s with sys := { s.sys with atollmode := put 0 s.sys.atollmode a (v &&& 0x3F) } }
      | .adl d a => d < 4 → a < 8 → s.wf = true →
          (u.die d).adlSlice a = (if v.toNat / 2 ^ 32 % 2 ^ 16 = 0 then 1000 else v.toNat / 2 ^ 32 % 2 ^ 16)
            ∧ (u.die d).adlDeadline a = max 10 (v.toNat % 2 ^ 16)
            ∧ (∀ e b, (e ≠ d ∨ b ≠ a) → (u.die e).adlSlice b = (s.die e).adlSlice b ∧ (u.die e).adlDeadline b = (s.die e).adlDeadline b)
            ∧ ∀ n, (u.ctx n).deadline = if d = 0 ∧ ofAtoll s a n then max 10 (v.toNat % 2 ^ 16) else (s.ctx n).deadline
      | .svcpi =>
          if indexOk v.toNat s.sys.svcpi 64 ∧ indexOk v.toNat s.sys.svcci 64 then
            u = { s with sys := { s.sys with svcpi := v.toNat % 2 ^ 32 } }
          else u = s)
  ∧ (∀ (fn slot off n : Nat) (s : State), slot < 16 → off < 0x10000 → off % 8 = 0 → ctxAt s fn slot = some n →
    (∃ u, exec (.hostBarAccess fn 0 (slot * 0x10000 + off) ⟨8, none⟩) s = .next u ∧ onlySends s u (.barData (windowRead0 s n off)))
    ∧ ∀ v : W64, off < 0x4000 → (s.ctx n).frwait = [] →
        ∃ u, exec (.hostBarAccess fn 0 (slot * 0x10000 + off) ⟨8, some v⟩) s = .next u
          ∧ u = { s with ctxs := u.ctxs } ∧ (∀ m, m ≠ n → u.ctx m = s.ctx m)
          ∧ windowRead0 u n off = v ∧ ∀ o, o < 0x8000 → o % 8 = 0 → o ≠ off → windowRead0 u n o = windowRead0 s n o)
  ∧ (∀ (fn slot off size n : Nat) (v : W64) (s : State), slot < 16 → 1 ≤ size → size ≤ 8 → ctxAt s fn slot = some n →
    let byteOf := fun (t : State) k => (windowRead0 t n (k / 8 * 8)).toNat / 2 ^ (8 * (k % 8)) % 2 ^ 8
    (off + size ≤ 0x8000 → ∃ (x : W64) (u : State), exec (.hostBarAccess fn 0 (slot * 0x10000 + off) ⟨size, none⟩) s = .next u
      ∧ onlySends s u (.barData x) ∧ ∀ i, i < 8 → x.toNat / 2 ^ (8 * i) % 2 ^ 8 = if i < size then byteOf s (off + i) else 0)
    ∧ (off + size ≤ 0x4000 → (s.ctx n).frwait = [] →
        ∃ u, exec (.hostBarAccess fn 0 (slot * 0x10000 + off) ⟨size, some v⟩) s = .next u ∧ u = { s with ctxs := u.ctxs }
          ∧ (∀ m, m ≠ n → u.ctx m = s.ctx m) ∧ ∀ k, k < 0x8000 →
              byteOf u k = if off ≤ k ∧ k < off + size then v.toNat / 2 ^ (8 * (k - off)) % 2 ^ 8 else byteOf s k)
    ∧ (0x8000 ≤ off → off + size ≤ 0x10000 → size ≠ 8 ∨ off % 8 ≠ 0 →
        (∃ u, exec (.hostBarAccess fn 0 (slot * 0x10000 + off) ⟨size, none⟩) s = .next u ∧ onlySends s u (.barData 0))
          ∧ exec (.hostBarAccess fn 0 (slot * 0x10000 + off) ⟨size, some v⟩) s = .next s))
  ∧ (∀ (n i : Nat) (s : State), i < 4 →
    windowRead0 s n (0x8000 + 8 * i) = BitVec.ofNat 64 ((s.ctx n).inRing i).pi
      ∧ windowRead0 s n (0x8020 + 8 * i) = BitVec.ofNat 64 ((s.ctx n).inRing i).ci
      ∧ windowRead0 s n (0x8040 + 8 * i) = BitVec.ofNat 64 ((s.ctx n).outRing i).pi
      ∧ windowRead0 s n (0x8060 + 8 * i) = BitVec.ofNat 64 ((s.ctx n).outRing i).ci
      ∧ windowRead0 s n 0x8080 = BitVec.ofNat 64 (s.ctx n).frpi ∧ windowRead0 s n 0x8088 = BitVec.ofNat 64 (s.ctx n).frci
      ∧ windowRead0 s n 0x8090 = BitVec.ofNat 64 (s.ctx n).istat ∧ windowRead0 s n 0x8098 = BitVec.ofNat 64 (s.ctx n).imask
      ∧ ∀ o, 0x8100 ≤ o → windowRead0 s n o = 0)
  ∧ (∀ (fn off size : Nat) (v : W64) (s : State), off < 2 ^ 36 → 1 ≤ size → off % 8 + size ≤ 8 →
    let w := (look 0 s.sys.fncfg fn).toNat
    let pa := w / 2 ^ 36 % 2 ^ 16 * 2 ^ 36 + off / 8 * 8
    let at_ := forward s .dev pa + off % 8
    let may := w % 2 = 1 ∧ ownedBy s (w / 2 ^ 8 % 2 ^ 3) pa = true
    (may → (∃ u, exec (.hostBarAccess fn 2 off ⟨size, none⟩) s = .next u
          ∧ onlySends s u (.barData (BitVec.ofNat 64 (readNat s at_ size))))
      ∧ (pageHeld s .dev pa = false → ∃ u, exec (.hostBarAccess fn 2 off ⟨size, some v⟩) s = .next u
          ∧ storesOnly s u at_ size (2 ^ (8 * size) - 1) v.toNat ∧ (∀ j, u.thread j = s.thread j) ∧ u.ctxs = s.ctxs ∧ u.fl = s.fl))
    ∧ (¬ may → (∃ u, exec (.hostBarAccess fn 2 off ⟨size, none⟩) s = .next u ∧ onlySends s u (.barData 0))
      ∧ exec (.hostBarAccess fn 2 off ⟨size, some v⟩) s = .next s))
  ∧ ∀ (off : Nat) (s : State), off < 2 ^ 26 → off % 8 = 0 →
    ∃ u, exec (.hostBarAccess 0 4 off ⟨8, none⟩) s = .next u ∧ onlySends s u (.barData (harbourRead s (off / 2 ^ 24) (off % 2 ^ 24)))

/-- A payload that the oldest message names is fetched by a copy of the home cluster's engine, and one whose byte count is out
of range is not and marks its message PFAIL (R395, and a choice of the model). A peer's acknowledgement brings its GWCT +
48 ns (R207). A peer's request is refused where its source is not listed, or where it writes with an old map generation; else
it is performed at the home slice, after what that source asked for before, and answered (R198, R378, R398): at its physical
address, or for a home-served range where its context's tables map it, whose fault goes to this device's Harbour (R371, R397;
log entry 99). What a peer refuses parks the lanes that asked, on a second-stage fault (R398). -/
def Obligations.PayloadsAndPeers : Prop :=
  (∀ (n box : Nat) (s : State),
    let c := s.ctx n
    let r := c.inRing box
    let w := fun i => (look 0 r.kept (8 * (r.ready % 64) + i)).toNat
    c.live = true → box < 4 → r.fetch = none → r.ready ≠ r.pi → r.wantsPayload r.ready = true → workerAway s n = false → c.save = .none →
    (1 ≤ w 7 % 2 ^ 32 ∧ w 7 % 2 ^ 32 ≤ 65536 →
      ∃ u, exec (.payloadCopy n box) s = .next u ∧ u.mem = s.mem ∧ ((u.ctx n).inRing box) = { r with fetch := some s.fl.next }
        ∧ (u.cluster c.home).queue = (s.cluster c.home).queue ++ [s.fl.next]
        ∧ u.copy s.fl.next = { live := true, owner := .payload n box, thr := orphanKey (4 * n + box), ctx := n, cluster := c.home
                               accepted := true, dst := w 5 % 2 ^ 56, src := w 6 % 2 ^ 56, len := w 7 % 2 ^ 32 })
    ∧ (¬ (1 ≤ w 7 % 2 ^ 32 ∧ w 7 % 2 ^ 32 ≤ 65536) →
      ∃ u, exec (.payloadCopy n box) s = .next u ∧ u = { s with ctxs := u.ctxs } ∧ r.ready ∈ ((u.ctx n).inRing box).failed))
  ∧ (∀ (n gwct : Nat) (s : State),
    let r := s.req n
    r.live = true → r.space = .peer → r.done = true → r.acked = false → r.kind ≠ .load → r.copy = none →
    ∃ u, exec (.peerAck n gwct) s = .next u ∧ u = { s with fl := { s.fl with reqs := u.fl.reqs } }
      ∧ u.req n = { r with acked := true, gwct := max r.gwct (gwct + 48) } ∧ ∀ m, m ≠ n → u.req m = s.req m)
  ∧ (∀ (n : Nat) (a : Atom) (rest : List Atom) (s : State),
    let r := s.req n
    let key := forward s .dev r.key + 2
    let m := readNat s key 2
    r.live = true → r.kind = .atomic → r.half = true → r.inbound = true → r.space = .dev → pageHeld s .dev r.key = false →
    r.atoms = a :: rest → poisoned s .dev key 2 = false →
    ∃ u, exec (.atomicHighHalf n) s = .next u ∧ u.req n = {} ∧ storesOnly s u key 2 (2 ^ 16 - 1) (sliceAdd bf16 m (a.x / 2 ^ 16 % 2 ^ 16))
      ∧ u.sys.out = s.sys.out ++ [.peerReply true (a.cmp + m * 2 ^ 16) (max r.gwct (gwctOf s .dev key))])
  ∧ (∀ (n : Nat) (s : State),
    let r := s.req n
    r.space = .peer → mayPerform s n = true → r.op ≠ 0 → (s.thread r.thr).live = true →
    ∃ u, happen (.refused (.req n)) s = .next u ∧ u.mem = s.mem ∧ u.req n = r
      ∧ (u.fault s.fl.next).live = true ∧ (u.fault s.fl.next).who = .request n ∧ (u.fault s.fl.next).ctx = r.ctx
      ∧ (u.fault s.fl.next).miss.stage2 = true ∧ (u.fault s.fl.next).miss.va = r.va
      ∧ ∀ l, l < (s.thread r.thr).width → (u.thread r.thr).lane l =
          let x := (s.thread r.thr).lane l
          if x.live = true ∧ x.state = .running ∧ (s.op r.op).lanes.testBit l = true then { x with state := .parked s.fl.next } else x)
  ∧ ∀ (q : PeerRequest) (s : State),
    let pa := q.pa % 2 ^ 52
    let listed := ∃ o ∈ s.sys.owners, o.1 = q.source ∧ o.2.1 ≤ pa ∧ pa ≤ o.2.2
    let old := (q.write = true ∨ q.atom ≠ none) ∧ q.gen % 256 ≠ s.sys.mapGen % 256
    ((¬ listed ∨ old) → ∃ u, exec (.peerRequest q) s = .next u ∧ onlySends s u (.peerReply false 0 0))
    ∧ (listed → ¬ old → (∀ j r, (j, r) ∈ s.fl.reqs → r.live = true → r.inbound = true → r.thr ≠ peerAgent q.source) →
        let changes := q.write = true ∨ q.atom ≠ none
        match q.home with
        | none => (changes → pageHeld s .dev pa = false) →
            ∃ u, exec (.peerRequest q) s = .next u ∧ (∀ j, u.thread j = s.thread j) ∧ u.ctxs = s.ctxs ∧ peerPerformed q true pa s u
        | some c =>
          let who := homeWho s c
          let va := q.pa % 2 ^ 40
          (∀ p, translate s who (peerAccess q) va = .ok p → p.space = .dev → (changes → pageHeld s .dev p.key = false) →
            peerParks s q p.key p.canW = false →
            ∃ v u, tookPage who (peerAccess q).needW va s v ∧ exec (.peerRequest q) s = .next u ∧ (∀ j, u.thread j = s.thread j)
              ∧ peerPerformed q p.canW p.key v u)
          ∧ ∀ m, translate s who (peerAccess q) va = .error m →
            ∃ u, exec (.peerRequest q) s = .next u ∧ u.mem = s.mem ∧ u.sys.out = s.sys.out ∧ (u.fault s.fl.next).live = true
              ∧ (u.fault s.fl.next).who = .peer q.source ∧ (u.fault s.fl.next).ctx = c ∧ (u.fault s.fl.next).miss.home = true
              ∧ (look 0 (u.die who.die).hpend 0).testBit 1 = true)

end

/-- The host writes indices and reaches registers. -/
def Obligations.HostAccesses : Prop :=
  Sys2Proof.Claims.HostWritesIndices ∧ Sys2Proof.Claims.HostReachesRegisters

namespace Sys2Proof.Claims

open Sys2Proof.Machine Sys2Proof.Safety

/-! ### Special registers, the debug window, freezes and HALT -/

/-- The state with another record for one context. -/
def withCtx (s : State) (n : Nat) (c : Ctx) : State := { s with ctxs := put {} s.ctxs n c }

/-- What a context register or a capability word reads as (R17, R206, R242, R243, R352, R364, R372, R382). -/
def ctxRegister (s : State) (n id : Nat) : W64 :=
  let c := s.ctx n
  if id = 0x100 then BitVec.ofNat 64 c.lease
  else if id = 0x101 then BitVec.ofNat 64 (c.rowqTotal + 2 ^ 8 * c.rowqPch)
  else if id = 0x102 then BitVec.ofNat 64 ((if c.rowSave = true then 1 else 0) + (if c.reopenFail = true then 2 ^ 8 else 0))
  else if id = 0x103 then
    BitVec.ofNat 64 (1 + (if c.sliceClamp = true then 2 else 0) + 2 ^ 16 * (c.deadline % 2 ^ 16) + 2 ^ 32 * (c.slice % 2 ^ 16))
  else if id = 0x104 then BitVec.ofNat 64 c.trapvec
  else if id = 0x105 then BitVec.ofNat 64 (c.fring + c.fsize)
  else if id = 0x106 then BitVec.ofNat 64 c.xroot
  else if id ≤ 0x18B then tideRead s n (id - 0x180)
  else capability s n (id - 0xF00)

/-- What `CSRW` makes of a context. -/
def csrAfter (id : Nat) (v : W64) (c c' : Ctx) : Prop :=
  (id = 0x100 → c' = { c with lease := max 64 (min 4096 (v.toNat % 2 ^ 13)) })
  ∧ (id = 0x101 → c' = { c with rowqTotal := min 64 (v.toNat % 2 ^ 7), rowqPch := min 8 (v.toNat / 2 ^ 8 % 2 ^ 4) })
  ∧ (id = 0x102 → c' = { c with rowSave := v.getLsbD 0, reopenFail := c.reopenFail && !v.getLsbD 8 })
  ∧ (id = 0x104 → c' = { c with trapvec := v.toNat % 2 ^ 56 / 8 * 8 })
  ∧ (id = 0x105 → c' = { c with fring := v.toNat % 2 ^ 56 / 2 ^ 12 * 2 ^ 12
                                fsize := if 4 ≤ v.toNat % 16 ∧ v.toNat % 16 ≤ 12 then v.toNat % 16 else 4 })
  ∧ (id = 0x106 → c' = { c with xroot := v.toNat % 2 ^ 52 / 2 ^ 13 * 2 ^ 13 })
  ∧ (0x180 ≤ id → id ≤ 0x18B → { c' with tide := c.tide } = c ∧ tideSet (id - 0x180) v c.tide c'.tide)

/-- The numbers of the registers of the issuing warp. -/
def ofWarp (id : Nat) : Prop := id = 0x010 ∨ id = 0x011

/-- A counter after the issue itself has been counted, which is on cores alone (R386, R387). -/
def afterOwnIssue (s : State) (iss : Issue) (n : Nat) : Counter :=
  let t := s.thread iss.thr
  let c := look {} (s.ctx t.ctx).counters n
  if t.engine = .core ∧ (s.ctx t.ctx).live = true then (c.add 2 1 t.launch).add 3 (popcount (active s iss 0)) t.launch else c

open Classical in
/-- What the window shows of a thread in no episode, whose register no Reef operation uses (R367). -/
def shown (s : State) (k lane id : Nat) (v : W64) : Prop :=
  let t := s.thread k
  let r := t.regs
  let x := t.lane lane
  (id < 0x400 → v = (r.getV id lane).setWidth 64)
  ∧ (0x400 ≤ id → id < 0x440 → v = r.getS (id - 0x400))
  ∧ (id = 0x440 → v = r.em) ∧ (0x441 ≤ id → id ≤ 0x447 → v = r.getM (id - 0x440))
  ∧ (0x448 ≤ id → id ≤ 0x44B → v = r.getJ (id - 0x448))
  ∧ (id = 0x450 → v.toNat = x.pc.toNat)
  ∧ (id = 0x451 → v = BitVec.ofNat 64 (match x.state with
      | .running => if gated s k = true then 4 else 0
      | .joining _ | .atBarrier _ => 1
      | .sleeping _ => 2
      | .parked _ => 3
      | .stopped _ => 4
      | .exited => 5))
  ∧ (id = 0x452 → v.toNat = r.fpctl.toNat) ∧ (id = 0x453 → v.toNat = r.fpstat.toNat)
  ∧ (id = 0x454 → t.cntL < 64 → t.cntS < 64 → t.cntC < 64 → t.cntT < 64 →
      v.toNat = t.cntL + 2 ^ 8 * t.cntS + 2 ^ 16 * t.cntC + 2 ^ 24 * t.cntT)
  ∧ (id = 0x455 → t.seq = none → t.repcnt < 2 ^ 64 → v.toNat = t.repcnt)
  ∧ (id = 0x456 → v.toNat = t.rstat.toNat) ∧ (id = 0x457 → t.lgw < 2 ^ 64 → v.toNat = t.lgw)
  ∧ (id = 0x458 → v.toNat = x.gen.toNat) ∧ (id = 0x459 → v = if r.raen = true then 1 else 0)
  ∧ (id = 0x45A → v.toNat = t.reefst.toNat) ∧ (id = 0x45B → v.toNat = x.word.toNat / 2 ^ 16 % 2 ^ 32)

/-- The registers of a thread of `w` lanes after a window write of `v`, the registers of R367 that are read-only apart
(R366, R367). -/
def edited (w id lane : Nat) (v : W64) (r q : Regs) : Prop :=
  let bits : W64 := v &&& BitVec.ofNat 64 (2 ^ w - 1)
  (id < 0x400 → bare q = bare (r.setV id lane (v.setWidth 32)))
  ∧ (0x400 ≤ id → id < 0x440 → bare q = bare (r.setS (id - 0x400) v))
  ∧ (0x441 ≤ id → id ≤ 0x447 → bare q = bare (r.setM (id - 0x440) bits))
  ∧ (0x448 ≤ id → id ≤ 0x44B → bare q = bare (r.setJ (id - 0x448) bits))
  ∧ (id = 0x452 → bare q = bare { r with fpctl := v.setWidth 32 &&& 0x1F1F })
  ∧ (id = 0x453 → bare q = bare { r with fpstat := v.setWidth 32 &&& 0x1F })
  ∧ (id = 0x459 → bare q = bare { r with raen := v.getLsbD 0 })
  ∧ (0x440 = id ∨ id = 0x450 ∨ id = 0x451 ∨ (0x454 ≤ id ∧ id ≤ 0x458) ∨ id = 0x45A ∨ id = 0x45B → bare q = bare r)

/-- The lane that a window write names after it. -/
def editedLane (id : Nat) (v : W64) (x : Lane) : Lane :=
  if id = 0x450 then { x with pc := v.setWidth 56, rewritten := true }
  else if id = 0x458 then { x with gen := if v.toNat % 2 ^ 32 = 0 then 1 else v.setWidth 32 }
  else x

/-- The register belongs to one lane (R367). -/
def ofLane (id : Nat) : Prop := id < 0x400 ∨ id = 0x450 ∨ id = 0x451 ∨ id = 0x458 ∨ id = 0x45B

/-- A target is of the agent that the executing handler's record is of; of a warp, a lane's register where that lane is
stopped for the record, or with its sequence (R86, R366). -/
def stoppedForHandler (s : State) (iss : Issue) (a : Aim) (id : Nat) : Prop :=
  let n := (s.thread iss.thr).record - 1
  let y := (s.thread (a.owner id)).lane a.lane
  (s.thread iss.thr).record ≠ 0 ∧ (s.trap n).live = true ∧ (s.trap n).thr = a.owner id
    ∧ (a.scc = true ∨ ¬ ofLane id ∨ y.state = .stopped (.record n) ∨ ((s.trap n).inrep = true ∧ y.state = .stopped .sequence))

/-- The shape of the steward-level instructions of group 0xD. -/
def windowShape (ssrc sdst : List Nat) : Shape := { engines := ctlEngines, level := .steward, ssrc, sdst }

/-- A cut names an open launch that it changes. -/
def cutNames (x : Cut) (e : Launch) : Prop := e.open_ = true ∧ (x.launch = 0 ∨ e.number = x.launch) ∧ e.frozen = x.thaw

/-- Every open launch of a context stands in its place, under a 32-bit number (R355). -/
def launchesPlaced (c : Ctx) : Prop :=
  sparseWf {} c.launches = true ∧ ∀ i, (look {} c.launches i).open_ = true → (look {} c.launches i).live = true ∧ (look {} c.launches i).number % 16 = i
    ∧ (look {} c.launches i).number < 2 ^ 32

open Classical in
/-- What a cut does to its context's launches, and to the cores with their workgroups (R368, R369). -/
def cutDone (x : Cut) (s v : State) : Prop :=
  (∀ n, (v.ctx x.ctx).launch n = if cutNames x ((s.ctx x.ctx).launch n) then { (s.ctx x.ctx).launch n with frozen := !x.thaw }
      else (s.ctx x.ctx).launch n)
  ∧ (∀ n, n ≠ x.ctx → v.ctx n = s.ctx n) ∧ v.mem = s.mem ∧ v.fl = s.fl ∧ v.wgs = s.wgs
  ∧ (x.thaw = false → v.threads = s.threads
      ∧ (∀ g, (s.wg g).live = true → (s.wg g).ctx = x.ctx → cutNames x ((s.ctx x.ctx).launch (s.wg g).launch) →
          coreFrozen v (s.wg g).core = true)
      ∧ ((∃ n, cutNames x ((s.ctx x.ctx).launch n)) → (v.ctx x.ctx).tide.stopped = true))
  ∧ v.sys = { s.sys with cuts := v.sys.cuts }

open Classical in
/-- At a thaw each core lets go of the launches that it names (R368). -/
def coresThaw (x : Cut) (s v : State) : Prop :=
  let named := fun key => ∃ n, cutNames x ((s.ctx x.ctx).launch n) ∧ key = x.ctx * 2 ^ 32 + n
  ∀ c, v.core c = { s.core c with freezes := (s.core c).freezes.filter fun key => decide (¬ named key) }

open Classical in
/-- A thread of a core that thaws: an episode ends, a lane whose PC was rewritten comes to its block, and nothing else
changes (R260, R367). -/
def thawed (k : Nat) (s m : State) : Prop :=
  let e := run [exitEpisode k] s
  ((s.thread k).episode = none → e = s)
    ∧ lanesTo k e m (e.thread k).regs fun _ x =>
        if x.live = true ∧ x.state = .running ∧ x.rewritten = true then { x with need := .start, rewritten := false } else x

/-- Threads thaw one after another, and each goes on. -/
def thawChain : List Nat → State → State → Prop
  | [], s, u => u = s
  | k :: ks, s, u => ∃ m, thawed k s m ∧ thawChain ks (settle k m) u

/-- A thread of a core that a thaw lets go. -/
def thaws (x : Cut) (s v : State) (k : Nat) : Prop :=
  let t := s.thread k
  (t.engine = .core ∨ t.engine = .access) ∧ coreFrozen v t.core = false
    ∧ ∃ n, cutNames x ((s.ctx x.ctx).launch n) ∧ x.ctx * 2 ^ 32 + n ∈ (s.core t.core).freezes

end Sys2Proof.Claims

section
open Classical
open Sys2Proof Sys2Proof.Machine Sys2Proof.Safety Sys2Proof.Claims

/-- `CSRR` reads FPCTL and FPSTAT of the warp, or a context register or capability word; `CSRW` writes one under its own table
(R17, R206, R242, R243, R364, R372, R382). On a Harbour core, where no context is, `CSRR` of the TIDE set reads all ones
(R334), `CSRW` has no effect there and what `CSRR` reads of another context register is left open (the model's choices). -/
def Sys2Proof.Claims.SpecialRegistersReadAndWrite : Prop :=
  (∀ (f : FY) (s : State) (iss : Issue), runsNow { engines := csrEngines f.id.toNat, sdst := [f.sd.toNat] }
      (fun iss s => !tideCsr f.id.toNat || tideCurrent iss s) iss s →
    let t := s.thread iss.thr
    let id := f.id.toNat
    ∃ u v, leaves (.csrr f) s iss.thr u ∧ movedOn iss.thr iss.lanes 8 s u ∧ onlyRegs iss.thr s u (t.regs.setS f.sd.toNat v)
      ∧ (id = 0x010 → v.toNat = (sourceRegs s iss).fpctl.toNat) ∧ (id = 0x011 → v.toNat = t.regs.fpstat.toNat)
      ∧ (t.engine ≠ .harbour → (0x100 ≤ id ∧ id ≤ 0x106) ∨ (0x180 ≤ id ∧ id ≤ 0x18B) ∨ 0xF00 ≤ id → v = ctxRegister s t.ctx id)
      ∧ (t.engine = .harbour → 0xF00 ≤ id → id ≠ 0xF08 → v = ctxRegister s t.ctx id)
      ∧ (t.engine = .harbour → 0x180 ≤ id → id ≤ 0x18B → v = BitVec.allOnes 64))
  ∧ ∀ (f : FY) (s : State) (iss : Issue),
    runsNow { engines := csrEngines f.id.toNat, level := if warpCsr f.id.toNat then .kernel else .steward, ssrc := [f.sa.toNat] }
      (fun iss s => !tideCsr f.id.toNat || periodsServed iss s) iss s →
    let t := s.thread iss.thr
    let id := f.id.toNat
    let v := scalar s iss f.sa.toNat
    ∃ u, leaves (.csrw f) s iss.thr u ∧ movedOn iss.thr iss.lanes 8 s u
      ∧ (id = 0x010 → onlyRegs iss.thr s u { t.regs with fpctl := v.setWidth 32 &&& 0x1F1F })
      ∧ (id = 0x011 → onlyRegs iss.thr s u { t.regs with fpstat := v.setWidth 32 &&& 0x1F })
      ∧ (¬ ofWarp id → t.engine ≠ .harbour → ∃ c, onlyRegs iss.thr (withCtx s t.ctx c) u t.regs ∧ csrAfter id v (s.ctx t.ctx) c)
      ∧ (¬ ofWarp id → t.engine = .harbour → onlyRegs iss.thr s u t.regs)

/-- `CNTRD` reads a counter, its own issue counted, and with `.clr` zeroes it; `CNTCFG` configures one and zeroes it (R385 to
R387). `TLBI` returns the latest expiry of a lease on the table lines that its walk reads, or device time, + 2 ns and folds it
into LGW; for an address in the Lagoon window it reads no line (R208, R384). -/
def Sys2Proof.Claims.CountersAndTlbi : Prop :=
  (∀ (f : FY) (s : State) (iss : Issue), runsNow { engines := ctlEngines, sdst := [f.sd.toNat] } (fun _ _ => true) iss s →
    (∀ i, (look {} (s.ctx (s.thread iss.thr).ctx).counters i).count < 2 ^ 48) →
    let t := s.thread iss.thr
    let n := f.imm.toNat % 8
    ∃ u v, leaves (.cntrd f) s iss.thr u ∧ movedOn iss.thr iss.lanes 8 s u ∧ onlyRegs iss.thr s u (t.regs.setS f.sd.toNat v)
      ∧ (t.engine ≠ .harbour →
          let c := afterOwnIssue s iss n
          v.toNat = c.count + (if c.ovf = true then 2 ^ 63 else 0)
            ∧ ∀ i, i < 8 → look {} (u.ctx t.ctx).counters i =
                if i = n ∧ f.imm.getLsbD 8 = true then { c with count := 0, ovf := false } else afterOwnIssue s iss i))
  ∧ (∀ (f : FY) (s : State) (iss : Issue), runsNow (windowShape [f.sa.toNat] []) (fun _ _ => true) iss s →
    let t := s.thread iss.thr
    let v := scalar s iss f.sa.toNat
    ∃ u, leaves (.cntcfg f) s iss.thr u ∧ movedOn iss.thr iss.lanes 8 s u ∧ onlyRegs iss.thr s u t.regs
      ∧ (t.engine = .scc → ∀ i, look {} (u.ctx t.ctx).counters i =
          if i = f.imm.toNat % 8 then
            { count := 0, ovf := false
              conf := BitVec.ofNat 64 ((if v.toNat % 256 ≤ 0x11 then v.toNat % 256 else 0) + 2 ^ 8 * (v.toNat / 2 ^ 8 % 4)
                + 2 ^ 32 * (v.toNat / 2 ^ 32 % 2 ^ 16)) }
          else look {} (s.ctx t.ctx).counters i))
  ∧ ∀ (f : FY) (s : State) (iss : Issue), runsNow (windowShape [f.sa.toNat] [f.sd.toNat]) (fun _ _ => true) iss s →
    (s.thread iss.thr).live = true → iss.thr < 2 ^ 60 →
    let t := s.thread iss.thr
    let va := (scalar s iss f.sa.toNat).toNat % 2 ^ 56
    ∃ u m, leaves (.tlbi f) s iss.thr u ∧ movedOn iss.thr iss.lanes 8 s u ∧ others iss.thr s u
      ∧ bare (u.thread iss.thr).regs = bare (t.regs.setS f.sd.toNat (BitVec.ofNat 64 (m + 2)))
      ∧ kept (u.thread iss.thr) = kept { t with lgw := max t.lgw (m + 2) }
      ∧ (let lines := if inLagoon va = true ∨ t.engine = .harbour then [] else tableLines s t.ctx va levels (s.ctx t.ctx).xroot
         dtOf s t ≤ m ∧ (∀ l ∈ lines, look 0 s.ca.leases l ≤ m) ∧ (m = dtOf s t ∨ ∃ l ∈ lines, m = look 0 s.ca.leases l))

/-- `DBGRD` reads what the window shows of a permitted target and else gives all ones; `DBGWR` edits a permitted target and
else has no effect; neither raises anything. A permitted target is of the executing context, and stopped for the executing
handler's record or on a frozen core (R366, R367, R383). -/
def Sys2Proof.Claims.DebugWindow : Prop :=
  (∀ (s : State) (iss : Issue) (a : Aim) (id : Nat),
    let t := s.thread iss.thr
    let x := s.thread (a.owner id)
    mayAim s iss a id = true ↔ x.live = true ∧ x.ctx = t.ctx ∧ t.ctx ≠ 64
      ∧ (stoppedForHandler s iss a id ∨ (a.scc = false ∧ coreFrozen s x.core = true))
      ∧ (ofLane id → a.lane < x.width) ∧ (id < 0x400 → id < x.budget ∧ portOf (hasPorts s x) id = none)
      ∧ (a.scc = true → x.level = .steward ∧ ((0x400 ≤ id ∧ id ≤ 0x43F) ∨ id = 0x450 ∨ (0x452 ≤ id ∧ id ≤ 0x455) ∨ id = 0x457)))
  ∧ (∀ (f : FY) (s : State) (iss : Issue), runsNow (windowShape [f.sa.toNat] [f.sd.toNat]) (fun _ _ => true) iss s →
    let t := s.thread iss.thr
    ∃ u v, leaves (.dbgrd f) s iss.thr u ∧ movedOn iss.thr iss.lanes 8 s u ∧ onlyRegs iss.thr s u (t.regs.setS f.sd.toNat v)
      ∧ match aimOf t (scalar s iss f.sa.toNat) with
        | none => v = BitVec.allOnes 64
        | some a =>
          let x := s.thread (a.owner f.id.toNat)
          if mayAim s iss a f.id.toNat = true then
            x.episode = none → x.inUse f.id.toNat = false →
              if 0x460 ≤ f.id.toNat then
                v = if f.id.toNat = 0x4A0 then (x.lane 0).pc.setWidth 64 else x.regs.getS (f.id.toNat - 0x460)
              else shown s (a.owner f.id.toNat) (if a.scc = true then 0 else a.lane) f.id.toNat v
          else v = BitVec.allOnes 64)
  ∧ ∀ (f : FY) (s : State) (iss : Issue), runsNow (windowShape [f.sa.toNat, f.sd.toNat] []) (fun _ _ => true) iss s →
    let t := s.thread iss.thr
    let id := f.id.toNat
    let v := scalar s iss f.sd.toNat
    ∃ u, leaves (.dbgwr f) s iss.thr u
      ∧ ((∀ a, aimOf t (scalar s iss f.sa.toNat) = some a → mayAim s iss a id = false) →
          movedOn iss.thr iss.lanes 8 s u ∧ onlyRegs iss.thr s u t.regs)
      ∧ ∀ a, aimOf t (scalar s iss f.sa.toNat) = some a → mayAim s iss a id = true → a.owner id ≠ iss.thr →
          (s.thread (a.owner id)).episode = none → (s.thread (a.owner id)).reefUse = [] →
          let k := a.owner id
          let lane := if a.scc = true then 0 else a.lane
          movedOn iss.thr iss.lanes 8 s u ∧ (∀ j, j ≠ k → j ≠ iss.thr → u.thread j = s.thread j) ∧ u.mem = s.mem ∧ u.fl = s.fl
            ∧ bare (u.thread iss.thr).regs = bare t.regs
            ∧ (id < 0x460 → edited (s.thread k).width id lane v (s.thread k).regs (u.thread k).regs
                ∧ ((u.thread k).lane lane) = editedLane id v ((s.thread k).lane lane)
                ∧ ∀ l, l ≠ lane → (u.thread k).lane l = (s.thread k).lane l)
            ∧ (id = 0x456 → (u.thread k).rstat = v.setWidth 32 &&& 0xFF07)
            ∧ (0x460 ≤ id → id ≠ 0x4A0 → bare (u.thread k).regs = bare ((s.thread k).regs.setS (id - 0x460) v))
            ∧ (id = 0x4A0 → ((u.thread k).lane 0) = { (s.thread k).lane 0 with pc := v.setWidth 56, rewritten := true })

/-- A local `FREEZE` holds its thread until the cut, 12 fc later; `.job` writes its cut, 10 µs later, at once, and posts
the cut to every context of the job. At the cut the named launches are frozen and the cores with their workgroups issue
nothing, or at a thaw the same cores go on, each one's episodes over and its rewritten PCs at their blocks; the held
thread goes on with the cut's time (R368, R369, R388). `HALT` holds a Harbour core until an interrupt in its mask is
pending (R388, R426). -/
def Sys2Proof.Claims.FreezesAndHalts : Prop :=
  (∀ (f : FY) (s : State) (iss : Issue), runsNow (windowShape [f.sa.toNat] [f.sd.toNat]) (fun _ _ => true) iss s →
    plainGroup s iss →
    let t := s.thread iss.thr
    let n := (scalar s iss f.sa.toNat).toNat % 2 ^ 32
    let thaw := f.imm.getLsbD 0
    let c := s.ctx t.ctx
    let may := t.engine ≠ .harbour ∧ ∃ e ∈ c.openLaunches, cutNames { launch := n, thaw } e
    ∃ u, leaves (.freeze f) s iss.thr u ∧ u.mem = s.mem ∧ (∀ j, j ≠ iss.thr → u.thread j = s.thread j)
      ∧ if f.imm.getLsbD 1 = true then
          let at_ := dtOf s t + 10000
          movedOn iss.thr iss.lanes 8 s u ∧ bare (u.thread iss.thr).regs = bare (t.regs.setS f.sd.toNat (BitVec.ofNat 64 at_))
            ∧ ∃ ms : List Nat, u.sys.cuts = s.sys.cuts ++ ms.map (fun m => { at_, ctx := m, launch := n, thaw })
              ∧ (¬ may → ms = []) ∧ (may → c.tide.job = 0 → ms = [t.ctx])
              ∧ (may → c.tide.job ≠ 0 → s.wf = true → ∀ m, (s.ctx m).live = true → (m ∈ ms ↔ (s.ctx m).tide.job = c.tide.job))
        else
          bare (u.thread iss.thr).regs = bare t.regs
            ∧ (∀ l, l < t.width → (u.thread iss.thr).lane l =
                if inGroup iss l then { t.lane l with hold := .cut f.sd.toNat s.fl.next } else t.lane l)
            ∧ ∃ x : Cut, u.sys.cuts = s.sys.cuts ++ [x] ∧ x.launch = n ∧ x.thaw = thaw ∧ x.id = s.fl.next
              ∧ x.ctx = (if may then t.ctx else 64)
              ∧ (t.engine = .scc → (s.cluster t.cluster).relock = false → (s.cluster t.cluster).stretch = false →
                  let mhz := 650 + 50 * (s.cluster t.cluster).step
                  12000 ≤ mhz * (x.at_ - dtOf s t) ∧ mhz * (x.at_ - dtOf s t) < 12000 + mhz))
  ∧ (∀ (i : Nat) (x : Cut) (s : State), s.sys.cuts[i]? = some x → x.at_ ≤ s.sys.dt → s.wf = true →
    launchesPlaced (s.ctx x.ctx) →
    ∃ v w, cutDone x s v ∧ v.sys.cuts = s.sys.cuts.eraseIdx i ∧ v.threads = s.threads ∧ (x.thaw = false → w = v)
      ∧ (x.thaw = true → coresThaw x s v
          ∧ ∃ ks : List Nat, (∀ k, (s.thread k).live = true → (k ∈ ks ↔ thaws x s v k)) ∧ ks.Nodup ∧ thawChain ks v w)
      ∧ ((x.id = 0 ∨ ∀ j sd, ((w.thread j).lane 0).hold ≠ .cut sd x.id) → exec (.freezeCut i) s = .next w)
      ∧ ∀ thr sd, x.id ≠ 0 → ((w.thread thr).lane 0).hold = .cut sd x.id → (∀ j sd', ((w.thread j).lane 0).hold = .cut sd' x.id → j = thr) →
          (w.thread thr).seq = none → 0 < (w.thread thr).width →
          ∃ u, exec (.freezeCut i) s = .next (settle thr u)
            ∧ u = { w with threads := put {} w.threads thr (u.thread thr) }
            ∧ bare (u.thread thr).regs = bare ((w.thread thr).regs.setS sd (BitVec.ofNat 64 x.at_))
            ∧ (u.thread thr).lane 0 = Lane.advance 8 ((w.thread thr).lane 0))
  ∧ (∀ (core : Nat) (s : State), coreFrozen s core = true →
    ∃ u, happen (.coreFc core) s = .next u ∧ u.fcq = s.fcq ∧ (u.core core).tick = (s.core core).tick ∧ ∀ k, u.thread k = s.thread k)
  ∧ ∀ (f : FY) (s : State) (iss : Issue), f.imm.toNat % 256 ≠ 0 →
    runsNow { engines := ctlEngines, level := .harbour } (fun _ _ => true) iss s → plainGroup s iss →
    let t := s.thread iss.thr
    ∃ u, leaves (.halt f) s iss.thr u ∧ onlyRegs iss.thr s u t.regs
      ∧ if ∃ b, b < 8 ∧ f.imm.getLsbD b = true ∧ (look 0 (s.die t.die).hpend (t.core % 8)).testBit b = true then
          movedOn iss.thr iss.lanes 8 s u
        else ∀ l, l < t.width → (u.thread iss.thr).lane l =
          if inGroup iss l then { t.lane l with hold := .halt (f.imm.toNat % 256) } else t.lane l

end

/-- Special registers and counters read and take what is written to them. -/
def Obligations.RegistersAndCounters : Prop :=
  Sys2Proof.Claims.SpecialRegistersReadAndWrite ∧ Sys2Proof.Claims.CountersAndTlbi

/-- The debug window reads and writes frozen state, and what freezes and halts stops. -/
def Obligations.DebugReachesState : Prop :=
  Sys2Proof.Claims.DebugWindow ∧ Sys2Proof.Claims.FreezesAndHalts

namespace Sys2Proof.Claims

open Sys2Proof.Machine Sys2Proof.Safety

/-! ### Scheduling, pre-emption and the image -/

/-- An entry that the reply ring takes at its producer index with vector 64, or that waits for a place (R403, R406). -/
def entryPosted (y y' : Sys) (e : List W64) : Prop :=
  (y.waiting = [] → (y.svrpi + 2 ^ 32 - y.svrci) % 2 ^ 32 < 64 →
      y'.svrpi = (y.svrpi + 1) % 2 ^ 32 ∧ y'.waiting = [] ∧ Sent.vector 0 64 ∈ y'.out.drop y.out.length
        ∧ (∀ i, i < 8 → look 0 y'.replies (8 * (y.svrpi % 64) + i) = e.getD i 0)
        ∧ ∀ j, j / 8 ≠ y.svrpi % 64 → look 0 y'.replies j = look 0 y.replies j)
  ∧ (y.waiting ≠ [] ∨ (y.svrpi + 2 ^ 32 - y.svrci) % 2 ^ 32 ≥ 64 → y'.waiting = y.waiting ++ [e] ∧ y'.svrpi = y.svrpi)

/-- The reply of a command: its OP, TAG and STATUS, and its results (R403). -/
def repliesWith (s u : State) (op tag : Nat) (status : Int) (results : List W64) : Prop :=
  ∃ w : W64, w.toNat % 2 ^ 8 = op ∧ w.getLsbD 8 = false ∧ w.toNat / 2 ^ 16 % 2 ^ 16 = tag % 2 ^ 16
    ∧ w.extractLsb' 32 32 = BitVec.ofInt 32 status ∧ entryPosted s.sys u.sys (w :: results)

/-- A request of the device on the reply ring awaits an answer (R405). -/
def requested (s u : State) (code what : Nat) (operands : List W64) : Prop :=
  ∃ w : W64, w.toNat % 2 ^ 8 = code ∧ w.getLsbD 8 = true ∧ w.toNat / 2 ^ 16 % 2 ^ 16 = s.sys.nextTag % 2 ^ 16
    ∧ entryPosted s.sys u.sys (w :: operands) ∧ u.sys.asks = s.sys.asks ++ [{ tag := s.sys.nextTag, code, what }]

/-- A notice of a kind in outbound mailbox 3, or held until a place frees (R337). -/
def noticed (s u : State) (n kind : Nat) : Prop :=
  let c := s.ctx n
  let msg : List W64 := [BitVec.ofNat 64 (kind * 2 ^ 56 + n % 64), 0, 0, 0, 0, BitVec.ofNat 64 s.sys.dt, 0, 0]
  if c.notices = [] ∧ ((c.outRing 3).pi + 2 ^ 32 - (c.outRing 3).ci) % 2 ^ 32 < 64 then
    ringTakes (c.outRing 3) ((u.ctx n).outRing 3) msg ∧ (u.ctx n).istat.testBit 0 = true
  else (u.ctx n).notices = c.notices ++ [msg]

/-- The forced context reset (R348): the context's threads are gone, its copies abandoned, its rows released, its workgroups
removed and its incomplete launches ended with KILLED set and DONE clear; it stays created with no steward. No byte of memory
changes. -/
def contextReset (s u : State) (n : Nat) : Prop :=
  u.mem = s.mem ∧ (∀ k, (s.thread k).live = true → (s.thread k).engine ≠ .harbour → (s.thread k).ctx = n → u.thread k = {})
    ∧ (∀ k, (s.thread k).ctx ≠ n → (∀ id f m, (id, f) ∈ s.fl.faults → f.ctx = n → f.who ≠ .lanes k m) → u.thread k = s.thread k)
    ∧ (∀ i, (s.copy i).live = true → (s.copy i).ctx = n → (u.copy i).live = true → (u.copy i).abandoned = true)
    ∧ (∀ g, (s.wg g).ctx = n → u.wg g = {}) ∧ (∀ m, m ≠ n → u.ctx m = s.ctx m)
    ∧ (u.ctx n).live = (s.ctx n).live ∧ (u.ctx n).steward = none ∧ (u.ctx n).save = .none
    ∧ (∀ h, (look {} (u.ctx n).rows h).state ≠ .held)
    ∧ (∀ h, (look {} (s.ctx n).rows h).state = .held →
        ∃ e ∈ u.sys.closing, e.1 = (look {} (s.ctx n).rows h).pa)
    ∧ ∀ i, let e := look {} (s.ctx n).launches i
        look {} (u.ctx n).launches i =
          if e.open_ = true then { e with open_ := false, killed := true, done := false, next := e.total } else e

/-- A context's tables are in their canonical form. -/
def tidy (c : Ctx) : Prop := sparseWf {} c.rows = true ∧ sparseWf {} c.launches = true ∧ c.events.length ≤ 32

/-- A context's steward is ended, or runs at an instruction boundary or a wait that a save abandons. -/
def atBoundary (s : State) (n : Nat) : Prop :=
  ∀ k, (s.ctx n).steward = some k →
    ((s.thread k).lane 0).state = .running ∧ ((s.thread k).lane 0).need = .none ∧ (s.thread k).seq = none
      ∧ (((s.thread k).lane 0).hold = .none ∨ (∃ a b, ((s.thread k).lane 0).hold = .mailbox a b)
          ∨ (∃ a b, ((s.thread k).lane 0).hold = .event a b) ∨ (∃ a b, ((s.thread k).lane 0).hold = .launch a b)
          ∨ ∃ a b c, ((s.thread k).lane 0).hold = .sync a b c)

/-- The order of R347 among contexts that may be pre-empted: one with nothing placeable that has been active longer than its
slice first; then the highest class, the longest active, the lowest number. -/
def leavesBefore (s : State) (n m : Nat) : Prop :=
  let idle := fun i => (s.ctx i).placing = none ∧ (s.ctx i).activeFrom + 1000 * (s.ctx i).slice < s.sys.dt
  let cls := fun i => (s.ctx i).tide.cls
  (idle n ∧ ¬ idle m)
    ∨ ((idle n ↔ idle m) ∧ (cls m < cls n ∨ (cls n = cls m ∧ ((s.ctx n).activeFrom < (s.ctx m).activeFrom
        ∨ ((s.ctx n).activeFrom = (s.ctx m).activeFrom ∧ n ≤ m)))))

/-- What a restore brings back of an image whose rows are not to be reopened (R246, R326, R351): registers, the tide position,
rows, launches at their stored indices and the steward at its saved place. -/
def restored (s v : State) (base n slot : Nat) : Prop :=
  let w := imageWord s base
  let c := v.ctx n
  c.lease = max 64 (min 4096 ((w 0x40).toNat % 2 ^ 13)) ∧ c.trapvec = (w 0x58).toNat % 2 ^ 56 / 8 * 8
    ∧ c.deadline = (w 0x60).toNat % 2 ^ 16
    ∧ c.tide.pos = min ((w 0xA0).toNat % 64) c.tide.dmax ∧ c.tide.first = true ∧ c.tide.allocated = false
    ∧ (c.tide.flags.testBit 7 = true ↔ ((w 0xC8).toNat.testBit 7 = true ∨ c.tide.dmax < (w 0xA0).toNat % 64))
    ∧ c.tide.demand = demandAt c.tide.kc c.tide.pos
    ∧ (∀ i, i < 16 → (w (0x600 + 128 * i)).toNat % 2 ^ 32 % 16 = i → (w (0x600 + 128 * i)).toNat % 2 ^ 32 ≠ 0 →
        (∀ j, j < 16 → j ≠ i → (w (0x600 + 128 * j)).toNat % 2 ^ 32 % 16 ≠ i ∨ (w (0x600 + 128 * j)).toNat % 2 ^ 32 = 0) →
        let e := look {} c.launches i
        e.number = (w (0x600 + 128 * i)).toNat % 2 ^ 32 ∧ (e.open_ = true ↔ (w (0x608 + 128 * i)).toNat % 4 = 1)
          ∧ e.lgw = (w (0x608 + 128 * i)).toNat / 4 ∧ e.next = (w (0x658 + 128 * i)).toNat ∧ e.completed = (w (0x660 + 128 * i)).toNat)
    ∧ (w 0x3F0 ≠ 0 → c.steward = some (sccKey c.home slot)
        ∧ (let t := v.thread (sccKey c.home slot)
           t.live = true ∧ t.level = .steward ∧ t.ctx = n ∧ (t.lane 0).pc = (w 0x380).setWidth 56
            ∧ (t.lane 0).header = (w 0x388).setWidth 56 ∧ ∀ i, 1 ≤ i → i < 64 → t.regs.getS i = w (0x180 + 8 * i)))
    ∧ (∃ e, c.events.getLast? = some e ∧ e.kind = 5 ∨ 32 ≤ c.events.length)

/-- The slice of a context in µs and whether it is clamped: ADL.SLICE of its atoll, or its last save and restore, 40 µs before
the first, and a period where these take longer (R347, R353, R427). -/
def sliceNow (s : State) (n : Nat) : Nat × Bool :=
  let c := s.ctx n
  let l := (s.die 0).adlSlice c.atoll
  let both := if c.ts = 0 then 40 else (c.ts + c.tr + 999) / 1000
  if both ≤ l then (l, false) else (both + (s.atoll c.atoll).period, true)

/-- A context whose slice starts. -/
def sliced (s : State) (n : Nat) : Ctx := { s.ctx n with slice := (sliceNow s n).1, sliceClamp := (sliceNow s n).2 }

/-- No row of an image was held at its save. -/
def noReopening (s : State) (base : Nat) : Prop := ∀ h, h < 64 → (imageWord s base (0xE00 + 32 * h)).toNat % 256 ≠ 1

end Sys2Proof.Claims

section
open Classical
open Sys2Proof Sys2Proof.Machine Sys2Proof.Safety Sys2Proof.Claims

/-- With at most 8 contexts on an atoll all are active. With more, at a slice end, one active context is chosen for
pre-emption for the one that waits, in the order of R347, and the others' slices start; where a place is free, the first
that waits takes it, one that was saved from its image, once that is sealed (R347, R350, R351, R353). A starved group of
the selected warp issues beside the most populous group, or in its place (R78). -/
def Sys2Proof.Claims.SlicesRotate : Prop :=
  (∀ (atoll : Nat) (s : State), s.wf = true → (runnables s atoll).length ≤ 8 →
    ((ctxsOf s atoll).filter fun n => (s.ctx n).save != .saved).length ≤ 8 →
    (∀ n, ofAtoll s atoll n → (s.ctx n).save ≠ .saved ∧ (s.ctx n).save ≠ .restoring) →
    ∃ u, exec (.sliceEnd atoll) s = .next u ∧ u = { s with ctxs := u.ctxs, atolls := u.atolls }
      ∧ (∀ n, u.ctx n = if ofAtoll s atoll n then
            { s.ctx n with active := true, activeFrom := if (s.ctx n).active = true then (s.ctx n).activeFrom else s.sys.dt
                           slice := 0, sliceClamp := false }
          else s.ctx n)
      ∧ (u.atoll atoll) = { s.atoll atoll with rotation := none })
  ∧ (∀ (atoll start w : Nat) (s : State), s.wf = true → run [seatContexts atoll] s = s → (s.atoll atoll).rotation = some start →
    sliceOver s atoll start = true → waiting s atoll = [w] → 8 ≤ activeCount s atoll →
    (∀ n, ofAtoll s atoll n → (s.ctx n).tide.cls ≤ 3) →
    ∃ u, exec (.sliceEnd atoll) s = .next u ∧ (u.atoll atoll).rotation = some s.sys.dt
      ∧ ((∃ n, ofAtoll s atoll n ∧ mayLeave s n = true) →
          ∃ n, ofAtoll s atoll n ∧ mayLeave s n = true ∧ (∀ m, ofAtoll s atoll m → mayLeave s m = true → leavesBefore s n m)
            ∧ u.ctx n = { s.ctx n with save := .chosen, saveTo := if hostAssisted s atoll 4 = true then 0 else (s.ctx n).image, saveCmd := none }
            ∧ ∀ m, m ≠ n → u.ctx m = if ofAtoll s atoll m ∧ (s.ctx m).active = true then sliced s m else s.ctx m))
  ∧ (∀ (atoll n : Nat) (s : State), s.wf = true → run [seatContexts atoll] s = s → activeCount s atoll < 8 → n ∈ waiting s atoll →
    (∀ m ∈ waiting s atoll, (s.ctx n).tide.cls < (s.ctx m).tide.cls ∨ ((s.ctx n).tide.cls = (s.ctx m).tide.cls
      ∧ ((s.ctx n).waitFrom < (s.ctx m).waitFrom ∨ ((s.ctx n).waitFrom = (s.ctx m).waitFrom ∧ n ≤ m)))) →
    ((s.ctx n).save ≠ .saved →
      let c := if (s.atoll atoll).rotation.isSome = true then sliced s n else s.ctx n
      ∃ u, exec (.sliceEnd atoll) s = .next u ∧ u = { s with ctxs := put {} s.ctxs n { c with active := true, activeFrom := s.sys.dt } })
    ∧ ((s.ctx n).save = .saved → (imageWord s (s.ctx n).saveTo 16).toNat % 2 = 0 → exec (.sliceEnd atoll) s = .next s)
    ∧ ∀ slot, (s.ctx n).save = .saved → (s.ctx n).steward = none → (imageWord s (s.ctx n).saveTo 16).toNat % 2 = 1 →
        hostAssisted s atoll 5 = false → handlerWaits s (s.ctx n).home = false → freeSccSlot s (s.ctx n).home 7 = some slot →
        noReopening s (s.ctx n).saveTo →
        ∃ v, restored s v (s.ctx n).saveTo n slot ∧ (v.ctx n).active = true ∧ (v.ctx n).save = .none ∧ v.mem = s.mem
          ∧ (∀ m, m ≠ n → v.ctx m = s.ctx m)
          ∧ exec (.sliceEnd atoll) s = .next (match (v.ctx n).steward with | some k => settle k v | none => v))
  ∧ ∀ (core k : Nat) (avail : List (Nat × Nat)) (gs : List Group) (f : Group) (s : State), coreBlocked s core = false →
    oldest s ((readyWarps s core avail).map Prod.fst) = some k →
    (readyWarps s core avail).find? (fun w => w.1 == k) = some (k, gs) → forwardProgress s k = true →
    forced (readyBeside (sortGroups Group.before gs)) = some f →
    ∃ u, exec (.starvationForce core avail) s = .next u ∧ 256 ≤ f.starve ∧ f ∈ gs ∧ u.fcq.length ≤ 2
      ∧ (∃ x ∈ u.fcq, x.thr = k ∧ x.lanes = f.lanes ∧ x.pc = f.pc) ∧ ∀ x ∈ u.fcq, x.thr = k

/-- A pre-emption is asked for, and its deadline starts. Once no workgroup and no handler of the context is left, its steward
is stopped at a boundary and its rows are released; once its accesses and copies have completed, every word of the image is
written and VALID is set last (R246, R348, R350). A deadline or watchdog that expires before brings the forced context reset
with its notice, and the image is not sealed (R348, R349). -/
def Sys2Proof.Claims.PreemptionSavesTheContext : Prop :=
  (∀ (n : Nat) (s : State), (s.ctx n).live = true → (s.ctx n).save = .chosen →
    (∀ k, (s.thread k).ctx = n → (s.thread k).episode = none) → s.wf = true →
    ∃ u, exec (.preemptionRequest n) s = .next u ∧ u = { s with ctxs := u.ctxs, sys := u.sys }
      ∧ u.ctx n = { s.ctx n with save := .asked s.sys.dt, saveDl := (s.ctx n).deadline } ∧ (∀ m, m ≠ n → u.ctx m = s.ctx m)
      ∧ if hostAssisted s (s.ctx n).atoll 4 = true ∧ (s.ctx n).saveTo = 0 then requested s u 0x83 n [BitVec.ofNat 64 n]
        else u.sys = s.sys)
  ∧ (∀ (n since : Nat) (s : State), s.wf = true → tidy (s.ctx n) → (s.ctx n).save = .asked since →
    (∀ g, (s.wg g).live = true → (s.wg g).ctx ≠ n) →
    (∀ g w, (g, w) ∈ s.wgs → w.live = true) →
    (∀ k t, (k, t) ∈ s.threads → t.ctx = n → t.level ≠ .handler) → atBoundary s n → (s.ctx n).saveTo ≠ 0 →
    s.sys.dt < since + 1000 * (s.ctx n).saveDl →
    ∃ u, exec (.contextSave n) s = .next u ∧ u.mem = s.mem ∧ (u.ctx n).save = .writing s.sys.dt ∧ (∀ m, m ≠ n → u.ctx m = s.ctx m)
      ∧ (∀ k, (s.ctx n).steward = some k → (u.thread k).lane 0 = { (s.thread k).lane 0 with state := .stopped .save, hold := .none }
          ∧ ∀ j, j ≠ k → u.thread j = s.thread j)
      ∧ ∀ h, (look {} (s.ctx n).rows h).state = .held →
          look {} (u.ctx n).rows h = { look {} (s.ctx n).rows h with
              state := .stale, reopen := (s.ctx n).rowSave && decide (baseTime s (look {} (s.ctx n).rows h).pa < (look {} (s.ctx n).rows h).expiry) }
            ∧ ∃ e ∈ u.sys.closing, e.1 = (look {} (s.ctx n).rows h).pa)
  ∧ (∀ (n since : Nat) (s : State), s.wf = true → tidy (s.ctx n) → (s.ctx n).save = .writing since → hostAssisted s (s.ctx n).atoll 5 = false →
    (∀ k, (s.ctx n).steward = some k → opsOf s k = [] ∧ (s.thread k).cntC = 0) →
    (∀ i c, (i, c) ∈ s.fl.copies → c.live = true → c.ctx ≠ n) → s.sys.closing = [] → s.sys.migrations = [] →
    s.sys.dt < since + 1000 * (s.die (dieOfCluster (s.ctx n).home)).saveto →
    let base := (s.ctx n).saveTo
    ∃ u, exec (.contextSave n) s = .next u ∧ (imageWords s n).length = 4864
      ∧ (∀ o w, (o, w) ∈ imageWords s n → o ≠ 16 → imageWord u base o = w) ∧ imageWord u base 16 = 1
      ∧ (∀ k, k < base ∨ base + 0x9800 ≤ k → u.byte k = s.byte k)
      ∧ (∀ k, (s.ctx n).steward = some k → u.thread k = {}) ∧ (∀ m, m ≠ n → u.ctx m = s.ctx m)
      ∧ (u.ctx n).save = .saved ∧ (u.ctx n).active = false ∧ (u.ctx n).steward = none
      ∧ (u.ctx n).launches = (s.ctx n).launches ∧ (u.ctx n).events = (s.ctx n).events
      ∧ ((u.ctx n).gone = true ↔ (s.ctx n).saveCmd ≠ none)
      ∧ ∀ tag, (s.ctx n).saveCmd = some tag → repliesWith s u 0x12 tag 0 [BitVec.ofNat 64 s.sys.dt])
  ∧ (∀ (n since : Nat) (s : State), s.wf = true → tidy (s.ctx n) → (s.ctx n).save = .asked since → since + 1000 * (s.ctx n).saveDl ≤ s.sys.dt →
    (s.ctx n).live = true → n < 64 →
    ∃ u, exec (.preemptionDeadline n) s = .next u ∧ contextReset s u n ∧ noticed s u n 2
      ∧ ∀ tag, (s.ctx n).saveCmd = some tag → repliesWith s u 0x12 tag (-6) [])
  ∧ ∀ (n since : Nat) (s : State), s.wf = true → tidy (s.ctx n) → (s.ctx n).save = .writing since →
    since + 1000 * (s.die (dieOfCluster (s.ctx n).home)).saveto ≤ s.sys.dt → (s.ctx n).live = true → n < 64 →
    ∃ u, exec (.saveWatchdog n) s = .next u ∧ contextReset s u n ∧ noticed s u n 1
      ∧ ∀ tag, (s.ctx n).saveCmd = some tag → repliesWith s u 0x12 tag (-7) []

end

/-- Slices rotate contexts, and a preemption saves and restores one. -/
def Obligations.SlicesAndPreemption : Prop :=
  Sys2Proof.Claims.SlicesRotate ∧ Sys2Proof.Claims.PreemptionSavesTheContext

namespace Sys2Proof.Claims

open Sys2Proof.Machine Sys2Proof.Safety

/-! ### Power -/

/-- Only one cluster's record changes. -/
def onlyCluster (s u : State) (cl : Nat) (c : Cluster) : Prop := u = { s with clusters := put {} s.clusters cl c }

/-- A context has a workgroup on a cluster. -/
def residesOn (s : State) (n cl : Nat) : Prop := ∃ g, (s.wg g).live = true ∧ (s.wg g).ctx = n ∧ clusterOf (s.wg g).core = cl

/-- An event record of a kind, source and second word is posted to a context's queue, or dropped where the queue is full; it
takes its source's next number (R359, R408). -/
def posts (c c' : Ctx) (kind source : Nat) (word1 : W64) : Prop :=
  look 0 c'.evSeq source = (look 0 c.evSeq source + 1) % 2 ^ 32
    ∧ if c.events.length < 32 then
        ∃ e, c'.events = c.events ++ [e] ∧ e.kind = kind ∧ e.source = source ∧ e.seq = look 0 c.evSeq source ∧ e.word1 = word1
          ∧ (e.lost = true ↔ source ∈ c.evLost)
      else c'.events = c.events ∧ source ∈ c'.evLost

open Classical in
/-- A cluster goes to throttle level h: the contexts that reside on it hear of it, and their period is a throttled one where
h is not zero (R412). -/
def throttledTo (s u : State) (cl h : Nat) : Prop :=
  u.cluster cl = { s.cluster cl with throt := h, throtAt := s.sys.dt } ∧ u = { s with clusters := u.clusters, ctxs := u.ctxs }
    ∧ (∀ i, i ≠ cl → u.cluster i = s.cluster i)
    ∧ ∀ n, n < 64 →
        if residesOn s n cl then posts (s.ctx n) (u.ctx n) 0 cl (BitVec.ofNat 64 h)
          ∧ ((u.ctx n).tide.throttled = true ↔ ((s.ctx n).tide.throttled = true ∨ 0 < h))
        else u.ctx n = s.ctx n

/-- No workgroup is on a cluster and no thread in its SCC. -/
def isIdle (s : State) (cl : Nat) : Prop :=
  (∀ g w, (g, w) ∈ s.wgs → w.live = true → clusterOf w.core ≠ cl) ∧ ∀ i, i < 8 → (s.thread (sccKey cl i)).live = false

end Sys2Proof.Claims

section
open Classical
open Sys2Proof Sys2Proof.Machine Sys2Proof.Safety Sys2Proof.Claims

/-- A supply sag stretches a cluster's clocks and is counted (R410, R413). A cluster's throttle level rises by 1 every
10 µs at THOT or above and falls by 1 every 100 µs at TLOW or below; a die at TCRIT goes to level 15 on every cluster
and sends a telemetry event, after its handover where it is in one (R411, R412, R431). A cluster idle for 10 µs is gated
and loses its L1s; a gated cluster that something waits for is ungated at its time (R416). -/
def Sys2Proof.Claims.ClustersAreProtected : Prop :=
  (∀ (cl : Nat) (s : State), cl < 48 →
    ∃ u, exec (.supplySagTrip cl) s = .next u
      ∧ onlyCluster s u cl { s.cluster cl with stretch := true, stretchCnt := ((s.cluster cl).stretchCnt + 1) % 2 ^ 48 })
  ∧ (∀ (cl : Nat) (s : State), (s.cluster cl).stretch = true →
    ∃ u, exec (.supplySagClear cl) s = .next u ∧ onlyCluster s u cl { s.cluster cl with stretch := false })
  ∧ (∀ (cl t₀ : Nat) (ts : List Nat) (s : State), cl < 48 → s.wf = true → (∀ n, (s.ctx n).tide.cls ≤ 3) →
    let d := s.die (dieOfCluster cl)
    let c := s.cluster cl
    ((∃ t ∈ t₀ :: ts, d.thot ≤ t) → c.throt < 15 → c.throtAt + 10000 ≤ s.sys.dt →
      ∃ u, exec (.throttleStep cl t₀ ts) s = .next u ∧ throttledTo s u cl (c.throt + 1))
    ∧ ((∀ t ∈ t₀ :: ts, t < d.thot ∧ t ≤ d.tlow) → 0 < c.throt → c.throtAt + 100000 ≤ s.sys.dt →
      ∃ u, exec (.throttleStep cl t₀ ts) s = .next u ∧ throttledTo s u cl (c.throt - 1))
    ∧ (((∀ t ∈ t₀ :: ts, t < d.thot) → ∃ t ∈ t₀ :: ts, d.tlow < t) →
        ((∃ t ∈ t₀ :: ts, d.thot ≤ t) → c.throt = 15 ∨ s.sys.dt < c.throtAt + 10000) →
      exec (.throttleStep cl t₀ ts) s = .next s))
  ∧ (∀ (die temperature : Nat) (s : State), die < 4 →
    if temperature < (s.die die).tcrit then exec (.tcritTrip ⟨die, temperature⟩) s = .next s
    else
      ∃ u v, exec (.tcritTrip ⟨die, temperature⟩) s = .next u
        ∧ (∀ cl, cl < 48 → dieOfCluster cl = die → (u.cluster cl).throt = 15)
        ∧ (∀ cl, 48 ≤ cl ∨ dieOfCluster cl ≠ die → u.cluster cl = s.cluster cl) ∧ u.mem = s.mem ∧ u.threads = s.threads
        ∧ if (s.die die).handover = true then
            u.sys.out = s.sys.out ∧ (u.die die).owed = (s.die die).owed ++ [0x0100 + die]
              ∧ (u.die die).teleSeq = (s.die die).teleSeq
          else
            u.sys.out = s.sys.out ++ [.telemetry die (s.die die).teleSeq (0x0100 + die) v]
              ∧ (u.die die).teleSeq = ((s.die die).teleSeq + 1) % 2 ^ 32)
  ∧ (∀ (cl since : Nat) (s : State), cl < 48 → (s.cluster cl).gated = false → isIdle s cl → (s.cluster cl).idleFrom = some since →
    since + 10000 ≤ s.sys.dt →
    ∃ u, exec (.clusterGate cl) s = .next u ∧ (u.cluster cl) = { s.cluster cl with gated := true, wake := 0 }
      ∧ u = { s with clusters := u.clusters, ca := { s.ca with l1 := u.ca.l1, l1data := u.ca.l1data } }
      ∧ ∀ core ctx va, core < 768 → ctx < 64 → va < 2 ^ 56 →
          look {} u.ca.l1 (l1Key core ctx va) = if clusterOf core = cl then {} else look {} s.ca.l1 (l1Key core ctx va))
  ∧ (∀ (cl : Nat) (s : State), cl < 48 → (s.cluster cl).gated = false → isIdle s cl → (s.cluster cl).idleFrom = none →
    ∃ u, exec (.clusterGate cl) s = .next u ∧ onlyCluster s u cl { s.cluster cl with idleFrom := some s.sys.dt })
  ∧ ∀ (cl : Nat) (s : State), (s.cluster cl).gated = true → (s.cluster cl).wake ≠ 0 → (s.cluster cl).wake ≤ s.sys.dt →
    ∃ u, exec (.clusterUngate cl) s = .next u ∧ onlyCluster s u cl { s.cluster cl with gated := false, wake := 0 }

/-- At an interval's end the unused tokens are offered, the next interval has the budget granted, with what was taken from
neighbours and without what was lent; after 10 intervals without a grant the budget is 336; the tokens of one atoll are its
share of the budget by its clusters, scaled by P / 64. Where the host trades tokens, only it changes the budget (R327,
R417). -/
def Sys2Proof.Claims.TokensAreTraded : Prop :=
  (∀ (accepted : Nat) (s : State), s.sys.intervalEnd ≤ s.sys.dt → (s.die 0).restart = false → tokensByHost s = false →
    let y := s.sys
    let unused := y.budget - tokensTaken s
    ∃ u, exec (.tokenIntervalEnd accepted) s = .next u
      ∧ u = { s with sys := { y with budget := ((y.nextBudget : Int) + y.loan - min accepted unused).toNat, loan := 0
                                     intervalEnd := y.intervalEnd + 64000, dry := if y.granted = true then 0 else y.dry + 1
                                     granted := false, out := y.out ++ [.tokens unused] } })
  ∧ (∀ (accepted : Nat) (s : State), s.sys.intervalEnd ≤ s.sys.dt → (s.die 0).restart = false → tokensByHost s = true →
    ∃ u, exec (.tokenIntervalEnd accepted) s = .next u ∧ u.sys.budget = ((s.sys.nextBudget : Int) + s.sys.loan).toNat
      ∧ requested s u 0x82 0 [BitVec.ofNat 64 (s.sys.budget - tokensTaken s), BitVec.ofNat 64 s.sys.intervalEnd])
  ∧ (∀ (budget : Nat) (s : State),
    ((s.die 0).restart = false → tokensByHost s = false →
      exec (.tokenGrant budget) s = .next { s with sys := { s.sys with nextBudget := budget, granted := true } })
    ∧ (tokensByHost s = true → exec (.tokenGrant budget) s = .next s))
  ∧ (∀ s : State, tokensByHost s = false → 10 ≤ s.sys.dry → s.sys.granted = false → s.sys.nextBudget ≠ 336 →
    exec .tokenFallback s
      = .next { s with sys := { s.sys with budget := ((s.sys.budget : Int) - s.sys.nextBudget + 336).toNat, nextBudget := 336 } })
  ∧ (∀ s : State, s.sys.dry < 10 ∨ s.sys.granted = true → exec .tokenFallback s = .next s)
  ∧ (∀ (accepted : Nat) (s : State), (s.die 0).restart = false → tokensByHost s = false →
    exec (.tokenOffer accepted) s = .next { s with sys := { s.sys with loan := s.sys.loan + accepted } })
  ∧ (∀ (s : State) (a : Nat), s.wf = true → (∀ i, (s.atoll i).live = true → i < 8 ∧ (s.atoll i).clusters < 2 ^ 48) →
    (s.atoll a).live = true →
    let owned := fun i => ((List.range 48).filter fun c => (s.atoll i).clusters.testBit c).length
    let all := ((List.range 8).map fun i => if (s.atoll i).live = true then owned i else 0).sum
    atokensOf s a = (if all = 0 then 0 else s.sys.budget * owned a / all) * (s.atoll a).period / 64)

end

/-- Clusters are throttled, and trade tokens. -/
def Obligations.ClustersAndTokens : Prop :=
  Sys2Proof.Claims.ClustersAreProtected ∧ Sys2Proof.Claims.TokensAreTraded

namespace Sys2Proof.Claims

open Sys2Proof.Machine Sys2Proof.Safety

/-! ### Maintenance -/

/-- Only the migration under a page's number changes in the package's registers. -/
def onlyMigration (s u : State) (page : Nat) (m : Migration) : Prop :=
  look {} u.sys.migrations page = m ∧ (∀ p, p ≠ page → look {} u.sys.migrations p = look {} s.sys.migrations p)
    ∧ u.threads = s.threads ∧ u.ctxs = s.ctxs

/-- The page of a move: a whole number of lines, in two frames that do not meet, and with the page's own lines written. -/
def soundMove (m : Migration) : Prop :=
  m.size % 256 = 0 ∧ m.old % m.size = 0 ∧ m.new % m.size = 0 ∧ (m.old + m.size ≤ m.new ∨ m.new + m.size ≤ m.old) ∧ 0 < m.size
    ∧ m.new < 2 ^ 52 ∧ ∀ l ∈ m.dirty, m.old ≤ 256 * l ∧ 256 * l < m.old + m.size

/-- A byte of a line, by its number, of the old frame. -/
def inLines (m : Migration) (ls : List Nat) (i : Nat) : Prop := (m.old + i) / 256 ∈ ls

open Classical in
/-- The lines named are copied to the new frame, and no other byte changes. -/
def copiedLines (s u : State) (m : Migration) (ls : List Nat) : Prop :=
  (∀ i, i < m.size → inLines m ls i → u.byte (m.new + i) = s.byte (m.old + i))
    ∧ ∀ k, ¬ (∃ i, i < m.size ∧ inLines m ls i ∧ k = m.new + i) → u.byte k = s.byte k

/-- The leaf's entry still maps the old frame. -/
def mapsOld (s : State) (m : Migration) : Prop :=
  let e := readNat s (forward s .dev m.leafAt) 8
  e % 4 = 3 ∧ e / 2 ^ 16 % 2 ^ 36 * 2 ^ 16 = m.old

/-- Accesses to the frame of a move whose leaf is written go to the new frame, and those of no other move elsewhere go
where they went (R376). -/
def forwards (u : State) (m : Migration) : Prop :=
  (∀ i, i < m.size → forward u .dev (m.old + i) = m.new + i)
    ∧ ∀ k, (k < m.old ∨ m.old + m.size ≤ k) → (∀ p e, (p, e) ∈ u.sys.migrations → e.live = true → e.old = m.old) →
        forward u .dev k = k

/-- The frames of the moves under way do not meet. -/
def movesApart (s : State) (page : Nat) : Prop :=
  sparseWf {} s.sys.migrations = true ∧ ∀ p e, (p, e) ∈ s.sys.migrations → e.live = true → p ≠ page →
    let m := s.migration page
    0 < e.size ∧ e.old % e.size = 0 ∧ (e.old + e.size ≤ m.old ∨ m.old + m.size ≤ e.old)

/-- The GWCT of a leaf's store (R207, R221). -/
def leafUntil (s : State) (at_ : Nat) : Nat :=
  let now := s.dtAt (dieOfKey .dev at_)
  if atRowBuffer s at_ = true then now + 2 else max now (look 0 s.ca.leases (at_ / 256)) + 2

/-- A line of a page that a context's tables map lies on a pseudo-channel. -/
def hasPageOn (s : State) (n : Nat) : Prop :=
  ∃ k c, (k, c) ∈ s.ctxs ∧ c.live = true ∧ ∃ f ∈ mappedFrames s levels (if c.fn = 0 then c.xroot else c.root2), ∃ i,
    1024 * i + 1024 ≤ f.2 ∧ channelAt s (f.1 + 1024 * i) = n

/-- An interrupt class is pending at a Harbour core. -/
def isPending (s : State) (die core cls : Nat) : Prop := (look 0 (s.die die).hpend core).testBit cls = true

/-- A second-stage fault that its die serves, or the host for it. -/
def waitsFor (f : FaultRec) (die : Nat) : Prop := f.live = true ∧ f.die = die ∧ f.miss.stage2 = true ∧ f.miss.home = false

/-- A Harbour core that waits for none of the classes pending. -/
def sleepsOn (s : State) (die core : Nat) : Prop := ∀ mask, ((s.thread (harbourKey die core)).lane 0).hold ≠ .halt mask

/-- Only the counts of events of a context and of a die's corrected errors change, with what an overflow of a count tells. -/
def correctedAt (s u : State) (die : Nat) : Prop :=
  untold (u.die die) = { untold (s.die die) with corrected := (s.die die).corrected + 1 }
    ∧ (∀ d, d ≠ die → untold (u.die d) = untold (s.die d)) ∧ unsent u.sys = unsent s.sys
    ∧ u.mem = s.mem ∧ u.poison = s.poison ∧ u.threads = s.threads ∧ u.ca = s.ca ∧ u.fl = s.fl
    ∧ ∀ n, uncounted (u.ctx n) = uncounted (s.ctx n)

end Sys2Proof.Claims

section
open Classical
open Sys2Proof Sys2Proof.Machine Sys2Proof.Safety Sys2Proof.Claims

/-- A move of a page in rounds recopies the lines written meanwhile while 64 or more are found and fewer than 8 rounds
have passed; then it holds the writes, copies the last lines, writes the new leaf and forwards every access to the old
frame until the leaf's GWCT (the later of device time and the leases recorded on its line, + 2 ns, R207, R221), when the
old frame is free. A move without a hold writes its leaf only if nothing has been written to the page, and else is
abandoned with no change (R376, R377). A move begins with a copy of every line. -/
def Sys2Proof.Claims.PagesMigrate : Prop :=
  (∀ (page : Nat) (x : Movable) (new : Nat) (optimistic : Bool) (s : State), (s.migration page).live = false →
    chooseMove s page optimistic = some (x, new) →
    ∃ u m, exec (if optimistic = true then .optimisticMigration page else .pageMigration page) s = .next u
      ∧ onlyMigration s u page m ∧ m.live = true ∧ m.old = x.old ∧ m.new = new ∧ m.size = x.size ∧ m.leafAt = x.leafAt
      ∧ m.optimistic = optimistic ∧ m.written = false ∧ m.held = false ∧ m.dirty = [] ∧ m.rounds = 0
      ∧ (soundMove m → copiedLines s u m ((List.range (m.size / 256)).map (m.old / 256 + ·))))
  ∧ (∀ (page : Nat) (s : State),
    let m := s.migration page
    m.live = true → m.optimistic = false → m.written = false → m.held = false → soundMove m →
    (64 ≤ m.dirty.length → m.rounds < 8 →
      ∃ u, exec (.pageMigration page) s = .next u ∧ onlyMigration s u page { m with dirty := [], rounds := m.rounds + 1 }
        ∧ copiedLines s u m m.dirty)
    ∧ (m.dirty.length < 64 ∨ 8 ≤ m.rounds → pinned s m.old m.size = false →
      ∃ u, exec (.pageMigration page) s = .next u ∧ onlyMigration s u page { m with held := true } ∧ u.mem = s.mem)
    ∧ (m.dirty.length < 64 ∨ 8 ≤ m.rounds → pinned s m.old m.size = true → exec (.pageMigration page) s = .next s))
  ∧ (∀ (page : Nat) (s : State),
    let m := s.migration page
    let at_ := forward s .dev m.leafAt
    m.live = true → m.written = false →
    (m.optimistic = false → m.held = true → soundMove m → mapsOld s m → (∀ i, i < m.size → (m.new + i < at_ ∨ at_ + 8 ≤ m.new + i)) →
      (∀ i, i < m.size → (m.old + i < at_ ∨ at_ + 8 ≤ m.old + i)) →
      ∃ u, exec (.pageMigration page) s = .next u
        ∧ (∀ i, i < m.size → inLines m m.dirty i → u.byte (m.new + i) = s.byte (m.old + i))
        ∧ readNat u at_ 8 = readNat s at_ 8 % 2 ^ 16 + m.new
        ∧ (∀ k, (k < m.new ∨ m.new + m.size ≤ k) → (k < at_ ∨ at_ + 8 ≤ k) → u.byte k = s.byte k)
        ∧ (look {} u.sys.migrations page).written = true ∧ (look {} u.sys.migrations page).held = false
        ∧ (look {} u.sys.migrations page).until_ = leafUntil s at_ ∧ (movesApart s page → forwards u m)
        ∧ (∀ tag, m.cmd = some tag → ∃ e : List W64, entryPosted s.sys u.sys e))
    ∧ (m.optimistic = true → pinned s m.old m.size = false → versionOf s m = m.version → mapsOld s m →
      ∃ u, exec (.optimisticMigration page) s = .next u ∧ (look {} u.sys.migrations page).written = true
        ∧ (look {} u.sys.migrations page).until_ = leafUntil s at_ ∧ (soundMove m → movesApart s page → forwards u m)
        ∧ (∀ k, (k < at_ ∨ at_ + 8 ≤ k) → u.byte k = s.byte k)
        ∧ (m.new % 2 ^ 16 = 0 → m.new < 2 ^ 48 → readNat u at_ 8 = readNat s at_ 8 % 2 ^ 16 + m.new))
    ∧ (m.optimistic = true → pinned s m.old m.size = false → versionOf s m ≠ m.version →
      ∃ u, exec (.optimisticMigration page) s = .next u ∧ onlyMigration s u page {} ∧ u.mem = s.mem ∧ u.poison = s.poison))
  ∧ ∀ (page : Nat) (s : State), (s.migration page).live = true → (s.migration page).written = true →
    (s.sys.dt < (s.migration page).until_ → exec (.oldFrameFree page) s = .next s)
    ∧ ((s.migration page).until_ ≤ s.sys.dt →
        ∃ u, exec (.oldFrameFree page) s = .next u ∧ onlyMigration s u page {} ∧ u.mem = s.mem
          ∧ (movesApart s page → soundMove (s.migration page) →
              ∀ i, i < (s.migration page).size → forward u .dev ((s.migration page).old + i) = (s.migration page).old + i))

/-- Retirement takes a pseudo-channel from serving to draining, to moving once no row is held on it and every page has
moved, with a new map generation, and to retired (R378, R422). An idle stack enters self-refresh (R241, R422), and
leaves it when the event comes again: that it leaves so is the model's choice (log entry 72). Patrol scrub corrects an
error and counts it or poisons its unit, and leaves held rows alone (R379, R420, R421). A failed port is known (R396). A
corrected error is counted and changes nothing else; an uncorrectable one drops the line, poisons the unit, or marks the
register, checkpoint or slot (R379, R387, R407). -/
def Sys2Proof.Claims.StacksAndErrors : Prop :=
  (∀ (n : Nat) (s : State), n < 1536 → look .serving s.sys.channels n = .serving →
    ∃ u, exec (.retirementRequest n) s = .next u ∧ u = { s with sys := { s.sys with channels := put .serving s.sys.channels n .draining } })
  ∧ (∀ (n : Nat) (s : State), look .serving s.sys.channels n = .draining → s.sys.closing = [] →
    (∀ c h, (look {} (s.ctx c).rows h).state = .held → channelAt s (look {} (s.ctx c).rows h).pa ≠ n) → s.wf = true →
    (∀ c x, (c, x) ∈ s.ctxs → sparseWf {} x.rows = true) → (∀ p e, (p, e) ∈ s.sys.migrations → e.live = false) →
    ¬ hasPageOn s n →
    ∃ u, exec (.channelMove n) s = .next u
      ∧ u = { s with sys := { s.sys with channels := put .serving s.sys.channels n .moving, mapGen := (s.sys.mapGen + 1) % 256 } })
  ∧ (∀ (n : Nat) (s : State), hasPageOn s n → exec (.channelMove n) s = .next s)
  ∧ (∀ (n : Nat) (s : State), look .serving s.sys.channels n = .moving →
    ∃ u, exec (.channelRetired n) s = .next u ∧ u = { s with sys := { s.sys with channels := put .serving s.sys.channels n .retired } })
  ∧ (∀ (stack : Nat) (s : State), stack < 12 → stack ∉ s.sys.selfRef → stackBusy s stack = false →
    ∃ u, exec (.selfRefreshEntry stack) s = .next u ∧ u = { s with sys := { s.sys with selfRef := stack :: s.sys.selfRef } })
  ∧ (∀ (stack : Nat) (s : State), stack ∈ s.sys.selfRef →
    ∃ u, exec (.selfRefreshEntry stack) s = .next u
      ∧ u = { s with sys := { s.sys with selfRef := s.sys.selfRef.filter (· ≠ stack) } })
  ∧ (∀ (pa : Nat) (s : State), pa < 2 ^ 52 →
    (atRowBuffer s pa = true → ∀ lost, exec (.patrolScrub pa lost) s = .next s)
    ∧ (atRowBuffer s pa = false →
        (∃ u, exec (.patrolScrub pa false) s = .next u ∧ correctedAt s u (dieOfKey .dev pa) ∧ u.ctxs = s.ctxs)
        ∧ ∃ u, exec (.patrolScrub pa true) s = .next u ∧ u = { s with poison := u.poison }
            ∧ ∀ k, k ∈ u.poison ↔ k ∈ s.poison ∨ k = pa / 32 * 32))
  ∧ (∀ (port : Nat) (s : State), port < 24 →
    ∃ u, exec (.fabricPortFailure port) s = .next u ∧ u = { s with sys := { s.sys with ports := u.sys.ports } }
      ∧ ∀ p, p ∈ u.sys.ports ↔ p ∈ s.sys.ports ∨ p = port)
  ∧ (∀ (e : ErrorAt) (s : State), ∃ u, exec (.softErrorCorrected e) s = .next u ∧ correctedAt s u (errorOwner s e).2)
  ∧ (∀ (core ctx va : Nat) (s : State), core < 768 → ctx < 64 → va < 2 ^ 56 →
    ∃ u, exec (.uncorrectableError (.l1 core ctx va)) s = .next u ∧ u = { s with ca := { s.ca with l1 := u.ca.l1, l1data := u.ca.l1data } }
      ∧ look {} u.ca.l1 (l1Key core ctx va) = {})
  ∧ (∀ (key : Nat) (s : State), key < 2 ^ 61 →
    ∃ u, exec (.uncorrectableError (.unit key)) s = .next u ∧ u = { s with poison := u.poison }
      ∧ key / (if key < 2 ^ 60 then 32 else 64) * (if key < 2 ^ 60 then 32 else 64) ∈ u.poison ∧ ∀ k ∈ s.poison, k ∈ u.poison)
  ∧ (∀ (thr reg : Nat) (s : State), (s.thread thr).live = true → reg < 1024 →
    ∃ u, exec (.uncorrectableError (.register thr reg)) s = .next u
      ∧ u = { s with threads := put {} s.threads thr { s.thread thr with lost := (u.thread thr).lost } }
      ∧ ∀ l, l < (s.thread thr).width → l < 64 → (u.thread thr).lostAt reg l = true)
  ∧ (∀ (core k : Nat) (e : Episode) (s : State), (s.core core).ckpt = some k → (s.thread k).episode = some e →
    ∃ u, exec (.uncorrectableError (.checkpoint core)) s = .next u
      ∧ u = { s with threads := put {} s.threads k { s.thread k with episode := some { e with lost := true } } })
  ∧ ∀ (core slot el : Nat) (s : State),
    ∃ u, exec (.uncorrectableError (.reef core slot el)) s = .next u ∧ u = { s with cores := u.cores }
      ∧ el ∈ (look {} (u.core core).slots slot).bad

/-- The lock-step pair that mismatches restarts, at a second mismatch within 1 s its die is reset, and its restart ends.
A liveness timeout makes class 7 pending and a second one is a mismatch; a kick restarts it (R424, R427). TTHRESH takes
a write only where its thresholds are in order (R427). A timer makes class 2 pending at its time, once, and an interrupt
its class at core 0; a core held at `HALT` for it goes on (R388, R425, R426). A sensor's event carries its die's number
(R408, R438). A restart's end lets the second-stage faults of the die be served (R424). A message between dies carries
its sender's PROTOMAJ and PROTOMIN and is written in the lower of the two minors (R432). -/
def Obligations.HarbourEventsArrive : Prop :=
  (∀ (die : Nat) (s : State), die < 4 → s.wf = true → (∀ t, (s.die die).mismatchAt = some t → t + 1000000000 < s.sys.dt) →
    ∃ u, exec (.pairMismatch die) s = .next u ∧ u.mem = s.mem ∧ u.thread (harbourKey die 0) = {} ∧ u.ctxs = s.ctxs
      ∧ (u.die die) = { s.die die with restart := true, mismatchAt := some s.sys.dt, kickAt := s.dtAt die, kicked := false })
  ∧ (∀ (die t : Nat) (s : State), die < 4 → (s.die die).mismatchAt = some t → s.sys.dt ≤ t + 1000000000 →
    exec (.pairMismatch die) s = .next (resetDie die s))
  ∧ (∀ (die : Nat) (s : State), (s.die die).restart = true →
    ∃ u, exec (.pairRestartEnd die) s = .next u ∧ u = { s with dies := u.dies, sys := u.sys } ∧ (u.die die).restart = false
      ∧ (∀ d, d ≠ die → u.die d = s.die d)
      ∧ (∀ id f, (id, f) ∈ s.fl.faults → waitsFor f die →
          if hostAssisted s (s.ctx f.ctx).atoll 0 = true then
            (s.die die).handover = true ∨ ∃ a ∈ u.sys.asks, a.code = 0x80 ∧ a.what = id
          else (∀ a ∈ s.sys.asks, a.code = 0x80 → a.what ≠ id) → isPending u die 0 1)
      ∧ ((∀ id f, (id, f) ∈ s.fl.faults → ¬ waitsFor f die) →
          u = { s with dies := put {} s.dies die { s.die die with restart := false } }))
  ∧ (∀ (die : Nat) (s : State), die < 4 → (s.die die).kickAt + 1000 * (s.die die).kickto ≤ s.dtAt die →
    ((s.die die).kicked = false → sleepsOn s die 0 →
      ∃ u, exec (.livenessTimeout die) s = .next u ∧ isPending u die 0 7 ∧ (u.die die).kicked = true
        ∧ (u.die die).kickAt = s.dtAt die ∧ u = { s with dies := u.dies })
    ∧ ((s.die die).kicked = true → exec (.livenessTimeout die) s = exec (.pairMismatch die) s))
  ∧ (∀ (die : Nat) (s : State), die < 4 →
    ∃ u, exec (.watchdogKick die) s = .next u
      ∧ u = { s with dies := put {} s.dies die { s.die die with kickAt := s.dtAt die, kicked := false } })
  ∧ (∀ (die value : Nat) (s : State), die < 4 →
    let lo := value % 2 ^ 8
    let hot := value / 2 ^ 8 % 2 ^ 8
    let crit := value / 2 ^ 16 % 2 ^ 8
    ∃ u, exec (.tthreshWrite die value) s = .next u
      ∧ (lo < hot ∧ hot < crit ∧ crit ≤ 115 → u = { s with dies := put {} s.dies die { s.die die with tlow := lo, thot := hot, tcrit := crit } })
      ∧ (¬ (lo < hot ∧ hot < crit ∧ crit ≤ 115) → ∀ d, u.die d = s.die d))
  ∧ (∀ (die core : Nat) (s : State), die < 4 → core < 5 → look 0 (s.die die).htimer core ≠ 0 →
    look 0 (s.die die).htimer core ≤ s.dtAt die → core ∉ (s.die die).rung → sleepsOn s die core →
    ∃ u, exec (.htimerExpiry die core) s = .next u ∧ isPending u die core 2 ∧ core ∈ (u.die die).rung ∧ u = { s with dies := u.dies }
      ∧ ∀ d, d ≠ die → u.die d = s.die d)
  ∧ (∀ (die cls mask : Nat) (s : State), die < 4 → 3 ≤ cls → cls ≤ 6 →
    let k := harbourKey die 0
    (sleepsOn s die 0 →
      ∃ u, exec (.harbourInterrupt die 0 cls) s = .next u ∧ isPending u die 0 cls ∧ u = { s with dies := u.dies })
    ∧ (((s.thread k).lane 0).hold = .halt mask → mask.testBit cls = true → (s.thread k).seq = none → 0 < (s.thread k).width →
        (s.thread k).die = die → (s.thread k).core % 8 = 0 →
        ∃ u, settles (.harbourInterrupt die 0 cls) s k u ∧ isPending u die 0 cls
          ∧ (u.thread k).lane 0 = Lane.advance 8 ((s.thread k).lane 0) ∧ ∀ j, j ≠ k → u.thread j = s.thread j))
  ∧ (∀ (src dst : Nat) (body : W64) (s : State), src < 4 → dst < 4 → src ≠ dst →
    let f := (s.die src).fw
    let g := (s.die dst).fw
    ∃ u, happen (.dieMessage src dst body) s = .next u ∧ isPending u dst 0 3 ∧ u = { s with dies := u.dies, sys := u.sys }
      ∧ ∃ m : DieMail, u.sys.dieMail = s.sys.dieMail ++ [m] ∧ m.src = src ∧ m.dst = dst ∧ m.body = body ∧ m.major = f.major
          ∧ m.minor = f.minor ∧ m.written = min f.minor g.minor)
  ∧ ∀ (sensor die : Nat) (s : State), sensorDie sensor = some die → (s.die die).handover = false →
    ∃ u v, exec (.sensorThresholdEvent sensor) s = .next u ∧ u.sys.out = s.sys.out ++ [.telemetry die (s.die die).teleSeq sensor v]
      ∧ (u.die die).teleSeq = ((s.die die).teleSeq + 1) % 2 ^ 32
      ∧ (sensor = 0x0170 → v = s.sys.budget) ∧ (sensor / 16 = 0x16 → v = (s.die die).corrected)
      ∧ u.mem = s.mem ∧ u.threads = s.threads ∧ u.ctxs = s.ctxs

end

/-- Pages migrate, and stacks and errors are handled. -/
def Obligations.PagesAndErrors : Prop :=
  Sys2Proof.Claims.PagesMigrate ∧ Sys2Proof.Claims.StacksAndErrors

namespace Sys2Proof.Claims

open Sys2Proof.Machine Sys2Proof.Safety

/-! ### The commands of the PF -/

/-- A command is the oldest on the ring, with no other waiting, and is taken: no recovery mode, no handover of die 0, no
reserved bit, and nothing under way on what it names (R403, R406, R436). -/
def commandTaken (s : State) (c : Cmd) : Prop :=
  s.sys.recovery = false ∧ (s.die 0).handover = false ∧ s.sys.deferred = [] ∧ s.sys.nextCmd = some c ∧ c.wellFormed = true
    ∧ ∀ x ∈ c.names, x.busy s = false

/-- The state once the command has left the ring. -/
def tookCommand (s : State) : State := { s with sys := { s.sys with svcci := (s.sys.svcci + 1) % 2 ^ 32 } }

/-- An event serves a command: its reply, after an effect that leaves `v` (R403). -/
def commandDone (i : Instr) (s v : State) (c : Cmd) (status : Int) (results : List W64) : Prop :=
  ∃ u, exec i s = .next u ∧ u = { v with sys := u.sys } ∧ repliesWith v u c.op c.tag status results

/-- A command is refused with a code, and changes nothing else. -/
def commandRefused (i : Instr) (s : State) (c : Cmd) (status : Int) : Prop := commandDone i s (tookCommand s) c status []

/-- A command waits in the Harbour behind no other. -/
def commandWaits (i : Instr) (s : State) (c : Cmd) : Prop :=
  exec i s = .next { tookCommand s with sys := { (tookCommand s).sys with deferred := [c] } }

/-- The slot a steward starts in: the lowest that is free, when no handler waits for one (R13, R363; log entry 96). -/
def seat (s : State) (home slot : Nat) : Prop := handlerWaits s home = false ∧ freeSccSlot s home 7 = some slot

/-- The image of a saved context holds its steward (R350). -/
def stewardSaved (s : State) (n : Nat) : Prop := (s.ctx n).save = .saved ∧ imageWord s (s.ctx n).saveTo 0x3F0 ≠ 0

/-- The bits of word `i` of a command. -/
def bits (c : Cmd) (i hi lo : Nat) : Nat := (c.word i).toNat / 2 ^ lo % 2 ^ (hi - lo + 1)

/-- A mask of resources that meets what a live atoll owns. -/
def ownedByAnother (s : State) (c : Cmd) : Prop :=
  ∃ a, (s.atoll a).live = true ∧ ∃ i, (((s.atoll a).clusters.testBit i && (c.word 2).getLsbD i)
    || ((s.atoll a).slices.testBit i && (c.word 3).getLsbD i) || ((s.atoll a).groups.testBit i && (c.word 4).getLsbD i)
    || ((s.atoll a).ports.testBit i && (c.word 5).getLsbD i)) = true

/-- A context that exists. -/
def exists_ (s : State) (n : Nat) : Prop := n < 64 ∧ (s.ctx n).live = true

/-- What CTX_CREATE and CTX_RESTORE find at fault with where a context is to be placed, in the order of R404. -/
def placeFault (s : State) (c : Cmd) (code : Int) : Prop :=
  let f := bits c 1 5 0
  let k := bits c 1 11 8
  let a := bits c 1 18 16
  let home := bits c 1 29 24
  let badArg := 48 ≤ home ∨ (f = 0 ∧ c.word 5 ≠ 0)
  let badState := (s.atoll a).live = false ∨ (s.atoll a).clusters.testBit home = false ∨ (look 0 s.sys.fncfg f).getLsbD 0 = false
  let full := 64 ≤ (s.ctxs.filter fun x => x.2.live).length ∨ (∃ m, (s.ctx m).live = true ∧ (s.ctx m).fn = f ∧ (s.ctx m).fslot = k)
    ∨ 7 ≤ stewardsAt s home none
  (code = -2 ∧ badArg) ∨ (code = -5 ∧ ¬ badArg ∧ badState) ∨ (code = -3 ∧ ¬ badArg ∧ ¬ badState ∧ full)

/-- The lowest free context number. -/
def lowestFree (s : State) (n : Nat) : Prop := n < 64 ∧ (s.ctx n).live = false ∧ ∀ m, m < n → (s.ctx m).live = true

/-- A steward starts at a header with an argument in s1 and every other register zero (R336). -/
def stewardStarts (v : State) (n home slot : Nat) (entry : Addr) (arg : W64) : Prop :=
  (v.ctx n).steward = some (sccKey home slot)
    ∧ (let t := v.thread (sccKey home slot)
       t.live = true ∧ t.engine = .scc ∧ t.level = .steward ∧ t.ctx = n ∧ t.core = home ∧ t.slot = slot ∧ t.width = 1
        ∧ t.regs.getS 1 = arg ∧ (∀ i, i ≠ 1 → t.regs.getS i = 0) ∧ (t.lane 0).pc = entry ∧ (t.lane 0).need = .start
        ∧ (t.lane 0).state = .running ∧ t.lgw = 0 ∧ t.cntL = 0 ∧ t.cntS = 0 ∧ t.cntC = 0 ∧ t.cntT = 0 ∧ t.repcnt = 0)

/-- Nothing but contexts, the steward's thread, its cluster's idle time and caches differ. -/
def besidesStart (s v : State) (n k home : Nat) : Prop :=
  v.mem = s.mem ∧ (∀ m, m ≠ n → v.ctx m = s.ctx m) ∧ (∀ j, j ≠ k → v.thread j = s.thread j) ∧ v.atolls = s.atolls ∧ v.wgs = s.wgs
    ∧ v.fl = s.fl ∧ v.cores = s.cores ∧ ∀ cl, cl ≠ home → v.cluster cl = s.cluster cl

end Sys2Proof.Claims

section
open Classical
open Sys2Proof Sys2Proof.Machine Sys2Proof.Safety Sys2Proof.Claims

/-- An entry with an unknown OP or a nonzero reserved bit is answered BADOP (R403). ATOLL_CREATE and ATOLL_DESTROY check and act
as R404 says: STATE, NORESOURCE, BADARG in that order, or the atoll exists with what was named; NOTFOUND, STATE, or it is
gone. -/
def Sys2Proof.Claims.AtollCommands : Prop :=
  (∀ (c : Cmd) (s : State), s.sys.recovery = false → (s.die 0).handover = false → s.sys.nextCmd = some c → c.wellFormed = false →
    commandRefused .unknownOp s c (-1))
  ∧ (∀ c : Cmd, (c.op ∉ [0x01, 0x02, 0x10, 0x11, 0x12, 0x13, 0x14, 0x15, 0x16, 0x17, 0x18, 0x20, 0x21, 0x22, 0x23]
      ∨ bits c 0 15 8 ≠ 0 ∨ bits c 0 63 32 ≠ 0) → c.wellFormed = false)
  ∧ (∀ (c : Cmd) (s : State), commandTaken s c → c.op = 0x01 → s.wf = true →
    let a := bits c 1 2 0
    let p := bits c 6 10 0
    let slew := bits c 6 23 16
    let bad := c.word 2 = 0 ∨ p < 16 ∨ 1024 < p ∨ slew = 0
    ((s.atoll a).live = true → commandRefused .atollCreate s c (-5))
    ∧ ((s.atoll a).live = false → ownedByAnother s c → commandRefused .atollCreate s c (-3))
    ∧ ((s.atoll a).live = false → ¬ ownedByAnother s c → bad → commandRefused .atollCreate s c (-2))
    ∧ ((s.atoll a).live = false → ¬ ownedByAnother s c → ¬ bad →
        ∃ v, commandDone .atollCreate s v c 0 [] ∧ v = { tookCommand s with atolls := v.atolls }
          ∧ (∀ b, b ≠ a → v.atoll b = s.atoll b)
          ∧ (let x := v.atoll a
             x.live = true ∧ x.clusters = (c.word 2).toNat ∧ x.slices = (c.word 3).toNat ∧ x.groups = (c.word 4).toNat
              ∧ x.ports = (c.word 5).toNat ∧ x.period = p ∧ x.slew = slew ∧ x.rotation = none
              ∧ x.apch = ((List.range 1536).filter fun i => (c.word 4).getLsbD (i / 32) && look .serving s.sys.channels i != .retired).length
              ∧ x.atokens = atokensOf v a)))
  ∧ ∀ (c : Cmd) (s : State), commandTaken s c → c.op = 0x02 → s.wf = true →
    let a := (c.word 1).toNat
    ((s.atoll a).live = false → commandRefused .atollDestroy s c (-4))
    ∧ ((s.atoll a).live = true → (∃ n, ofAtoll s a n) → commandRefused .atollDestroy s c (-5))
    ∧ ((s.atoll a).live = true → (∀ n, ¬ ofAtoll s a n) →
        ∃ v, commandDone .atollDestroy s v c 0 [] ∧ v = { tookCommand s with atolls := v.atolls } ∧ v.atoll a = {}
          ∧ ∀ b, b ≠ a → v.atoll b = s.atoll b)

/-- CTX_CREATE, STEWARD_START, CTX_DESTROY, CTX_RESET, CTX_IMAGE and WARP_KILL check as R404 says and act: a context with the
lowest free number, reset registers and the tables named, whose steward starts with its argument in s1 (R336), once no handler
waits for a slot of its SCC (R13); a context that is
gone; the forced reset without a notice (R348); an image address; a warp that is gone with KILLED in its launch (R439). -/
def Sys2Proof.Claims.ContextCommands : Prop :=
  (∀ (c : Cmd) (s : State), commandTaken s c → c.op = 0x10 → s.wf = true →
    let home := bits c 1 29 24
    let a := bits c 1 18 16
    (2 ^ 56 ≤ (c.word 2).toNat → commandRefused .ctxCreate s c (-2))
    ∧ ((c.word 2).toNat < 2 ^ 56 → ∀ code, placeFault s c code → commandRefused .ctxCreate s c code)
    ∧ ((c.word 2).toNat < 2 ^ 56 → (∀ code, ¬ placeFault s c code) → handlerWaits s home = true → commandWaits .ctxCreate s c)
    ∧ ((c.word 2).toNat < 2 ^ 56 → (∀ code, ¬ placeFault s c code) → ∀ n slot, lowestFree s n → seat s home slot →
        ∃ v, besidesStart s v n (sccKey home slot) home
          ∧ commandDone .ctxCreate s (settle (sccKey home slot) v) c 0 [BitVec.ofNat 64 n]
          ∧ stewardStarts v n home slot ((c.word 2).setWidth 56) (c.word 3)
          ∧ ∃ d x, v.ctx n = { live := true, fn := bits c 1 5 0, fslot := bits c 1 11 8, atoll := a, home
                               xroot := bits c 4 51 13 * 2 ^ 13, root2 := (c.word 5).toNat, peers := (c.word 6).toNat
                               fring := bits c 7 55 12 * 2 ^ 12
                               fsize := if 4 ≤ bits c 7 3 0 ∧ bits c 7 3 0 ≤ 12 then bits c 7 3 0 else 4
                               deadline := (s.die 0).adlDeadline a, active := d, activeFrom := s.sys.dt, waitFrom := s.sys.dt
                               tide := { period := x }, steward := some (sccKey home slot) }
            ∧ (d = true ↔ activeCount s a < 8)))
  ∧ (∀ (c : Cmd) (s : State), commandTaken s c → c.op = 0x15 → s.wf = true →
    let n := (c.word 1).toNat
    let x := s.ctx n
    (¬ exists_ s n → commandRefused .stewardStart s c (-4))
    ∧ (exists_ s n → x.steward ≠ none ∨ stewardSaved s n → commandRefused .stewardStart s c (-5))
    ∧ (exists_ s n → x.steward = none → ¬ stewardSaved s n → 2 ^ 56 ≤ (c.word 2).toNat → commandRefused .stewardStart s c (-2))
    ∧ (exists_ s n → x.steward = none → ¬ stewardSaved s n → (c.word 2).toNat < 2 ^ 56 →
        (7 ≤ stewardsAt s x.home none → commandRefused .stewardStart s c (-3))
        ∧ (stewardsAt s x.home none < 7 → handlerWaits s x.home = true → commandWaits .stewardStart s c)
        ∧ ∀ slot, stewardsAt s x.home none < 7 → seat s x.home slot →
            ∃ v, besidesStart s v n (sccKey x.home slot) x.home
              ∧ commandDone .stewardStart s (settle (sccKey x.home slot) v) c 0 []
              ∧ stewardStarts v n x.home slot ((c.word 2).setWidth 56) (c.word 3)
              ∧ v.ctx n = { x with steward := some (sccKey x.home slot) }))
  ∧ (∀ (c : Cmd) (s : State), commandTaken s c → c.op = 0x11 → s.wf = true → tidy (s.ctx (c.word 1).toNat) →
    let n := (c.word 1).toNat
    let x := s.ctx n
    (¬ exists_ s n → commandRefused .ctxDestroy s c (-4))
    ∧ (exists_ s n → x.steward ≠ none ∨ (x.gone = false ∧ stewardSaved s n)
        ∨ (x.gone = false ∧ ∃ i, (look {} x.launches i).live = true ∧ (look {} x.launches i).open_ = true) →
        commandRefused .ctxDestroy s c (-5))
    ∧ (exists_ s n → x.steward = none → x.gone = true ∨ (¬ stewardSaved s n ∧ x.openLaunches = []) →
        ∃ v, commandDone .ctxDestroy s v c 0 [] ∧ v.ctx n = {} ∧ v.mem = s.mem ∧ (∀ m, m ≠ n → v.ctx m = s.ctx m)
          ∧ ∀ k, (s.thread k).live = true → (s.thread k).engine ≠ .harbour → (s.thread k).ctx = n → v.thread k = {}))
  ∧ (∀ (c : Cmd) (s : State), commandTaken s c → c.op = 0x14 → s.wf = true → tidy (s.ctx (c.word 1).toNat) →
    let n := (c.word 1).toNat
    (¬ exists_ s n → commandRefused .ctxReset s c (-4))
    ∧ (exists_ s n → (s.ctx n).saveCmd = none →
        ∃ v, commandDone .ctxReset s v c 0 [] ∧ contextReset s v n ∧ (v.ctx n).outb = (s.ctx n).outb
          ∧ (v.ctx n).notices = (s.ctx n).notices ∧ (v.ctx n).gone = false))
  ∧ (∀ (c : Cmd) (s : State), commandTaken s c → c.op = 0x16 →
    let n := (c.word 1).toNat
    let a := (c.word 2).toNat
    (¬ exists_ s n → commandRefused .ctxImage s c (-4))
    ∧ (exists_ s n → a % 4096 ≠ 0 ∨ 2 ^ 52 ≤ a → commandRefused .ctxImage s c (-2))
    ∧ (exists_ s n → a % 4096 = 0 → a < 2 ^ 52 → commandDone .ctxImage s (withCtx (tookCommand s) n { s.ctx n with image := a }) c 0 []))
  ∧ ∀ (c : Cmd) (s : State), commandTaken s c → c.op = 0x17 → s.wf = true →
    let n := (c.word 1).toNat
    let core := bits c 2 9 0
    let k := warpKey core (bits c 2 14 10)
    let t := s.thread k
    (¬ exists_ s n → commandRefused .warpKill s c (-4))
    ∧ (exists_ s n → 768 ≤ core → commandRefused .warpKill s c (-2))
    ∧ (exists_ s n → core < 768 → t.live = false ∨ t.ctx ≠ n → commandRefused .warpKill s c (-4))
    ∧ (exists_ s n → core < 768 → t.live = true → t.ctx = n → t.engine = .core → t.core = core → t.slot = bits c 2 14 10 →
        ∃ u, exec .warpKill s = .next u ∧ repliesWith s u 0x17 c.tag 0 [] ∧ u.mem = s.mem ∧ u.thread k = {}
          ∧ u.thread (accessKey core t.slot) = {}
          ∧ (∀ j, j ≠ k → j ≠ accessKey core t.slot → u.thread j = s.thread j)
          ∧ (((s.ctx n).launch t.launch).live = true → ((u.ctx n).launch t.launch).killed = true))

/-- CTX_PREEMPT begins a pre-emption to the address given, or to the CTX_IMAGE address or the host's, and is answered when it
ends; one that the rotation has begun it takes over, and one that the rotation has saved it answers at once, with the image
sealed at the address it names. CTX_RESTORE refuses an image whose VALID is clear, and else restores it under the lowest free
number (R351, R404). MIGRATE, TOKENS and GRANTS return STATE unless the host serves their function, and else move the page, set
the budget and the grant; a REPLY whose tag names no request returns NOTFOUND (R404, R405), and one to a
second-stage fault of a die whose pair restarts or is handed over waits (R424, R431). -/
def Sys2Proof.Claims.ServiceCommands : Prop :=
  (∀ (c : Cmd) (s : State), commandTaken s c → c.op = 0x12 →
    let n := (c.word 1).toNat
    let a := (c.word 2).toNat
    let x := s.ctx n
    (¬ exists_ s n → commandRefused .ctxPreempt s c (-4))
    ∧ (exists_ s n → a % 4096 ≠ 0 ∨ 2 ^ 52 ≤ a → commandRefused .ctxPreempt s c (-2))
    ∧ (exists_ s n → a % 4096 = 0 → a < 2 ^ 52 →
        (x.gone = true → commandRefused .ctxPreempt s c (-5))
        ∧ (x.gone = false → x.save = .none → a ≠ 0 ∨ x.image ≠ 0 ∨ hostAssisted s x.atoll 4 = true →
            exec .ctxPreempt s = .next (withCtx (tookCommand s) n
              { x with save := .chosen, saveCmd := some c.tag
                       saveTo := if a ≠ 0 then a else if hostAssisted s x.atoll 4 = true then 0 else x.image }))
        ∧ (x.gone = false → x.save = .chosen ∨ (∃ t, x.save = .asked t) ∨ (∃ t, x.save = .writing t) →
            exec .ctxPreempt s = .next (withCtx (tookCommand s) n
              { x with saveCmd := some c.tag, saveTo := if a = 0 then x.saveTo else a }))
        ∧ (x.gone = false → x.save = .none → a = 0 → x.image = 0 → hostAssisted s x.atoll 4 = false → commandRefused .ctxPreempt s c (-5))
        ∧ (x.gone = false → x.save = .saved → isSealed s x.saveTo = false → commandRefused .ctxPreempt s c (-8))
        ∧ (x.gone = false → x.save = .saved → isSealed s x.saveTo = true → a = 0 ∨ a = x.saveTo →
            commandDone .ctxPreempt s (withCtx (tookCommand s) n { x with gone := true }) c 0 [imageWord s x.saveTo 8])
        ∧ (x.gone = false → x.save = .saved → isSealed s x.saveTo = true → a ≠ 0 →
            a + 0x9800 ≤ x.saveTo ∨ x.saveTo + 0x9800 ≤ a →
            ∃ v, commandDone .ctxPreempt s v c 0 [imageWord s x.saveTo 8] ∧ v.ctx n = { x with gone := true, saveTo := a }
              ∧ (∀ w, w < 0x1300 → imageWord v a (8 * w) = imageWord s x.saveTo (8 * w))
              ∧ ∀ k, k < a ∨ a + 0x9800 ≤ k → v.byte k = s.byte k)))
  ∧ (∀ (c : Cmd) (s : State), commandTaken s c → c.op = 0x13 → s.wf = true →
    let base := (c.word 2).toNat
    let home := bits c 1 29 24
    let bad := 48 ≤ home ∨ (bits c 1 5 0 = 0 ∧ c.word 5 ≠ 0) ∨ base % 4096 ≠ 0 ∨ 2 ^ 52 ≤ base
    (bad → commandRefused .ctxRestore s c (-2))
    ∧ (¬ bad → (imageWord s base 16).getLsbD 0 = false → commandRefused .ctxRestore s c (-8))
    ∧ (¬ bad → (imageWord s base 16).getLsbD 0 = true → atollOfImage s base = none ∨ atollOfImage s base = some (bits c 1 18 16) →
        savedTo s base = none → (∀ m, (s.ctx m).save ≠ .restoring) →
        (∀ code, placeFault s c code → commandRefused .ctxRestore s c code)
        ∧ ((∀ code, ¬ placeFault s c code) → noReopening s base → hostAssisted s (bits c 1 18 16) 5 = false →
            ∀ n slot, lowestFree s n → seat s home slot →
            ∃ v, restored s v base n slot ∧ v.mem = s.mem ∧ (∀ m, m ≠ n → v.ctx m = s.ctx m)
              ∧ (v.ctx n).live = true ∧ (v.ctx n).fn = bits c 1 5 0 ∧ (v.ctx n).fslot = bits c 1 11 8
              ∧ (v.ctx n).atoll = bits c 1 18 16 ∧ (v.ctx n).home = home ∧ (v.ctx n).xroot = bits c 4 51 13 * 2 ^ 13
              ∧ (v.ctx n).save = .none ∧ (v.ctx n).gone = false
              ∧ let z := match (v.ctx n).steward with | some k => settle k v | none => v
                ∃ u w, exec .ctxRestore s = .next u ∧ repliesWith z u 0x13 c.tag 0 [BitVec.ofNat 64 n, w]
                  ∧ u = { z with ctxs := u.ctxs, sys := u.sys } ∧ (∀ m, m ≠ n → u.ctx m = z.ctx m)
                  ∧ ∃ d : Bool, u.ctx n = { z.ctx n with active := d, waitFrom := s.sys.dt, saveCmd := none }
                      ∧ (d = true ↔ activeCount s (bits c 1 18 16) < 8))
        ∧ ((∀ code, ¬ placeFault s c code) → hostAssisted s (bits c 1 18 16) 5 = true → ∀ n, lowestFree s n →
            (∀ a ∈ s.sys.asks, a.code = 0x84 → a.what ≠ n) →
            ∃ u, exec .ctxRestore s = .next u ∧ (u.ctx n).live = true ∧ (u.ctx n).save = .restoring ∧ (u.ctx n).saveTo = base
              ∧ (u.ctx n).steward = none ∧ requested s u 0x84 n [BitVec.ofNat 64 (n + 256)])))
  ∧ (∀ (c : Cmd) (s : State), commandTaken s c → c.op = 0x21 →
    let n := (c.word 1).toNat
    let va := (c.word 2).toNat
    let new := (c.word 3).toNat
    let page := 2 ^ 40 * n + va / 65536
    (¬ exists_ s n → commandRefused .migrate s c (-4))
    ∧ (exists_ s n → hostAssisted s (s.ctx n).atoll 1 = false → commandRefused .migrate s c (-5))
    ∧ (exists_ s n → hostAssisted s (s.ctx n).atoll 1 = true → 2 ^ 56 ≤ va ∨ leafOf s n va = none → commandRefused .migrate s c (-2))
    ∧ ∀ x, exists_ s n → hostAssisted s (s.ctx n).atoll 1 = true → va < 2 ^ 56 → leafOf s n va = some x → pinned s x.old x.size = false →
        inMove s x.old x.size = false → (s.migration page).live = false → takesPage s (s.ctx n).atoll new x.old x.size = true →
        ∃ u m, exec .migrate s = .next u ∧ onlyMigration s u page m ∧ m.live = true ∧ m.old = x.old ∧ m.new = new ∧ m.size = x.size
          ∧ m.cmd = some c.tag ∧ m.optimistic = false ∧ u.sys.svcci = (s.sys.svcci + 1) % 2 ^ 32
          ∧ (soundMove m → copiedLines s u m ((List.range (m.size / 256)).map (m.old / 256 + ·))))
  ∧ (∀ (c : Cmd) (s : State), commandTaken s c → c.op = 0x22 →
    (tokensByHost s = false → commandRefused .tokens s c (-5))
    ∧ (tokensByHost s = true →
        ∃ u, exec .tokens s = .next u ∧ repliesWith s u 0x22 c.tag 0 [] ∧ u.sys.nextBudget = (c.word 1).toNat
          ∧ u = { s with sys := u.sys }))
  ∧ (∀ (c : Cmd) (s : State), commandTaken s c → c.op = 0x23 →
    let a := bits c 1 2 0
    let n := bits c 1 13 8
    let g := [bits c 2 5 0, bits c 2 11 8, bits c 2 19 16, bits c 2 30 24, bits c 2 35 32]
    let x := s.ctx n
    (¬ ((s.atoll a).live = true ∧ ofAtoll s a n) → commandRefused .grants s c (-4))
    ∧ ((s.atoll a).live = true → ofAtoll s a n → hostAssisted s a 2 = false → commandRefused .grants s c (-5))
    ∧ ((s.atoll a).live = true → ofAtoll s a n → hostAssisted s a 2 = true → grantOk x.tide.kc g = false → commandRefused .grants s c (-2))
    ∧ ((s.atoll a).live = true → ofAtoll s a n → hostAssisted s a 2 = true → grantOk x.tide.kc g = true →
        ∃ u, exec .grants s = .next u ∧ repliesWith s u 0x23 c.tag 0 [] ∧ (u.ctx n).tide.grant = g.set 1 (x.tide.demand.getD 1 0)
          ∧ (u.ctx n).tide.demand = x.tide.demand
          ∧ (u.ctx n).tide.allocated = true ∧ (∀ m, m ≠ n → u.ctx m = s.ctx m) ∧ u.mem = s.mem ∧ u.threads = s.threads))
  ∧ ∀ (c : Cmd) (s : State), commandTaken s c → c.op = 0x20 →
    let tag := bits c 1 15 0
    let v := (c.word 2).toNat
    ((∀ r ∈ s.sys.asks, r.tag ≠ tag) → commandRefused .reply s c (-4))
    ∧ ∀ r, s.sys.asks.find? (fun r => r.tag == tag) = some r → (∀ i, 3 ≤ i → i < 8 → c.word i = 0) →
        (r.code = 0x83 → v ≠ 0 → v % 4096 = 0 → v < 2 ^ 52 → ∀ since, (s.ctx r.what).save = .asked since →
          ∃ u, exec .reply s = .next u ∧ repliesWith s u 0x20 c.tag 0 [] ∧ (u.ctx r.what).saveTo = v
            ∧ u.sys.asks = s.sys.asks.erase r ∧ ∀ m, m ≠ r.what → u.ctx m = s.ctx m)
        ∧ (r.code = 0x80 → v < 3 → ∀ k mask, (s.fault r.what).live = true → (s.fault r.what).who = .lanes k mask → r.what < s.fl.next →
            let d := s.die (s.fault r.what).die
            (d.restart = false → d.handover = false → ∃ u, exec .reply s = .next u ∧ u.fault r.what = {})
            ∧ (d.restart = true ∨ d.handover = true → commandWaits .reply s c))
        ∧ (r.code = 0x84 → v ≠ 0 → v % 8 = 0 → v < 2 ^ 56 → (s.ctx r.what).save ≠ .none → (∀ m, (s.ctx m).save ≠ .restoring) →
            ∃ u, exec .reply s = .next u ∧ repliesWith s u 0x20 c.tag 0 [] ∧ (u.ctx r.what).cntTo = v
              ∧ u.sys.asks = s.sys.asks.erase r ∧ ∀ m, m ≠ r.what → u.ctx m = s.ctx m)

end

/-- Commands of the mailbox act and answer. -/
def Obligations.CommandsAct : Prop :=
  Sys2Proof.Claims.AtollCommands ∧ Sys2Proof.Claims.ContextCommands
    ∧ Sys2Proof.Claims.ServiceCommands

namespace Sys2Proof.Claims

open Sys2Proof.Machine Sys2Proof.Safety

/-! ### Live update and attestation -/

/-- A PLDM command can be served: a session is open, and die 0's pair neither restarts nor is handed over (R424, R429, R431). -/
def updateServed (s : State) : Prop := s.sys.spdm.session = 2 ∧ (s.die 0).restart = false ∧ (s.die 0).handover = false

/-- The update takes a state and a response goes out; every die's firmware record becomes what `f` makes of it; nothing else
changes. -/
def updateTo (i : Instr) (s : State) (p : Pldm) (cmd status : Nat) (data : List Nat) (f : Firmware → Firmware) : Prop :=
  ∃ u, exec i s = .next u
    ∧ u.sys = { s.sys with pldm := p, staged := u.sys.staged, running := u.sys.running, out := s.sys.out ++ [.pldm cmd status data] }
    ∧ u = { s with dies := u.dies, sys := u.sys }
    ∧ ∀ d, d < 4 → u.die d = { s.die d with fw := f (s.die d).fw }

/-- What the image of an update must be (R430). -/
def imageGood (s : State) (i : Image) : Prop :=
  i.signed = true ∧ i.key = s.sys.imageKey ∧ ∀ d, d < 4 → (s.die d).fw.arctr ≤ i.svn ∧ (s.die d).fw.major = i.major

/-- Every die runs the image of the last activation, which has not been committed. -/
def onNewImage (s : State) : Prop :=
  ∀ d, d < 4 → (s.die d).fw.state = 0 ∧ (s.die d).fw.switched = true ∧ (s.die d).fw.pend = true

/-- What a handover had to leave goes on: the mailboxes of the die's contexts, its second-stage faults and its telemetry
(R431). -/
def resumesService (s u : State) (d : Nat) : Prop :=
  (∀ n b, (s.ctx n).live = true → dieOfCluster (s.ctx n).home = d → b < 4 → s.wf = true →
      (u.ctx n).inRing b = ((s.ctx n).inRing b).advance 64)
    ∧ (∀ id f, (id, f) ∈ s.fl.faults → waitsFor f d →
        if hostAssisted s (s.ctx f.ctx).atoll 0 = true then (s.die d).restart = true ∨ ∃ a ∈ u.sys.asks, a.code = 0x80 ∧ a.what = id
        else (∀ a ∈ s.sys.asks, a.code = 0x80 → a.what ≠ id) → isPending u d 0 1)
    ∧ (u.die d).owed = [] ∧ ∀ x ∈ (s.die d).owed, x < 2 ^ 16 → ∃ q v, Sent.telemetry d q x v ∈ u.sys.out

/-- A die is the lowest that is in no handover. -/
def answersFor (s : State) (d : Nat) : Prop := d < 4 ∧ (s.die d).handover = false ∧ ∀ e, e < d → (s.die e).handover = true

/-- An SPDM response goes out with some data, and the connection becomes `c`; nothing else changes. -/
def attestsTo (i : Instr) (s : State) (c : Spdm) (code : Nat) (P : List Nat → Prop) : Prop :=
  ∃ u data, exec i s = .next u ∧ P data
    ∧ u = { s with fresh := u.fresh, sys := { s.sys with spdm := c, out := s.sys.out ++ [.spdm code 0 data] } }

/-- A request out of its order is an error and changes nothing else. -/
def attestError (i : Instr) (s : State) (code : Nat) : Prop :=
  exec i s = .next { s with sys := { s.sys with out := s.sys.out ++ [.spdm 0x7F code []] } }

end Sys2Proof.Claims

section
open Classical
open Sys2Proof Sys2Proof.Machine Sys2Proof.Safety Sys2Proof.Claims

/-- An update runs through its states in order: a second request is ALREADY_IN_UPDATE_MODE; an image is staged on every
die only where its signature, by the key of the configuration record, its SVN and its PROTOMAJ pass, and else nothing is
staged; activation needs every die STAGED; a cancellation unstages (R429, R430). The codes of PLDM and the states of an
update are the model's (log entry 42). -/
def Sys2Proof.Claims.UpdatesStageVerifiedImages : Prop :=
  ∀ s : State, updateServed s →
  (updateTo .queryDeviceIdentifiers s s.sys.pldm 0x01 0 [] id)
  ∧ (updateTo .getFirmwareParameters s s.sys.pldm 0x02 0 [(s.die 0).fw.version, if s.sys.pldm = .idle then 0 else s.sys.staged.version] id)
  ∧ ((s.sys.pldm = .idle → updateTo .requestUpdate s .learn 0x10 0 [] id)
      ∧ (s.sys.pldm ≠ .idle → updateTo .requestUpdate s s.sys.pldm 0x10 0x81 [] id))
  ∧ (s.sys.pldm = .learn → updateTo .passComponentTable s .ready 0x13 0 [] id)
  ∧ (s.sys.pldm = .ready → updateTo .updateComponent s .download 0x14 0 [] fun f => { f with state := 1 })
  ∧ (∀ off len, s.sys.pldm = .download → 1 ≤ len → len ≤ 4096 → updateTo (.requestFirmwareData off len) s .download 0x15 0 [off, len] id)
  ∧ (s.sys.pldm = .download → updateTo .transferComplete s .verify 0x16 0 [] id)
  ∧ (∀ i : Image, s.sys.pldm = .verify →
      (imageGood s i → updateTo (.verifyComplete i) s .apply 0x17 0 [] fun f =>
        { f with state := 2, newSvn := i.svn, newMinor := i.minor, newMajor := i.major, newVersion := i.version, newDigest := i.digest })
      ∧ (¬ imageGood s i → updateTo (.verifyComplete i) s .ready 0x17 1 [] fun f => { f with state := 0 }))
  ∧ (s.sys.pldm = .apply → updateTo .applyComplete s .ready 0x18 0 [] id)
  ∧ (s.sys.pldm = .ready →
      ((∀ d, d < 4 → (s.die d).fw.state = 2) → updateTo .activateFirmware s .activate 0x1A 0 [] fun f => { f with switched := false })
      ∧ (¬ (∀ d, d < 4 → (s.die d).fw.state = 2) → updateTo .activateFirmware s .ready 0x1A 0x85 [] id))
  ∧ (∃ p, updateTo .getStatus s s.sys.pldm 0x1B 0 [p, (s.die 0).fw.state, (s.die 1).fw.state, (s.die 2).fw.state, (s.die 3).fw.state] id)
  ∧ (s.sys.pldm = .download ∨ s.sys.pldm = .verify ∨ s.sys.pldm = .apply →
      updateTo .cancelUpdateComponent s .ready 0x1C 0 [] fun f => if f.state = 1 ∨ f.state = 2 then { f with state := 0 } else f)
  ∧ (s.sys.pldm ≠ .idle → s.sys.pldm ≠ .activate →
      updateTo .cancelUpdate s .idle 0x1D 0 [] fun f => if f.state = 1 ∨ f.state = 2 then { f with state := 0 } else f)

/-- Dies are handed over one at a time, in ascending order: HANDOVER, VERIFY, then the new image with ACTIVE switched
and PENDCOMMIT set, within 5 ms; a failure leaves the old bank, STATE FAILED and the update stopped; either way what the
die had to leave goes on. Once every die has run the new image for 60 s, ARCTR rises to its SVN and PENDCOMMIT is
cleared (R431, R433, R437). -/
def Sys2Proof.Claims.DiesAreHandedOver : Prop :=
  (∀ (d : Nat) (s : State), d < 4 → s.sys.pldm = .activate → (s.die d).fw.state = 2 → (s.die d).restart = false →
    (∀ e, e < d → (s.die e).fw.state = 0 ∧ (s.die e).fw.switched = true) →
    ∃ u, exec (.dieHandover d) s = .next u
      ∧ u = { s with dies := put {} s.dies d { s.die d with fw := { (s.die d).fw with state := 3, since := s.sys.dt } } })
  ∧ (∀ (d : Nat) (s : State), d < 4 → (s.die d).fw.state = 3 → s.sys.dt ≤ (s.die d).fw.since + 5000000 → s.wf = true →
    ∃ u, exec (.dieHandover d) s = .next u ∧ (u.die d) = { s.die d with fw := { (s.die d).fw with state := 4 } }
      ∧ (∀ e, e ≠ d → u.die e = s.die e) ∧ (∀ i, i < 5 → u.thread (harbourKey d i) = {}) ∧ u.mem = s.mem ∧ u.ctxs = s.ctxs
      ∧ ∀ k, (∀ i, i < 5 → k ≠ harbourKey d i) → u.thread k = s.thread k)
  ∧ (∀ (d : Nat) (s : State), d < 4 → (s.die d).fw.state = 4 → s.sys.dt ≤ (s.die d).fw.since + 5000000 →
    let f := (s.die d).fw
    ∃ u, exec (.dieHandover d) s = .next u ∧ u.mem = s.mem ∧ u.threads = s.threads
      ∧ (∀ e, e ≠ d → untold (u.die e) = untold (s.die e)) ∧ resumesService s u d
      ∧ (let g := (u.die d).fw
         g.state = 0 ∧ g.bank = 1 - f.bank ∧ g.pend = true ∧ g.switched = true ∧ g.svn = f.newSvn ∧ g.minor = f.newMinor ∧ g.major = f.newMajor
          ∧ g.version = f.newVersion ∧ g.digest = f.newDigest ∧ g.arctr = f.arctr)
      ∧ (d = 3 → u.sys.pldm = .idle ∧ u.sys.running = s.sys.dt) ∧ (d ≠ 3 → u.sys.pldm = s.sys.pldm ∧ u.sys.running = s.sys.running))
  ∧ (∀ (d : Nat) (s : State), d < 4 → (s.die d).handover = true → s.wf = true →
    let f := (s.die d).fw
    ∃ u, exec (.handoverFailure d) s = .next u ∧ (u.die d).fw = { f with state := 5, since := s.sys.dt } ∧ u.sys.pldm = .idle
      ∧ (∀ e, e ≠ d → untold (u.die e) = untold (s.die e)) ∧ u.mem = s.mem ∧ resumesService s u d ∧ ∀ i, i < 5 → u.thread (harbourKey d i) = {})
  ∧ (∀ s : State, onNewImage s → s.sys.running + 60000000000 ≤ s.sys.dt →
    ∃ u, exec .updateCommit s = .next u
      ∧ u = { s with dies := u.dies, fresh := u.fresh, sys := { s.sys with baseCtr := u.sys.baseCtr } } ∧ s.sys.baseCtr ≤ u.sys.baseCtr
      ∧ ∀ d, d < 4 → u.die d = { s.die d with fw := { (s.die d).fw with arctr := max (s.die d).fw.arctr (s.die d).fw.svn, pend := false } })
  ∧ ∀ s : State, ¬ (onNewImage s ∧ s.sys.running + 60000000000 ≤ s.sys.dt) →
    exec .updateCommit s = .next s

/-- SPDM requests are answered in their order, for version 1.3 with the algorithms of R434, by the lowest die in no
handover; a measurement report has one entry for each die with its STATE, versions, digests, ACTIVE and PENDCOMMIT, both
images of a die that is in handover, and waits for a die whose pair restarts (R424, R434, R435). The codes of SPDM are
the model's (log entry 42); certificates, digests and signatures are open. -/
def Sys2Proof.Claims.DevicesAttest : Prop :=
  ∀ (s : State) (d : Nat), answersFor s d → (s.die d).restart = false →
  let c := s.sys.spdm
  (attestsTo .getVersion s { version := true } 0x04 fun data => data = [0x13])
  ∧ (c.version = true → attestsTo .getCapabilities s { c with caps := true } 0x61 fun data => data = [])
  ∧ (c.version = false → attestError .getCapabilities s 4)
  ∧ (c.caps = true → attestsTo .negotiateAlgorithms s { c with algs := true } 0x63 fun data => data = [65, 256, 768, 256])
  ∧ (c.algs = true →
      (attestsTo .getDigests s c 0x01 fun _ => True)
      ∧ (∀ off len, attestsTo (.getCertificate 0 off len) s c 0x02 fun data => data.take 2 = [off, len])
      ∧ (∀ slot off len, slot ≠ 0 → attestError (.getCertificate slot off len) s 1)
      ∧ attestsTo (.challenge 0) s c 0x03 (fun _ => True) ∧ (∀ slot, slot ≠ 0 → attestError (.challenge slot) s 1)
      ∧ ((∃ e, e < 4 ∧ (s.die e).restart = true) → exec .getMeasurements s = .next s)
      ∧ ((∀ e, e < 4 → (s.die e).restart = false) → attestsTo .getMeasurements s c 0x60 fun data =>
          ∃ entries : List (List Nat), ∃ sig, data = d :: entries.flatten ++ sig ∧ entries.length = 4
            ∧ ∀ e, e < 4 → let f := (s.die e).fw
                entries.getD e [] = [e, f.state, f.version, f.svn, f.digest]
                  ++ (if f.state = 3 ∨ f.state = 4 then [f.newVersion, f.newDigest] else []) ++ [f.bank, if f.pend = true then 1 else 0])
      ∧ (c.session = 0 → attestsTo .keyExchange s { c with session := 1 } 0x64 fun _ => True))
  ∧ (c.algs = false → attestError .getDigests s 4 ∧ attestError .keyExchange s 4
      ∧ ((∀ e, e < 4 → (s.die e).restart = false) → attestError .getMeasurements s 4))
  ∧ (c.session = 1 → attestsTo .finish s { c with session := 2 } 0x65 fun data => data = [])
  ∧ (c.session = 2 → attestsTo .endSession s { c with session := 0 } 0x6C fun data => data = [])

end

/-- Updates stage verified images, dies are handed over to new ones, and a device attests. -/
def Obligations.UpdatesAreSafe : Prop :=
  Sys2Proof.Claims.UpdatesStageVerifiedImages ∧ Sys2Proof.Claims.DiesAreHandedOver
    ∧ Sys2Proof.Claims.DevicesAttest

namespace Sys2Proof.Claims

open Sys2Proof.Machine Sys2Proof.Safety

/-! ### Resets -/

/-- Nothing of a context runs any more: its threads but, where `all` is false, those on an SCC are gone, its workgroups too,
and every launch that was incomplete is ended with KILLED set and DONE clear (R348). -/
def stoppedWhole (all : Bool) (s u : State) (n : Nat) : Prop :=
  (∀ k, (s.thread k).live = true → (s.thread k).engine ≠ .harbour → (all = true ∨ (s.thread k).engine ≠ .scc) → (s.thread k).ctx = n →
      u.thread k = {})
    ∧ (∀ g, (s.wg g).live = true → (s.wg g).ctx = n → u.wg g = {})
    ∧ ∀ i, (look {} (s.ctx n).launches i).open_ = true →
        (look {} (u.ctx n).launches i).open_ = false ∧ (look {} (u.ctx n).launches i).killed = true
          ∧ (look {} (u.ctx n).launches i).done = false

/-- A context after the forced reset of R348, as far as it is its own: no steward, no save, no held row. -/
def stewardless (u : State) (n : Nat) : Prop :=
  (u.ctx n).steward = none ∧ (u.ctx n).save = .none ∧ ∀ h, (look {} (u.ctx n).rows h).state ≠ .held

/-- A key of a cluster's Lagoon slice. -/
def inSlice (cl k : Nat) : Prop := lagoonKey cl 0 ≤ k ∧ k < lagoonKey (cl + 1) 0

/-- A key of a page of device memory that has been written since the last cold reset. -/
def everWritten (s : State) (k : Nat) : Prop := k / 65536 ∈ keysOf s.ca.versions

/-- An atoll owns a cluster of a die. -/
def atollOn (s : State) (a d : Nat) : Prop :=
  (∃ x, (a, x) ∈ s.atolls) ∧ ∃ cl, cl < 48 ∧ dieOfCluster cl = d ∧ (s.atoll a).clusters.testBit cl = true

/-- Nothing runs, and no context or atoll exists. -/
def bareMachine (u : State) : Prop :=
  u.threads = [] ∧ u.ctxs = [] ∧ u.cores = [] ∧ u.atolls = [] ∧ u.wgs = [] ∧ u.fl = {} ∧ u.fcq = []

/-- A level of a RESET command. -/
def resetTo (s : State) (c : Cmd) (level : Nat) : Prop := commandTaken s c ∧ c.op = 0x18 ∧ bits c 1 2 0 = level

/-- What the configuration record gives at power-on (R436, R437). -/
def recordRead (r : ConfigRecord) (s u : State) : Prop :=
  if r.signed = true ∧ s.sys.recCtr ≤ r.svn then
    u.sys.recovery = false ∧ u.sys.impl = r.impl % 256 ∧ u.sys.stepping = r.stepping % 256 ∧ u.sys.budget = r.budget
      ∧ u.sys.defBudget = r.budget ∧ u.sys.coreMap = r.coreMap ∧ u.sys.imageKey = r.imageKey
  else u.sys.recovery = true ∧ u.sys.coreMap = s.sys.coreMap ∧ u.sys.imageKey = s.sys.imageKey

end Sys2Proof.Claims

section
open Classical
open Sys2Proof Sys2Proof.Machine Sys2Proof.Safety Sys2Proof.Claims

/-- A core's reset ends every launch of the contexts on it and clears its array, checkpoint owner and L1; a cluster's also resets
each context with a thread in its SCC and its Lagoon slice, and abandons its copies; an atoll's every context of it, its L2 and
its dispatcher (R439). Bytes whose L2 copies are dropped are left open; no other byte of device memory changes. -/
def Sys2Proof.Claims.EnginesAreReset : Prop :=
  (∀ (core : Nat) (s : State), core < 768 →
    ∃ u, exec (.coreReset core) s = .next u ∧ u.mem = s.mem ∧ u.core core = { freezes := (s.core core).freezes }
      ∧ (∀ n g, (s.wg g).live = true → (s.wg g).core = core → (s.wg g).ctx = n → stoppedWhole false s u n)
      ∧ (∀ ctx va, ctx < 64 → va < 2 ^ 56 → look {} u.ca.l1 (l1Key core ctx va) = {})
      ∧ ∀ k, (∀ g, (s.wg g).live = true → (s.wg g).core = core → (s.thread k).ctx ≠ (s.wg g).ctx) → s.wf = true →
          u.thread k = s.thread k)
  ∧ (∀ (cl : Nat) (s : State), cl < 48 →
    ∃ u, exec (.clusterReset cl) s = .next u
      ∧ (∀ k, (s.thread k).live = true → (s.thread k).engine = .scc → (s.thread k).core = cl →
          stoppedWhole true s u (s.thread k).ctx ∧ stewardless u (s.thread k).ctx)
      ∧ (∀ k, u.byte k = if inSlice cl k then 0 else s.byte k)
      ∧ ∀ i, (s.copy i).live = true → (s.copy i).cluster = cl → (u.copy i).live = true → (u.copy i).abandoned = true)
  ∧ (∀ (c : Cmd) (s : State), commandTaken s c → c.op = 0x18 → bits c 1 2 0 < 4 → commandRefused .resetAtoll s c (-2))
  ∧ ∀ (c : Cmd) (s : State), resetTo s c 4 →
    let a := bits c 1 10 8
    ((s.atoll a).live = false → commandRefused .resetAtoll s c (-4))
    ∧ ((s.atoll a).live = true →
        ∃ v, commandDone .resetAtoll s v c 0 [] ∧ (∀ n, ofAtoll s a n → stoppedWhole true s v n ∧ stewardless v n)
          ∧ ((∀ p ∈ keysOf s.ca.versions, p < 2 ^ 36) → ∀ cl k, cl < 48 → (s.atoll a).clusters.testBit cl = true → inSlice cl k → v.byte k = 0)
          ∧ (∀ k, k < 2 ^ 60 → ¬ everWritten s k → v.byte k = s.byte k)
          ∧ v.atoll a = { s.atoll a with turn := 0, rotation := none, apch :=
              ((List.range 1536).filter fun i => (s.atoll a).groups.testBit (i / 32) && look .serving s.sys.channels i != .retired).length }
          ∧ ∀ b, b ≠ a → v.atoll b = s.atoll b)

/-- A die's reset resets every atoll that owns a cluster of it and its Harbour, which boots from the active bank, with die 0 the
PF's registers and rings and the SPDM connection; the package's
keeps device time and flash and leaves nothing running, no context and no atoll, and a cold one clears memory too. There and at
power-on the configuration record is in force if its signature and SVN pass, and else the package is in recovery mode; an update
of the record raises its counter (R433, R436, R437, R439). -/
def Sys2Proof.Claims.PackageIsReset : Prop :=
  (∀ (c : Cmd) (s : State), resetTo s c 5 →
    let d := bits c 1 10 8
    (4 ≤ d → commandRefused .resetDie s c (-2))
    ∧ (d < 4 →
        ∃ v, commandDone .resetDie s v c 0 []
          ∧ (∀ a n, atollOn s a d → ofAtoll s a n → stoppedWhole true s v n ∧ stewardless v n)
          ∧ (∀ i, i < 5 → v.thread (harbourKey d i) = {})
          ∧ v.die d = { fw := { (s.die d).fw with state := 0, since := s.sys.dt }, kickAt := s.sys.dt, hpend := (v.die d).hpend
                        faultSeq := (s.die d).faultSeq, teleSeq := (s.die d).teleSeq }
          ∧ v.sys.running = s.sys.dt ∧ v.sys.dt = s.sys.dt
          ∧ (s.sys.pldm = .activate → (s.die d).fw.switched = false → v.sys.pldm = .idle)
          ∧ (d ≠ 0 → (v.die d).hpend = [] ∧ v.sys.fncfg = s.sys.fncfg ∧ v.sys.atollmode = s.sys.atollmode ∧ v.sys.spdm = s.sys.spdm)
          ∧ (d = 0 → v.sys.fncfg = [] ∧ v.sys.atollmode = [] ∧ v.sys.spdm = {} ∧ v.sys.svcpi = 0 ∧ v.sys.svrpi = v.sys.svrci)
          ∧ ∀ k, k < 2 ^ 60 → ¬ everWritten s k → v.byte k = s.byte k))
  ∧ (∀ (c : Cmd) (s : State), resetTo s c 6 →
    ∃ u, exec .resetPackageWarm s = .next u ∧ bareMachine u ∧ u.sys.dt = s.sys.dt ∧ u.sys.recCtr = s.sys.recCtr
      ∧ u.sys.svcpi = 0 ∧ u.sys.svrpi = 0 ∧ u.sys.fncfg = [] ∧ u.sys.pldm = .idle ∧ u.sys.spdm = {}
      ∧ (∀ cl k, cl < 48 → inSlice cl k → u.byte k = 0)
      ∧ (∀ k, (∀ cl, cl < 48 → ¬ inSlice cl k) → ¬ everWritten s k → u.byte k = s.byte k)
      ∧ ∀ d, d < 4 → (u.die d).fw = { (s.die d).fw with state := 0, since := s.sys.dt } ∧ (u.die d).restart = false)
  ∧ (∀ (c : Cmd) (s : State), resetTo s c 7 →
    ∃ u, exec .resetPackageCold s = .next u ∧ bareMachine u ∧ u.clusters = [] ∧ u.poison = [] ∧ u.ca = {}
      ∧ recordRead s.sys.record s u ∧ u.sys.recCtr = s.sys.recCtr ∧ u.sys.svcpi = 0 ∧ u.sys.svrpi = 0
      ∧ (∀ k, k < 2 ^ 61 → u.byte k = 0) ∧ (∀ k, 2 ^ 61 ≤ k → u.byte k = s.byte k)
      ∧ ∀ d, d < 4 → (u.die d).fw = { (s.die d).fw with state := 0, since := u.sys.dt } ∧ (u.die d).teleSeq = 0)
  ∧ (∀ (r : ConfigRecord) (s : State), updateServed s →
    (r.signed = true → s.sys.recCtr ≤ r.svn →
      ∃ u, happen (.recordUpdate r) s = .next u ∧ s.sys.baseCtr ≤ u.sys.baseCtr
        ∧ u = { s with fresh := u.fresh, sys := { s.sys with record := r, recCtr := r.svn, baseCtr := u.sys.baseCtr } })
    ∧ (¬ (r.signed = true ∧ s.sys.recCtr ≤ r.svn) → happen (.recordUpdate r) s = .next s))
  ∧ ∀ (r : ConfigRecord) (s : State),
    ∃ u, exec (.powerOn r) s = .next u ∧ bareMachine u ∧ recordRead r s u ∧ u.sys.recCtr = s.sys.recCtr
      ∧ u.sys.record = r ∧ u.clusters = [] ∧ (∀ k, k < 2 ^ 61 → u.byte k = 0)
      ∧ ∀ d, d < 4 → (u.die d).fw = { (s.die d).fw with state := 0, since := u.sys.dt }

end

/-- The resets of engines, atolls, dies and the package leave what R439 says. -/
def Obligations.ResetsAct : Prop :=
  Sys2Proof.Claims.EnginesAreReset ∧ Sys2Proof.Claims.PackageIsReset

namespace Sys2Proof.Claims

open Sys2Proof.Machine Sys2Proof.Safety

/-! ### Reset, decoding and steps -/

/-- The group traps with a cause and detail, and its lanes stop (R51, R361). -/
def groupTraps (s u : State) (iss : Issue) (c : Cause) (d : W64) : Prop :=
  stopsGroup s u iss c d ∧ u.mem = s.mem ∧ bare (u.thread iss.thr).regs = bare (s.thread iss.thr).regs
    ∧ ∀ j, j ≠ iss.thr → u.thread j = s.thread j

end Sys2Proof.Claims

section
open Classical
open Sys2Proof Sys2Proof.Machine Sys2Proof.Safety Sys2Proof.Claims

/-- An unassigned opcode point traps UNDEF for its group; so does an instruction on an engine that may not run it, and one below
its lowest level traps PRIV (R12, R29, R35, R50, R51, R53). -/
def Obligations.DecodeTraps : Prop :=
  (∀ (w : W64) (s : State) (iss : Issue), s.cur = some iss → (s.thread iss.thr).episode = none → plainGroup s iss → iss.lanes ≠ 0 →
    ∃ u, leaves (.unassignedOpcode w) s iss.thr u ∧ groupTraps s u iss .undef 0)
  ∧ (∀ (f : FY) (s : State) (iss : Issue), s.cur = some iss → (s.thread iss.thr).episode = none → plainGroup s iss → iss.lanes ≠ 0 →
    (s.thread iss.thr).engine = .core → (s.thread iss.thr).level = .kernel →
    (∃ u, leaves (.halt f) s iss.thr u ∧ groupTraps s u iss (if f.imm.toNat % 256 = 0 then .undef else .priv) 0)
    ∧ (∃ u, leaves (.dbgrd f) s iss.thr u ∧ groupTraps s u iss .priv 0)
    ∧ ∃ u, leaves (.launch f) s iss.thr u ∧ ∃ c, groupTraps s u iss c 0 ∧ (c = .undef ∨ c = .priv))
  ∧ ∀ (s : State) (iss : Issue) (sh : Shape), let t := s.thread iss.thr
    (t.engine ∉ sh.engines ∨ sh.undef = true → decodeTrap s iss sh = some (.undef, 0))
    ∧ (t.engine ∈ sh.engines → sh.undef = false → t.level.rank < sh.level.rank → decodeTrap s iss sh = some (.priv, 0))

/-- A machine after package cold reset: device time 0, no thread, context or atoll, every register at the value that the spec
gives it (R17, R413, R427, R439), memory with nothing listed and in its canonical form. -/
def Obligations.ResetValues : Prop :=
  let s := State.reset
  s.wf = true ∧ s.sys.dt = 0 ∧ bareMachine s ∧ s.mem = []
    ∧ (∀ cl, cl < 48 → harbourRead s (dieOfCluster cl) (0x10000 + 0x100 * cl) = 0x20100)
    ∧ (∀ d, d < 4 → harbourRead s d 0x20000 = 0x6E5F5A ∧ harbourRead s d 0x20200 = 0x07D027100000
        ∧ (∀ a, a < 8 → harbourRead s d (0x20100 + 8 * a) = 0x03E800000064) ∧ ∀ i, i < 5 → harbourRead s d (8 * i) = 0)
    ∧ (∀ a, a < 8 → harbourRead s 0 (0x50500 + 8 * a) = 0 ∧ harbourRead s 0 (0x50400 + 8 * a) = 0)
    ∧ (let c : Ctx := {}
       c.lease = 512 ∧ c.rowq = 0 ∧ c.rowpol = 0 ∧ c.trapvec = 0 ∧ c.fringWord = 4 ∧ c.xroot = 0 ∧ c.istat = 0 ∧ c.imask = 0
        ∧ c.frpi = 0 ∧ c.frci = 0 ∧ c.deadline = 100)

/-- A step with an issue in hand fetches the word at its place, decodes it, and is `exec` of the instruction there; but for
that, only a TLB fill, the leaf's A bit and their counts come between (R28, R53, R75, R107, R370). The second word of `SLI` is
read where the block has one. A word that decodes to nothing
is an unassigned point. -/
def Obligations.StepRunsDecoded : Prop :=
  ∀ (s : State) (iss : Issue) (rest : List Issue) (w ext : W64), s.fcq = iss :: rest → stillThere s iss = iss.lanes → iss.lanes ≠ 0 →
  let t := s.thread iss.thr
  let more := longWord w = true ∧ hasNextWord s iss = true
  fetch s t iss.pc = .ok w → t.seq = none → (if more then fetch s t (iss.pc + 8) = .ok ext else ext = 0) →
  ∃ v, v.cur = some { iss with lat := latencyOf w t.width (s.cluster t.cluster).ratio } ∧ v.pre = s.pre
    ∧ tookPages (whoOf t) false (if more then [iss.pc.toNat, (iss.pc + 8).toNat] else [iss.pc.toNat]) { s with fcq := rest } v
    ∧ (∀ i, decode w ext = some i → step s = exec i v ∧ (longWord w = true ↔ i.length = 16))
    ∧ (decode w ext = none → step s = exec (.unassignedOpcode w) v)

/-- Words that chapters 15 and 16 of the spec write out decode to their instructions (R354, R380). -/
def Obligations.SpecWordsDecode : Prop :=
  decode 0xD000000000000007 0 = some (.trap { sd := 0, sa := 0, id := 0, imm := 7 })
  ∧ decode 0xD040000000000001 0 = some (.eret { sd := 0, sa := 0, id := 0, imm := 1 })
  ∧ decode 0xD081200820000000 0 = some (.csrr { sd := 9, sa := 0, id := 0x104, imm := 0 })
  ∧ decode 0xD101422280000000 0 = some (.dbgrd { sd := 10, sa := 4, id := 0x450, imm := 0 })
  ∧ decode 0xD241010000000002 0 = some (.freeze { sd := 8, sa := 2, id := 0, imm := 2 })
  ∧ decode 0xD280000000000005 0 = some (.halt { sd := 0, sa := 0, id := 0, imm := 5 })
  ∧ decode 0xC100440000000000 0 = some (.launch { sd := 2, sa := 8, id := 0, imm := 0 })

/-- Decoding the words of a well-formed instruction gives the instruction, with every operand at every value that its encoding
admits (R28, R35 to R47, R53). -/
def Obligations.DecodeOfEncode : Prop :=
  ∀ (i : Instr) (after : W64), i.wellFormed = true →
    match encode i with
    | [] => True
    | [w] => decode w after = some i
    | w :: e :: _ => decode w e = some i

/-- Every step keeps memory and every table of the state in its canonical form: keys rise, and no entry holds what an unlisted
key reads as; so equal contents are equal states. -/
def Obligations.StepKeepsCanonicalForm : Prop :=
  ∀ s t : State, s.wf = true → step s = .next t → t.wf = true

/-- A step ends in a next state: no condition of the spec is without an outcome. -/
def Obligations.EveryStepCompletes : Prop := ∀ s : State, ∃ t, step s = .next t

end
end

