-- ==== Sys2Proof/Laws/Sparse.lean ====
section
/-! SUPPORT. Laws of sparse maps: reading after writing, and the canonical form. -/

namespace Sys2Proof.Machine

variable {α : Type}

@[simp] theorem look_nil (d : α) (n : Nat) : look d [] n = d := rfl

@[simp] theorem look_cons (d v : α) (k n : Nat) (m : Sparse α) :
    look d ((k, v) :: m) n = if k = n then v else look d m n := rfl

theorem look_erase (d : α) (m : Sparse α) (n j : Nat) : look d (erase m n) j = if n = j then d else look d m j := by
  induction m with
  | nil => simp [erase]
  | cons e m ih =>
    obtain ⟨k, v⟩ := e
    simp only [erase]
    split
    · subst_vars; rw [ih]; split
      · rfl
      · rw [look_cons, if_neg (by assumption)]
    · rw [look_cons, look_cons, ih]; split <;> split <;> simp_all

/-- Reading after a write: the value written at its key, elsewhere what stood there. -/
theorem look_put [DecidableEq α] (d : α) (m : Sparse α) (n j : Nat) (x : α) :
    look d (put d m n x) j = if n = j then x else look d m j := by
  induction m with
  | nil => simp only [put]; split <;> split <;> simp_all
  | cons e m ih =>
    obtain ⟨k, v⟩ := e
    simp only [put]
    split
    · subst_vars; rw [ih, look_cons]; split <;> rfl
    · split
      · split
        · rw [look_cons, look_cons, look_erase]; split <;> split <;> simp_all
        · rw [look_cons, look_cons, look_cons, look_erase]; split
          · rfl
          · split <;> rfl
      · rw [look_cons, look_cons, ih]; split <;> split <;> simp_all

@[simp] theorem look_put_self [DecidableEq α] (d : α) (m : Sparse α) (n : Nat) (x : α) : look d (put d m n x) n = x := by
  simp [look_put]

theorem look_put_other [DecidableEq α] (d : α) (m : Sparse α) {n j : Nat} (x : α) (h : n ≠ j) :
    look d (put d m n x) j = look d m j := by
  simp [look_put, h]

/-- A bound may be lowered. -/
theorem wfFrom_mono [DecidableEq α] (d : α) {a b : Nat} (h : a ≤ b) (m : Sparse α) (w : wfFrom d b m = true) :
    wfFrom d a m = true := by
  cases m with
  | nil => rfl
  | cons e m =>
    simp only [wfFrom, Bool.and_eq_true, decide_eq_true_eq] at *
    exact ⟨⟨by omega, w.1.2⟩, w.2⟩

/-- Keys below the bound are not listed. -/
theorem erase_low [DecidableEq α] (d : α) {b n : Nat} (h : n < b) (m : Sparse α) (w : wfFrom d b m = true) :
    erase m n = m := by
  induction m generalizing b with
  | nil => rfl
  | cons e m ih =>
    obtain ⟨k, v⟩ := e
    simp only [wfFrom, Bool.and_eq_true, decide_eq_true_eq] at w
    simp only [erase]
    rw [if_neg (by omega), ih (b := k + 1) (by omega) w.2]

theorem wfFrom_put_low [DecidableEq α] (d : α) {b n : Nat} (x : α) (h : n < b) (m : Sparse α) (w : wfFrom d b m = true) :
    wfFrom d n (put d m n x) = true := by
  cases m with
  | nil => by_cases hx : x = d <;> simp [put, hx, wfFrom]
  | cons e m =>
    obtain ⟨k, v⟩ := e
    have w' := w
    simp only [wfFrom, Bool.and_eq_true, decide_eq_true_eq] at w
    have he : erase m n = m := erase_low d (b := k + 1) (by omega) m w.2
    simp only [put, if_neg (show ¬k = n by omega), if_pos (show n < k by omega), he]
    split
    · exact wfFrom_mono d (by omega) _ w'
    · simp only [wfFrom, Bool.and_eq_true, decide_eq_true_eq]
      exact ⟨⟨by omega, by assumption⟩, ⟨by omega, w.1.2⟩, w.2⟩

/-- A write keeps the canonical form. -/
theorem wfFrom_put [DecidableEq α] (d : α) {b n : Nat} (x : α) (h : b ≤ n) (m : Sparse α) (w : wfFrom d b m = true) :
    wfFrom d b (put d m n x) = true := by
  induction m generalizing b with
  | nil => by_cases hx : x = d <;> simp [put, hx, wfFrom, h]
  | cons e m ih =>
    obtain ⟨k, v⟩ := e
    have w' := w
    simp only [wfFrom, Bool.and_eq_true, decide_eq_true_eq] at w
    by_cases hk : k = n
    · subst hk
      simp only [put, if_true]
      exact wfFrom_mono d h _ (wfFrom_put_low d x (by omega) m w.2)
    · by_cases hn : n < k
      · have he : erase m n = m := erase_low d (b := k + 1) (by omega) m w.2
        simp only [put, if_neg hk, if_pos hn, he]
        split
        · exact w'
        · simp only [wfFrom, Bool.and_eq_true, decide_eq_true_eq]
          exact ⟨⟨h, by assumption⟩, ⟨by omega, w.1.2⟩, w.2⟩
      · simp only [put, if_neg hk, if_neg hn, wfFrom, Bool.and_eq_true, decide_eq_true_eq]
        exact ⟨w.1, ih (by omega) w.2⟩

@[simp] theorem sparseWf_put [DecidableEq α] (d : α) (m : Sparse α) (n : Nat) (x : α) (w : sparseWf d m = true) :
    sparseWf d (put d m n x) = true := wfFrom_put d x (by omega) m w

theorem wfFrom_dropKeys [DecidableEq α] (d : α) (p : Nat → Bool) {b : Nat} (m : Sparse α) (w : wfFrom d b m = true) :
    wfFrom d b (dropKeys p m) = true := by
  induction m generalizing b with
  | nil => rfl
  | cons e m ih =>
    obtain ⟨k, v⟩ := e
    simp only [wfFrom, Bool.and_eq_true, decide_eq_true_eq] at w
    have hm := ih w.2
    simp only [dropKeys, List.filter_cons]
    split
    · simp only [wfFrom, Bool.and_eq_true, decide_eq_true_eq]
      exact ⟨w.1, hm⟩
    · exact wfFrom_mono d (by omega) _ hm

@[simp] theorem sparseWf_dropKeys [DecidableEq α] (d : α) (p : Nat → Bool) (m : Sparse α) (w : sparseWf d m = true) :
    sparseWf d (dropKeys p m) = true := wfFrom_dropKeys d p m w

/-- A dropped key reads as the default, the others as before. -/
theorem look_dropKeys (d : α) (p : Nat → Bool) (m : Sparse α) (n : Nat) :
    look d (dropKeys p m) n = if p n then d else look d m n := by
  induction m with
  | nil => simp [dropKeys]
  | cons e m ih =>
    obtain ⟨k, v⟩ := e
    simp only [dropKeys, List.filter_cons] at *
    by_cases hp : p k <;> by_cases hk : k = n <;> simp_all [look]

end Sys2Proof.Machine
end

