-- ==== Sys2Proof/Laws/State.lean ====
section
/-! SUPPORT. What each update changes and what it leaves: one law per update and part of the state; and how updates and
phases compose. -/

namespace Sys2Proof.Machine

section
variable (k : Nat) (f : Thread → Thread) (s : State)
@[simp] theorem apply_thread_mem : ((Micro.thread k f).apply s).mem = s.mem := rfl
@[simp] theorem apply_thread_poison : ((Micro.thread k f).apply s).poison = s.poison := rfl
@[simp] theorem apply_thread_ctxs : ((Micro.thread k f).apply s).ctxs = s.ctxs := rfl
@[simp] theorem apply_thread_cores : ((Micro.thread k f).apply s).cores = s.cores := rfl
@[simp] theorem apply_thread_clusters : ((Micro.thread k f).apply s).clusters = s.clusters := rfl
@[simp] theorem apply_thread_dies : ((Micro.thread k f).apply s).dies = s.dies := rfl
@[simp] theorem apply_thread_atolls : ((Micro.thread k f).apply s).atolls = s.atolls := rfl
@[simp] theorem apply_thread_wgs : ((Micro.thread k f).apply s).wgs = s.wgs := rfl
@[simp] theorem apply_thread_fl : ((Micro.thread k f).apply s).fl = s.fl := rfl
@[simp] theorem apply_thread_ca : ((Micro.thread k f).apply s).ca = s.ca := rfl
@[simp] theorem apply_thread_sys : ((Micro.thread k f).apply s).sys = s.sys := rfl
@[simp] theorem apply_thread_cur : ((Micro.thread k f).apply s).cur = s.cur := rfl
@[simp] theorem apply_thread_pre : ((Micro.thread k f).apply s).pre = s.pre := rfl
@[simp] theorem apply_thread_fcq : ((Micro.thread k f).apply s).fcq = s.fcq := rfl
@[simp] theorem apply_thread_agenda : ((Micro.thread k f).apply s).agenda = s.agenda := rfl
@[simp] theorem apply_thread_fresh : ((Micro.thread k f).apply s).fresh = s.fresh := rfl
@[simp] theorem apply_thread_at (j : Nat) : ((Micro.thread k f).apply s).thread j = if k = j then f (s.thread k) else s.thread j :=
  look_put _ _ _ _ _
@[simp] theorem apply_thread_ctx (j : Nat) : ((Micro.thread k f).apply s).ctx j = s.ctx j := rfl
@[simp] theorem apply_thread_core (j : Nat) : ((Micro.thread k f).apply s).core j = s.core j := rfl
@[simp] theorem apply_thread_cluster (j : Nat) : ((Micro.thread k f).apply s).cluster j = s.cluster j := rfl
@[simp] theorem apply_thread_die (j : Nat) : ((Micro.thread k f).apply s).die j = s.die j := rfl
@[simp] theorem apply_thread_atoll (j : Nat) : ((Micro.thread k f).apply s).atoll j = s.atoll j := rfl
@[simp] theorem apply_thread_wg (j : Nat) : ((Micro.thread k f).apply s).wg j = s.wg j := rfl
@[simp] theorem apply_thread_op (j : Nat) : ((Micro.thread k f).apply s).op j = s.op j := rfl
@[simp] theorem apply_thread_req (j : Nat) : ((Micro.thread k f).apply s).req j = s.req j := rfl
@[simp] theorem apply_thread_copy (j : Nat) : ((Micro.thread k f).apply s).copy j = s.copy j := rfl
@[simp] theorem apply_thread_fault (j : Nat) : ((Micro.thread k f).apply s).fault j = s.fault j := rfl
@[simp] theorem apply_thread_trap (j : Nat) : ((Micro.thread k f).apply s).trap j = s.trap j := rfl
@[simp] theorem apply_thread_byte (j : Nat) : ((Micro.thread k f).apply s).byte j = s.byte j := rfl
end

section
variable (n : Nat) (f : Ctx → Ctx) (s : State)
@[simp] theorem apply_ctx_mem : ((Micro.ctx n f).apply s).mem = s.mem := rfl
@[simp] theorem apply_ctx_poison : ((Micro.ctx n f).apply s).poison = s.poison := rfl
@[simp] theorem apply_ctx_threads : ((Micro.ctx n f).apply s).threads = s.threads := rfl
@[simp] theorem apply_ctx_cores : ((Micro.ctx n f).apply s).cores = s.cores := rfl
@[simp] theorem apply_ctx_clusters : ((Micro.ctx n f).apply s).clusters = s.clusters := rfl
@[simp] theorem apply_ctx_dies : ((Micro.ctx n f).apply s).dies = s.dies := rfl
@[simp] theorem apply_ctx_atolls : ((Micro.ctx n f).apply s).atolls = s.atolls := rfl
@[simp] theorem apply_ctx_wgs : ((Micro.ctx n f).apply s).wgs = s.wgs := rfl
@[simp] theorem apply_ctx_fl : ((Micro.ctx n f).apply s).fl = s.fl := rfl
@[simp] theorem apply_ctx_ca : ((Micro.ctx n f).apply s).ca = s.ca := rfl
@[simp] theorem apply_ctx_sys : ((Micro.ctx n f).apply s).sys = s.sys := rfl
@[simp] theorem apply_ctx_cur : ((Micro.ctx n f).apply s).cur = s.cur := rfl
@[simp] theorem apply_ctx_pre : ((Micro.ctx n f).apply s).pre = s.pre := rfl
@[simp] theorem apply_ctx_fcq : ((Micro.ctx n f).apply s).fcq = s.fcq := rfl
@[simp] theorem apply_ctx_agenda : ((Micro.ctx n f).apply s).agenda = s.agenda := rfl
@[simp] theorem apply_ctx_fresh : ((Micro.ctx n f).apply s).fresh = s.fresh := rfl
@[simp] theorem apply_ctx_thread (j : Nat) : ((Micro.ctx n f).apply s).thread j = s.thread j := rfl
@[simp] theorem apply_ctx_at (j : Nat) : ((Micro.ctx n f).apply s).ctx j = if n = j then f (s.ctx n) else s.ctx j :=
  look_put _ _ _ _ _
@[simp] theorem apply_ctx_core (j : Nat) : ((Micro.ctx n f).apply s).core j = s.core j := rfl
@[simp] theorem apply_ctx_cluster (j : Nat) : ((Micro.ctx n f).apply s).cluster j = s.cluster j := rfl
@[simp] theorem apply_ctx_die (j : Nat) : ((Micro.ctx n f).apply s).die j = s.die j := rfl
@[simp] theorem apply_ctx_atoll (j : Nat) : ((Micro.ctx n f).apply s).atoll j = s.atoll j := rfl
@[simp] theorem apply_ctx_wg (j : Nat) : ((Micro.ctx n f).apply s).wg j = s.wg j := rfl
@[simp] theorem apply_ctx_op (j : Nat) : ((Micro.ctx n f).apply s).op j = s.op j := rfl
@[simp] theorem apply_ctx_req (j : Nat) : ((Micro.ctx n f).apply s).req j = s.req j := rfl
@[simp] theorem apply_ctx_copy (j : Nat) : ((Micro.ctx n f).apply s).copy j = s.copy j := rfl
@[simp] theorem apply_ctx_fault (j : Nat) : ((Micro.ctx n f).apply s).fault j = s.fault j := rfl
@[simp] theorem apply_ctx_trap (j : Nat) : ((Micro.ctx n f).apply s).trap j = s.trap j := rfl
@[simp] theorem apply_ctx_byte (j : Nat) : ((Micro.ctx n f).apply s).byte j = s.byte j := rfl
end

section
variable (n : Nat) (f : Core → Core) (s : State)
@[simp] theorem apply_core_mem : ((Micro.core n f).apply s).mem = s.mem := rfl
@[simp] theorem apply_core_poison : ((Micro.core n f).apply s).poison = s.poison := rfl
@[simp] theorem apply_core_threads : ((Micro.core n f).apply s).threads = s.threads := rfl
@[simp] theorem apply_core_ctxs : ((Micro.core n f).apply s).ctxs = s.ctxs := rfl
@[simp] theorem apply_core_clusters : ((Micro.core n f).apply s).clusters = s.clusters := rfl
@[simp] theorem apply_core_dies : ((Micro.core n f).apply s).dies = s.dies := rfl
@[simp] theorem apply_core_atolls : ((Micro.core n f).apply s).atolls = s.atolls := rfl
@[simp] theorem apply_core_wgs : ((Micro.core n f).apply s).wgs = s.wgs := rfl
@[simp] theorem apply_core_fl : ((Micro.core n f).apply s).fl = s.fl := rfl
@[simp] theorem apply_core_ca : ((Micro.core n f).apply s).ca = s.ca := rfl
@[simp] theorem apply_core_sys : ((Micro.core n f).apply s).sys = s.sys := rfl
@[simp] theorem apply_core_cur : ((Micro.core n f).apply s).cur = s.cur := rfl
@[simp] theorem apply_core_pre : ((Micro.core n f).apply s).pre = s.pre := rfl
@[simp] theorem apply_core_fcq : ((Micro.core n f).apply s).fcq = s.fcq := rfl
@[simp] theorem apply_core_agenda : ((Micro.core n f).apply s).agenda = s.agenda := rfl
@[simp] theorem apply_core_fresh : ((Micro.core n f).apply s).fresh = s.fresh := rfl
@[simp] theorem apply_core_thread (j : Nat) : ((Micro.core n f).apply s).thread j = s.thread j := rfl
@[simp] theorem apply_core_ctx (j : Nat) : ((Micro.core n f).apply s).ctx j = s.ctx j := rfl
@[simp] theorem apply_core_at (j : Nat) : ((Micro.core n f).apply s).core j = if n = j then f (s.core n) else s.core j :=
  look_put _ _ _ _ _
@[simp] theorem apply_core_cluster (j : Nat) : ((Micro.core n f).apply s).cluster j = s.cluster j := rfl
@[simp] theorem apply_core_die (j : Nat) : ((Micro.core n f).apply s).die j = s.die j := rfl
@[simp] theorem apply_core_atoll (j : Nat) : ((Micro.core n f).apply s).atoll j = s.atoll j := rfl
@[simp] theorem apply_core_wg (j : Nat) : ((Micro.core n f).apply s).wg j = s.wg j := rfl
@[simp] theorem apply_core_op (j : Nat) : ((Micro.core n f).apply s).op j = s.op j := rfl
@[simp] theorem apply_core_req (j : Nat) : ((Micro.core n f).apply s).req j = s.req j := rfl
@[simp] theorem apply_core_copy (j : Nat) : ((Micro.core n f).apply s).copy j = s.copy j := rfl
@[simp] theorem apply_core_fault (j : Nat) : ((Micro.core n f).apply s).fault j = s.fault j := rfl
@[simp] theorem apply_core_trap (j : Nat) : ((Micro.core n f).apply s).trap j = s.trap j := rfl
@[simp] theorem apply_core_byte (j : Nat) : ((Micro.core n f).apply s).byte j = s.byte j := rfl
end

section
variable (n : Nat) (f : Cluster → Cluster) (s : State)
@[simp] theorem apply_cluster_mem : ((Micro.cluster n f).apply s).mem = s.mem := rfl
@[simp] theorem apply_cluster_poison : ((Micro.cluster n f).apply s).poison = s.poison := rfl
@[simp] theorem apply_cluster_threads : ((Micro.cluster n f).apply s).threads = s.threads := rfl
@[simp] theorem apply_cluster_ctxs : ((Micro.cluster n f).apply s).ctxs = s.ctxs := rfl
@[simp] theorem apply_cluster_cores : ((Micro.cluster n f).apply s).cores = s.cores := rfl
@[simp] theorem apply_cluster_dies : ((Micro.cluster n f).apply s).dies = s.dies := rfl
@[simp] theorem apply_cluster_atolls : ((Micro.cluster n f).apply s).atolls = s.atolls := rfl
@[simp] theorem apply_cluster_wgs : ((Micro.cluster n f).apply s).wgs = s.wgs := rfl
@[simp] theorem apply_cluster_fl : ((Micro.cluster n f).apply s).fl = s.fl := rfl
@[simp] theorem apply_cluster_ca : ((Micro.cluster n f).apply s).ca = s.ca := rfl
@[simp] theorem apply_cluster_sys : ((Micro.cluster n f).apply s).sys = s.sys := rfl
@[simp] theorem apply_cluster_cur : ((Micro.cluster n f).apply s).cur = s.cur := rfl
@[simp] theorem apply_cluster_pre : ((Micro.cluster n f).apply s).pre = s.pre := rfl
@[simp] theorem apply_cluster_fcq : ((Micro.cluster n f).apply s).fcq = s.fcq := rfl
@[simp] theorem apply_cluster_agenda : ((Micro.cluster n f).apply s).agenda = s.agenda := rfl
@[simp] theorem apply_cluster_fresh : ((Micro.cluster n f).apply s).fresh = s.fresh := rfl
@[simp] theorem apply_cluster_thread (j : Nat) : ((Micro.cluster n f).apply s).thread j = s.thread j := rfl
@[simp] theorem apply_cluster_ctx (j : Nat) : ((Micro.cluster n f).apply s).ctx j = s.ctx j := rfl
@[simp] theorem apply_cluster_core (j : Nat) : ((Micro.cluster n f).apply s).core j = s.core j := rfl
@[simp] theorem apply_cluster_at (j : Nat) : ((Micro.cluster n f).apply s).cluster j = if n = j then f (s.cluster n) else s.cluster j :=
  look_put _ _ _ _ _
@[simp] theorem apply_cluster_die (j : Nat) : ((Micro.cluster n f).apply s).die j = s.die j := rfl
@[simp] theorem apply_cluster_atoll (j : Nat) : ((Micro.cluster n f).apply s).atoll j = s.atoll j := rfl
@[simp] theorem apply_cluster_wg (j : Nat) : ((Micro.cluster n f).apply s).wg j = s.wg j := rfl
@[simp] theorem apply_cluster_op (j : Nat) : ((Micro.cluster n f).apply s).op j = s.op j := rfl
@[simp] theorem apply_cluster_req (j : Nat) : ((Micro.cluster n f).apply s).req j = s.req j := rfl
@[simp] theorem apply_cluster_copy (j : Nat) : ((Micro.cluster n f).apply s).copy j = s.copy j := rfl
@[simp] theorem apply_cluster_fault (j : Nat) : ((Micro.cluster n f).apply s).fault j = s.fault j := rfl
@[simp] theorem apply_cluster_trap (j : Nat) : ((Micro.cluster n f).apply s).trap j = s.trap j := rfl
@[simp] theorem apply_cluster_byte (j : Nat) : ((Micro.cluster n f).apply s).byte j = s.byte j := rfl
end

section
variable (n : Nat) (f : Die → Die) (s : State)
@[simp] theorem apply_die_mem : ((Micro.die n f).apply s).mem = s.mem := rfl
@[simp] theorem apply_die_poison : ((Micro.die n f).apply s).poison = s.poison := rfl
@[simp] theorem apply_die_threads : ((Micro.die n f).apply s).threads = s.threads := rfl
@[simp] theorem apply_die_ctxs : ((Micro.die n f).apply s).ctxs = s.ctxs := rfl
@[simp] theorem apply_die_cores : ((Micro.die n f).apply s).cores = s.cores := rfl
@[simp] theorem apply_die_clusters : ((Micro.die n f).apply s).clusters = s.clusters := rfl
@[simp] theorem apply_die_atolls : ((Micro.die n f).apply s).atolls = s.atolls := rfl
@[simp] theorem apply_die_wgs : ((Micro.die n f).apply s).wgs = s.wgs := rfl
@[simp] theorem apply_die_fl : ((Micro.die n f).apply s).fl = s.fl := rfl
@[simp] theorem apply_die_ca : ((Micro.die n f).apply s).ca = s.ca := rfl
@[simp] theorem apply_die_sys : ((Micro.die n f).apply s).sys = s.sys := rfl
@[simp] theorem apply_die_cur : ((Micro.die n f).apply s).cur = s.cur := rfl
@[simp] theorem apply_die_pre : ((Micro.die n f).apply s).pre = s.pre := rfl
@[simp] theorem apply_die_fcq : ((Micro.die n f).apply s).fcq = s.fcq := rfl
@[simp] theorem apply_die_agenda : ((Micro.die n f).apply s).agenda = s.agenda := rfl
@[simp] theorem apply_die_fresh : ((Micro.die n f).apply s).fresh = s.fresh := rfl
@[simp] theorem apply_die_thread (j : Nat) : ((Micro.die n f).apply s).thread j = s.thread j := rfl
@[simp] theorem apply_die_ctx (j : Nat) : ((Micro.die n f).apply s).ctx j = s.ctx j := rfl
@[simp] theorem apply_die_core (j : Nat) : ((Micro.die n f).apply s).core j = s.core j := rfl
@[simp] theorem apply_die_cluster (j : Nat) : ((Micro.die n f).apply s).cluster j = s.cluster j := rfl
@[simp] theorem apply_die_at (j : Nat) : ((Micro.die n f).apply s).die j = if n = j then f (s.die n) else s.die j :=
  look_put _ _ _ _ _
@[simp] theorem apply_die_atoll (j : Nat) : ((Micro.die n f).apply s).atoll j = s.atoll j := rfl
@[simp] theorem apply_die_wg (j : Nat) : ((Micro.die n f).apply s).wg j = s.wg j := rfl
@[simp] theorem apply_die_op (j : Nat) : ((Micro.die n f).apply s).op j = s.op j := rfl
@[simp] theorem apply_die_req (j : Nat) : ((Micro.die n f).apply s).req j = s.req j := rfl
@[simp] theorem apply_die_copy (j : Nat) : ((Micro.die n f).apply s).copy j = s.copy j := rfl
@[simp] theorem apply_die_fault (j : Nat) : ((Micro.die n f).apply s).fault j = s.fault j := rfl
@[simp] theorem apply_die_trap (j : Nat) : ((Micro.die n f).apply s).trap j = s.trap j := rfl
@[simp] theorem apply_die_byte (j : Nat) : ((Micro.die n f).apply s).byte j = s.byte j := rfl
end

section
variable (n : Nat) (f : Atoll → Atoll) (s : State)
@[simp] theorem apply_atoll_mem : ((Micro.atoll n f).apply s).mem = s.mem := rfl
@[simp] theorem apply_atoll_poison : ((Micro.atoll n f).apply s).poison = s.poison := rfl
@[simp] theorem apply_atoll_threads : ((Micro.atoll n f).apply s).threads = s.threads := rfl
@[simp] theorem apply_atoll_ctxs : ((Micro.atoll n f).apply s).ctxs = s.ctxs := rfl
@[simp] theorem apply_atoll_cores : ((Micro.atoll n f).apply s).cores = s.cores := rfl
@[simp] theorem apply_atoll_clusters : ((Micro.atoll n f).apply s).clusters = s.clusters := rfl
@[simp] theorem apply_atoll_dies : ((Micro.atoll n f).apply s).dies = s.dies := rfl
@[simp] theorem apply_atoll_wgs : ((Micro.atoll n f).apply s).wgs = s.wgs := rfl
@[simp] theorem apply_atoll_fl : ((Micro.atoll n f).apply s).fl = s.fl := rfl
@[simp] theorem apply_atoll_ca : ((Micro.atoll n f).apply s).ca = s.ca := rfl
@[simp] theorem apply_atoll_sys : ((Micro.atoll n f).apply s).sys = s.sys := rfl
@[simp] theorem apply_atoll_cur : ((Micro.atoll n f).apply s).cur = s.cur := rfl
@[simp] theorem apply_atoll_pre : ((Micro.atoll n f).apply s).pre = s.pre := rfl
@[simp] theorem apply_atoll_fcq : ((Micro.atoll n f).apply s).fcq = s.fcq := rfl
@[simp] theorem apply_atoll_agenda : ((Micro.atoll n f).apply s).agenda = s.agenda := rfl
@[simp] theorem apply_atoll_fresh : ((Micro.atoll n f).apply s).fresh = s.fresh := rfl
@[simp] theorem apply_atoll_thread (j : Nat) : ((Micro.atoll n f).apply s).thread j = s.thread j := rfl
@[simp] theorem apply_atoll_ctx (j : Nat) : ((Micro.atoll n f).apply s).ctx j = s.ctx j := rfl
@[simp] theorem apply_atoll_core (j : Nat) : ((Micro.atoll n f).apply s).core j = s.core j := rfl
@[simp] theorem apply_atoll_cluster (j : Nat) : ((Micro.atoll n f).apply s).cluster j = s.cluster j := rfl
@[simp] theorem apply_atoll_die (j : Nat) : ((Micro.atoll n f).apply s).die j = s.die j := rfl
@[simp] theorem apply_atoll_at (j : Nat) : ((Micro.atoll n f).apply s).atoll j = if n = j then f (s.atoll n) else s.atoll j :=
  look_put _ _ _ _ _
@[simp] theorem apply_atoll_wg (j : Nat) : ((Micro.atoll n f).apply s).wg j = s.wg j := rfl
@[simp] theorem apply_atoll_op (j : Nat) : ((Micro.atoll n f).apply s).op j = s.op j := rfl
@[simp] theorem apply_atoll_req (j : Nat) : ((Micro.atoll n f).apply s).req j = s.req j := rfl
@[simp] theorem apply_atoll_copy (j : Nat) : ((Micro.atoll n f).apply s).copy j = s.copy j := rfl
@[simp] theorem apply_atoll_fault (j : Nat) : ((Micro.atoll n f).apply s).fault j = s.fault j := rfl
@[simp] theorem apply_atoll_trap (j : Nat) : ((Micro.atoll n f).apply s).trap j = s.trap j := rfl
@[simp] theorem apply_atoll_byte (j : Nat) : ((Micro.atoll n f).apply s).byte j = s.byte j := rfl
end

section
variable (n : Nat) (f : Wg → Wg) (s : State)
@[simp] theorem apply_wg_mem : ((Micro.wg n f).apply s).mem = s.mem := rfl
@[simp] theorem apply_wg_poison : ((Micro.wg n f).apply s).poison = s.poison := rfl
@[simp] theorem apply_wg_threads : ((Micro.wg n f).apply s).threads = s.threads := rfl
@[simp] theorem apply_wg_ctxs : ((Micro.wg n f).apply s).ctxs = s.ctxs := rfl
@[simp] theorem apply_wg_cores : ((Micro.wg n f).apply s).cores = s.cores := rfl
@[simp] theorem apply_wg_clusters : ((Micro.wg n f).apply s).clusters = s.clusters := rfl
@[simp] theorem apply_wg_dies : ((Micro.wg n f).apply s).dies = s.dies := rfl
@[simp] theorem apply_wg_atolls : ((Micro.wg n f).apply s).atolls = s.atolls := rfl
@[simp] theorem apply_wg_fl : ((Micro.wg n f).apply s).fl = s.fl := rfl
@[simp] theorem apply_wg_ca : ((Micro.wg n f).apply s).ca = s.ca := rfl
@[simp] theorem apply_wg_sys : ((Micro.wg n f).apply s).sys = s.sys := rfl
@[simp] theorem apply_wg_cur : ((Micro.wg n f).apply s).cur = s.cur := rfl
@[simp] theorem apply_wg_pre : ((Micro.wg n f).apply s).pre = s.pre := rfl
@[simp] theorem apply_wg_fcq : ((Micro.wg n f).apply s).fcq = s.fcq := rfl
@[simp] theorem apply_wg_agenda : ((Micro.wg n f).apply s).agenda = s.agenda := rfl
@[simp] theorem apply_wg_fresh : ((Micro.wg n f).apply s).fresh = s.fresh := rfl
@[simp] theorem apply_wg_thread (j : Nat) : ((Micro.wg n f).apply s).thread j = s.thread j := rfl
@[simp] theorem apply_wg_ctx (j : Nat) : ((Micro.wg n f).apply s).ctx j = s.ctx j := rfl
@[simp] theorem apply_wg_core (j : Nat) : ((Micro.wg n f).apply s).core j = s.core j := rfl
@[simp] theorem apply_wg_cluster (j : Nat) : ((Micro.wg n f).apply s).cluster j = s.cluster j := rfl
@[simp] theorem apply_wg_die (j : Nat) : ((Micro.wg n f).apply s).die j = s.die j := rfl
@[simp] theorem apply_wg_atoll (j : Nat) : ((Micro.wg n f).apply s).atoll j = s.atoll j := rfl
@[simp] theorem apply_wg_at (j : Nat) : ((Micro.wg n f).apply s).wg j = if n = j then f (s.wg n) else s.wg j :=
  look_put _ _ _ _ _
@[simp] theorem apply_wg_op (j : Nat) : ((Micro.wg n f).apply s).op j = s.op j := rfl
@[simp] theorem apply_wg_req (j : Nat) : ((Micro.wg n f).apply s).req j = s.req j := rfl
@[simp] theorem apply_wg_copy (j : Nat) : ((Micro.wg n f).apply s).copy j = s.copy j := rfl
@[simp] theorem apply_wg_fault (j : Nat) : ((Micro.wg n f).apply s).fault j = s.fault j := rfl
@[simp] theorem apply_wg_trap (j : Nat) : ((Micro.wg n f).apply s).trap j = s.trap j := rfl
@[simp] theorem apply_wg_byte (j : Nat) : ((Micro.wg n f).apply s).byte j = s.byte j := rfl
end

section
variable (n : Nat) (f : Op → Op) (s : State)
@[simp] theorem apply_op_mem : ((Micro.op n f).apply s).mem = s.mem := rfl
@[simp] theorem apply_op_poison : ((Micro.op n f).apply s).poison = s.poison := rfl
@[simp] theorem apply_op_threads : ((Micro.op n f).apply s).threads = s.threads := rfl
@[simp] theorem apply_op_ctxs : ((Micro.op n f).apply s).ctxs = s.ctxs := rfl
@[simp] theorem apply_op_cores : ((Micro.op n f).apply s).cores = s.cores := rfl
@[simp] theorem apply_op_clusters : ((Micro.op n f).apply s).clusters = s.clusters := rfl
@[simp] theorem apply_op_dies : ((Micro.op n f).apply s).dies = s.dies := rfl
@[simp] theorem apply_op_atolls : ((Micro.op n f).apply s).atolls = s.atolls := rfl
@[simp] theorem apply_op_wgs : ((Micro.op n f).apply s).wgs = s.wgs := rfl
@[simp] theorem apply_op_ca : ((Micro.op n f).apply s).ca = s.ca := rfl
@[simp] theorem apply_op_sys : ((Micro.op n f).apply s).sys = s.sys := rfl
@[simp] theorem apply_op_cur : ((Micro.op n f).apply s).cur = s.cur := rfl
@[simp] theorem apply_op_pre : ((Micro.op n f).apply s).pre = s.pre := rfl
@[simp] theorem apply_op_fcq : ((Micro.op n f).apply s).fcq = s.fcq := rfl
@[simp] theorem apply_op_agenda : ((Micro.op n f).apply s).agenda = s.agenda := rfl
@[simp] theorem apply_op_fresh : ((Micro.op n f).apply s).fresh = s.fresh := rfl
@[simp] theorem apply_op_fl_next : ((Micro.op n f).apply s).fl.next = s.fl.next := rfl
@[simp] theorem apply_op_fl_reqs : ((Micro.op n f).apply s).fl.reqs = s.fl.reqs := rfl
@[simp] theorem apply_op_fl_copies : ((Micro.op n f).apply s).fl.copies = s.fl.copies := rfl
@[simp] theorem apply_op_fl_faults : ((Micro.op n f).apply s).fl.faults = s.fl.faults := rfl
@[simp] theorem apply_op_fl_traps : ((Micro.op n f).apply s).fl.traps = s.fl.traps := rfl
@[simp] theorem apply_op_thread (j : Nat) : ((Micro.op n f).apply s).thread j = s.thread j := rfl
@[simp] theorem apply_op_ctx (j : Nat) : ((Micro.op n f).apply s).ctx j = s.ctx j := rfl
@[simp] theorem apply_op_core (j : Nat) : ((Micro.op n f).apply s).core j = s.core j := rfl
@[simp] theorem apply_op_cluster (j : Nat) : ((Micro.op n f).apply s).cluster j = s.cluster j := rfl
@[simp] theorem apply_op_die (j : Nat) : ((Micro.op n f).apply s).die j = s.die j := rfl
@[simp] theorem apply_op_atoll (j : Nat) : ((Micro.op n f).apply s).atoll j = s.atoll j := rfl
@[simp] theorem apply_op_wg (j : Nat) : ((Micro.op n f).apply s).wg j = s.wg j := rfl
@[simp] theorem apply_op_at (j : Nat) : ((Micro.op n f).apply s).op j = if n = j then f (s.op n) else s.op j :=
  look_put _ _ _ _ _
@[simp] theorem apply_op_req (j : Nat) : ((Micro.op n f).apply s).req j = s.req j := rfl
@[simp] theorem apply_op_copy (j : Nat) : ((Micro.op n f).apply s).copy j = s.copy j := rfl
@[simp] theorem apply_op_fault (j : Nat) : ((Micro.op n f).apply s).fault j = s.fault j := rfl
@[simp] theorem apply_op_trap (j : Nat) : ((Micro.op n f).apply s).trap j = s.trap j := rfl
@[simp] theorem apply_op_byte (j : Nat) : ((Micro.op n f).apply s).byte j = s.byte j := rfl
end

section
variable (n : Nat) (f : Req → Req) (s : State)
@[simp] theorem apply_req_mem : ((Micro.req n f).apply s).mem = s.mem := rfl
@[simp] theorem apply_req_poison : ((Micro.req n f).apply s).poison = s.poison := rfl
@[simp] theorem apply_req_threads : ((Micro.req n f).apply s).threads = s.threads := rfl
@[simp] theorem apply_req_ctxs : ((Micro.req n f).apply s).ctxs = s.ctxs := rfl
@[simp] theorem apply_req_cores : ((Micro.req n f).apply s).cores = s.cores := rfl
@[simp] theorem apply_req_clusters : ((Micro.req n f).apply s).clusters = s.clusters := rfl
@[simp] theorem apply_req_dies : ((Micro.req n f).apply s).dies = s.dies := rfl
@[simp] theorem apply_req_atolls : ((Micro.req n f).apply s).atolls = s.atolls := rfl
@[simp] theorem apply_req_wgs : ((Micro.req n f).apply s).wgs = s.wgs := rfl
@[simp] theorem apply_req_ca : ((Micro.req n f).apply s).ca = s.ca := rfl
@[simp] theorem apply_req_sys : ((Micro.req n f).apply s).sys = s.sys := rfl
@[simp] theorem apply_req_cur : ((Micro.req n f).apply s).cur = s.cur := rfl
@[simp] theorem apply_req_pre : ((Micro.req n f).apply s).pre = s.pre := rfl
@[simp] theorem apply_req_fcq : ((Micro.req n f).apply s).fcq = s.fcq := rfl
@[simp] theorem apply_req_agenda : ((Micro.req n f).apply s).agenda = s.agenda := rfl
@[simp] theorem apply_req_fresh : ((Micro.req n f).apply s).fresh = s.fresh := rfl
@[simp] theorem apply_req_fl_next : ((Micro.req n f).apply s).fl.next = s.fl.next := rfl
@[simp] theorem apply_req_fl_ops : ((Micro.req n f).apply s).fl.ops = s.fl.ops := rfl
@[simp] theorem apply_req_fl_copies : ((Micro.req n f).apply s).fl.copies = s.fl.copies := rfl
@[simp] theorem apply_req_fl_faults : ((Micro.req n f).apply s).fl.faults = s.fl.faults := rfl
@[simp] theorem apply_req_fl_traps : ((Micro.req n f).apply s).fl.traps = s.fl.traps := rfl
@[simp] theorem apply_req_thread (j : Nat) : ((Micro.req n f).apply s).thread j = s.thread j := rfl
@[simp] theorem apply_req_ctx (j : Nat) : ((Micro.req n f).apply s).ctx j = s.ctx j := rfl
@[simp] theorem apply_req_core (j : Nat) : ((Micro.req n f).apply s).core j = s.core j := rfl
@[simp] theorem apply_req_cluster (j : Nat) : ((Micro.req n f).apply s).cluster j = s.cluster j := rfl
@[simp] theorem apply_req_die (j : Nat) : ((Micro.req n f).apply s).die j = s.die j := rfl
@[simp] theorem apply_req_atoll (j : Nat) : ((Micro.req n f).apply s).atoll j = s.atoll j := rfl
@[simp] theorem apply_req_wg (j : Nat) : ((Micro.req n f).apply s).wg j = s.wg j := rfl
@[simp] theorem apply_req_op (j : Nat) : ((Micro.req n f).apply s).op j = s.op j := rfl
@[simp] theorem apply_req_at (j : Nat) : ((Micro.req n f).apply s).req j = if n = j then f (s.req n) else s.req j :=
  look_put _ _ _ _ _
@[simp] theorem apply_req_copy (j : Nat) : ((Micro.req n f).apply s).copy j = s.copy j := rfl
@[simp] theorem apply_req_fault (j : Nat) : ((Micro.req n f).apply s).fault j = s.fault j := rfl
@[simp] theorem apply_req_trap (j : Nat) : ((Micro.req n f).apply s).trap j = s.trap j := rfl
@[simp] theorem apply_req_byte (j : Nat) : ((Micro.req n f).apply s).byte j = s.byte j := rfl
end

section
variable (n : Nat) (f : Copy → Copy) (s : State)
@[simp] theorem apply_copy_mem : ((Micro.copy n f).apply s).mem = s.mem := rfl
@[simp] theorem apply_copy_poison : ((Micro.copy n f).apply s).poison = s.poison := rfl
@[simp] theorem apply_copy_threads : ((Micro.copy n f).apply s).threads = s.threads := rfl
@[simp] theorem apply_copy_ctxs : ((Micro.copy n f).apply s).ctxs = s.ctxs := rfl
@[simp] theorem apply_copy_cores : ((Micro.copy n f).apply s).cores = s.cores := rfl
@[simp] theorem apply_copy_clusters : ((Micro.copy n f).apply s).clusters = s.clusters := rfl
@[simp] theorem apply_copy_dies : ((Micro.copy n f).apply s).dies = s.dies := rfl
@[simp] theorem apply_copy_atolls : ((Micro.copy n f).apply s).atolls = s.atolls := rfl
@[simp] theorem apply_copy_wgs : ((Micro.copy n f).apply s).wgs = s.wgs := rfl
@[simp] theorem apply_copy_ca : ((Micro.copy n f).apply s).ca = s.ca := rfl
@[simp] theorem apply_copy_sys : ((Micro.copy n f).apply s).sys = s.sys := rfl
@[simp] theorem apply_copy_cur : ((Micro.copy n f).apply s).cur = s.cur := rfl
@[simp] theorem apply_copy_pre : ((Micro.copy n f).apply s).pre = s.pre := rfl
@[simp] theorem apply_copy_fcq : ((Micro.copy n f).apply s).fcq = s.fcq := rfl
@[simp] theorem apply_copy_agenda : ((Micro.copy n f).apply s).agenda = s.agenda := rfl
@[simp] theorem apply_copy_fresh : ((Micro.copy n f).apply s).fresh = s.fresh := rfl
@[simp] theorem apply_copy_fl_next : ((Micro.copy n f).apply s).fl.next = s.fl.next := rfl
@[simp] theorem apply_copy_fl_ops : ((Micro.copy n f).apply s).fl.ops = s.fl.ops := rfl
@[simp] theorem apply_copy_fl_reqs : ((Micro.copy n f).apply s).fl.reqs = s.fl.reqs := rfl
@[simp] theorem apply_copy_fl_faults : ((Micro.copy n f).apply s).fl.faults = s.fl.faults := rfl
@[simp] theorem apply_copy_fl_traps : ((Micro.copy n f).apply s).fl.traps = s.fl.traps := rfl
@[simp] theorem apply_copy_thread (j : Nat) : ((Micro.copy n f).apply s).thread j = s.thread j := rfl
@[simp] theorem apply_copy_ctx (j : Nat) : ((Micro.copy n f).apply s).ctx j = s.ctx j := rfl
@[simp] theorem apply_copy_core (j : Nat) : ((Micro.copy n f).apply s).core j = s.core j := rfl
@[simp] theorem apply_copy_cluster (j : Nat) : ((Micro.copy n f).apply s).cluster j = s.cluster j := rfl
@[simp] theorem apply_copy_die (j : Nat) : ((Micro.copy n f).apply s).die j = s.die j := rfl
@[simp] theorem apply_copy_atoll (j : Nat) : ((Micro.copy n f).apply s).atoll j = s.atoll j := rfl
@[simp] theorem apply_copy_wg (j : Nat) : ((Micro.copy n f).apply s).wg j = s.wg j := rfl
@[simp] theorem apply_copy_op (j : Nat) : ((Micro.copy n f).apply s).op j = s.op j := rfl
@[simp] theorem apply_copy_req (j : Nat) : ((Micro.copy n f).apply s).req j = s.req j := rfl
@[simp] theorem apply_copy_at (j : Nat) : ((Micro.copy n f).apply s).copy j = if n = j then f (s.copy n) else s.copy j :=
  look_put _ _ _ _ _
@[simp] theorem apply_copy_fault (j : Nat) : ((Micro.copy n f).apply s).fault j = s.fault j := rfl
@[simp] theorem apply_copy_trap (j : Nat) : ((Micro.copy n f).apply s).trap j = s.trap j := rfl
@[simp] theorem apply_copy_byte (j : Nat) : ((Micro.copy n f).apply s).byte j = s.byte j := rfl
end

section
variable (n : Nat) (f : FaultRec → FaultRec) (s : State)
@[simp] theorem apply_fault_mem : ((Micro.fault n f).apply s).mem = s.mem := rfl
@[simp] theorem apply_fault_poison : ((Micro.fault n f).apply s).poison = s.poison := rfl
@[simp] theorem apply_fault_threads : ((Micro.fault n f).apply s).threads = s.threads := rfl
@[simp] theorem apply_fault_ctxs : ((Micro.fault n f).apply s).ctxs = s.ctxs := rfl
@[simp] theorem apply_fault_cores : ((Micro.fault n f).apply s).cores = s.cores := rfl
@[simp] theorem apply_fault_clusters : ((Micro.fault n f).apply s).clusters = s.clusters := rfl
@[simp] theorem apply_fault_dies : ((Micro.fault n f).apply s).dies = s.dies := rfl
@[simp] theorem apply_fault_atolls : ((Micro.fault n f).apply s).atolls = s.atolls := rfl
@[simp] theorem apply_fault_wgs : ((Micro.fault n f).apply s).wgs = s.wgs := rfl
@[simp] theorem apply_fault_ca : ((Micro.fault n f).apply s).ca = s.ca := rfl
@[simp] theorem apply_fault_sys : ((Micro.fault n f).apply s).sys = s.sys := rfl
@[simp] theorem apply_fault_cur : ((Micro.fault n f).apply s).cur = s.cur := rfl
@[simp] theorem apply_fault_pre : ((Micro.fault n f).apply s).pre = s.pre := rfl
@[simp] theorem apply_fault_fcq : ((Micro.fault n f).apply s).fcq = s.fcq := rfl
@[simp] theorem apply_fault_agenda : ((Micro.fault n f).apply s).agenda = s.agenda := rfl
@[simp] theorem apply_fault_fresh : ((Micro.fault n f).apply s).fresh = s.fresh := rfl
@[simp] theorem apply_fault_fl_next : ((Micro.fault n f).apply s).fl.next = s.fl.next := rfl
@[simp] theorem apply_fault_fl_ops : ((Micro.fault n f).apply s).fl.ops = s.fl.ops := rfl
@[simp] theorem apply_fault_fl_reqs : ((Micro.fault n f).apply s).fl.reqs = s.fl.reqs := rfl
@[simp] theorem apply_fault_fl_copies : ((Micro.fault n f).apply s).fl.copies = s.fl.copies := rfl
@[simp] theorem apply_fault_fl_traps : ((Micro.fault n f).apply s).fl.traps = s.fl.traps := rfl
@[simp] theorem apply_fault_thread (j : Nat) : ((Micro.fault n f).apply s).thread j = s.thread j := rfl
@[simp] theorem apply_fault_ctx (j : Nat) : ((Micro.fault n f).apply s).ctx j = s.ctx j := rfl
@[simp] theorem apply_fault_core (j : Nat) : ((Micro.fault n f).apply s).core j = s.core j := rfl
@[simp] theorem apply_fault_cluster (j : Nat) : ((Micro.fault n f).apply s).cluster j = s.cluster j := rfl
@[simp] theorem apply_fault_die (j : Nat) : ((Micro.fault n f).apply s).die j = s.die j := rfl
@[simp] theorem apply_fault_atoll (j : Nat) : ((Micro.fault n f).apply s).atoll j = s.atoll j := rfl
@[simp] theorem apply_fault_wg (j : Nat) : ((Micro.fault n f).apply s).wg j = s.wg j := rfl
@[simp] theorem apply_fault_op (j : Nat) : ((Micro.fault n f).apply s).op j = s.op j := rfl
@[simp] theorem apply_fault_req (j : Nat) : ((Micro.fault n f).apply s).req j = s.req j := rfl
@[simp] theorem apply_fault_copy (j : Nat) : ((Micro.fault n f).apply s).copy j = s.copy j := rfl
@[simp] theorem apply_fault_at (j : Nat) : ((Micro.fault n f).apply s).fault j = if n = j then f (s.fault n) else s.fault j :=
  look_put _ _ _ _ _
@[simp] theorem apply_fault_trap (j : Nat) : ((Micro.fault n f).apply s).trap j = s.trap j := rfl
@[simp] theorem apply_fault_byte (j : Nat) : ((Micro.fault n f).apply s).byte j = s.byte j := rfl
end

section
variable (n : Nat) (f : Trap → Trap) (s : State)
@[simp] theorem apply_trap_mem : ((Micro.trap n f).apply s).mem = s.mem := rfl
@[simp] theorem apply_trap_poison : ((Micro.trap n f).apply s).poison = s.poison := rfl
@[simp] theorem apply_trap_threads : ((Micro.trap n f).apply s).threads = s.threads := rfl
@[simp] theorem apply_trap_ctxs : ((Micro.trap n f).apply s).ctxs = s.ctxs := rfl
@[simp] theorem apply_trap_cores : ((Micro.trap n f).apply s).cores = s.cores := rfl
@[simp] theorem apply_trap_clusters : ((Micro.trap n f).apply s).clusters = s.clusters := rfl
@[simp] theorem apply_trap_dies : ((Micro.trap n f).apply s).dies = s.dies := rfl
@[simp] theorem apply_trap_atolls : ((Micro.trap n f).apply s).atolls = s.atolls := rfl
@[simp] theorem apply_trap_wgs : ((Micro.trap n f).apply s).wgs = s.wgs := rfl
@[simp] theorem apply_trap_ca : ((Micro.trap n f).apply s).ca = s.ca := rfl
@[simp] theorem apply_trap_sys : ((Micro.trap n f).apply s).sys = s.sys := rfl
@[simp] theorem apply_trap_cur : ((Micro.trap n f).apply s).cur = s.cur := rfl
@[simp] theorem apply_trap_pre : ((Micro.trap n f).apply s).pre = s.pre := rfl
@[simp] theorem apply_trap_fcq : ((Micro.trap n f).apply s).fcq = s.fcq := rfl
@[simp] theorem apply_trap_agenda : ((Micro.trap n f).apply s).agenda = s.agenda := rfl
@[simp] theorem apply_trap_fresh : ((Micro.trap n f).apply s).fresh = s.fresh := rfl
@[simp] theorem apply_trap_fl_next : ((Micro.trap n f).apply s).fl.next = s.fl.next := rfl
@[simp] theorem apply_trap_fl_ops : ((Micro.trap n f).apply s).fl.ops = s.fl.ops := rfl
@[simp] theorem apply_trap_fl_reqs : ((Micro.trap n f).apply s).fl.reqs = s.fl.reqs := rfl
@[simp] theorem apply_trap_fl_copies : ((Micro.trap n f).apply s).fl.copies = s.fl.copies := rfl
@[simp] theorem apply_trap_fl_faults : ((Micro.trap n f).apply s).fl.faults = s.fl.faults := rfl
@[simp] theorem apply_trap_thread (j : Nat) : ((Micro.trap n f).apply s).thread j = s.thread j := rfl
@[simp] theorem apply_trap_ctx (j : Nat) : ((Micro.trap n f).apply s).ctx j = s.ctx j := rfl
@[simp] theorem apply_trap_core (j : Nat) : ((Micro.trap n f).apply s).core j = s.core j := rfl
@[simp] theorem apply_trap_cluster (j : Nat) : ((Micro.trap n f).apply s).cluster j = s.cluster j := rfl
@[simp] theorem apply_trap_die (j : Nat) : ((Micro.trap n f).apply s).die j = s.die j := rfl
@[simp] theorem apply_trap_atoll (j : Nat) : ((Micro.trap n f).apply s).atoll j = s.atoll j := rfl
@[simp] theorem apply_trap_wg (j : Nat) : ((Micro.trap n f).apply s).wg j = s.wg j := rfl
@[simp] theorem apply_trap_op (j : Nat) : ((Micro.trap n f).apply s).op j = s.op j := rfl
@[simp] theorem apply_trap_req (j : Nat) : ((Micro.trap n f).apply s).req j = s.req j := rfl
@[simp] theorem apply_trap_copy (j : Nat) : ((Micro.trap n f).apply s).copy j = s.copy j := rfl
@[simp] theorem apply_trap_fault (j : Nat) : ((Micro.trap n f).apply s).fault j = s.fault j := rfl
@[simp] theorem apply_trap_at (j : Nat) : ((Micro.trap n f).apply s).trap j = if n = j then f (s.trap n) else s.trap j :=
  look_put _ _ _ _ _
@[simp] theorem apply_trap_byte (j : Nat) : ((Micro.trap n f).apply s).byte j = s.byte j := rfl
end

section
variable (n : Nat) (s : State)
@[simp] theorem apply_bump_mem : ((Micro.bump n).apply s).mem = s.mem := rfl
@[simp] theorem apply_bump_poison : ((Micro.bump n).apply s).poison = s.poison := rfl
@[simp] theorem apply_bump_threads : ((Micro.bump n).apply s).threads = s.threads := rfl
@[simp] theorem apply_bump_ctxs : ((Micro.bump n).apply s).ctxs = s.ctxs := rfl
@[simp] theorem apply_bump_cores : ((Micro.bump n).apply s).cores = s.cores := rfl
@[simp] theorem apply_bump_clusters : ((Micro.bump n).apply s).clusters = s.clusters := rfl
@[simp] theorem apply_bump_dies : ((Micro.bump n).apply s).dies = s.dies := rfl
@[simp] theorem apply_bump_atolls : ((Micro.bump n).apply s).atolls = s.atolls := rfl
@[simp] theorem apply_bump_wgs : ((Micro.bump n).apply s).wgs = s.wgs := rfl
@[simp] theorem apply_bump_ca : ((Micro.bump n).apply s).ca = s.ca := rfl
@[simp] theorem apply_bump_sys : ((Micro.bump n).apply s).sys = s.sys := rfl
@[simp] theorem apply_bump_cur : ((Micro.bump n).apply s).cur = s.cur := rfl
@[simp] theorem apply_bump_pre : ((Micro.bump n).apply s).pre = s.pre := rfl
@[simp] theorem apply_bump_fcq : ((Micro.bump n).apply s).fcq = s.fcq := rfl
@[simp] theorem apply_bump_agenda : ((Micro.bump n).apply s).agenda = s.agenda := rfl
@[simp] theorem apply_bump_fresh : ((Micro.bump n).apply s).fresh = s.fresh := rfl
@[simp] theorem apply_bump_fl_ops : ((Micro.bump n).apply s).fl.ops = s.fl.ops := rfl
@[simp] theorem apply_bump_fl_reqs : ((Micro.bump n).apply s).fl.reqs = s.fl.reqs := rfl
@[simp] theorem apply_bump_fl_copies : ((Micro.bump n).apply s).fl.copies = s.fl.copies := rfl
@[simp] theorem apply_bump_fl_faults : ((Micro.bump n).apply s).fl.faults = s.fl.faults := rfl
@[simp] theorem apply_bump_fl_traps : ((Micro.bump n).apply s).fl.traps = s.fl.traps := rfl
@[simp] theorem apply_bump_thread (j : Nat) : ((Micro.bump n).apply s).thread j = s.thread j := rfl
@[simp] theorem apply_bump_ctx (j : Nat) : ((Micro.bump n).apply s).ctx j = s.ctx j := rfl
@[simp] theorem apply_bump_core (j : Nat) : ((Micro.bump n).apply s).core j = s.core j := rfl
@[simp] theorem apply_bump_cluster (j : Nat) : ((Micro.bump n).apply s).cluster j = s.cluster j := rfl
@[simp] theorem apply_bump_die (j : Nat) : ((Micro.bump n).apply s).die j = s.die j := rfl
@[simp] theorem apply_bump_atoll (j : Nat) : ((Micro.bump n).apply s).atoll j = s.atoll j := rfl
@[simp] theorem apply_bump_wg (j : Nat) : ((Micro.bump n).apply s).wg j = s.wg j := rfl
@[simp] theorem apply_bump_op (j : Nat) : ((Micro.bump n).apply s).op j = s.op j := rfl
@[simp] theorem apply_bump_req (j : Nat) : ((Micro.bump n).apply s).req j = s.req j := rfl
@[simp] theorem apply_bump_copy (j : Nat) : ((Micro.bump n).apply s).copy j = s.copy j := rfl
@[simp] theorem apply_bump_fault (j : Nat) : ((Micro.bump n).apply s).fault j = s.fault j := rfl
@[simp] theorem apply_bump_trap (j : Nat) : ((Micro.bump n).apply s).trap j = s.trap j := rfl
@[simp] theorem apply_bump_byte (j : Nat) : ((Micro.bump n).apply s).byte j = s.byte j := rfl
@[simp] theorem apply_bump_next : ((Micro.bump n).apply s).fl.next = s.fl.next + n := rfl
end

section
variable (l : List (Nat × Byte)) (s : State)
@[simp] theorem apply_bytes_poison : ((Micro.bytes l).apply s).poison = s.poison := rfl
@[simp] theorem apply_bytes_threads : ((Micro.bytes l).apply s).threads = s.threads := rfl
@[simp] theorem apply_bytes_ctxs : ((Micro.bytes l).apply s).ctxs = s.ctxs := rfl
@[simp] theorem apply_bytes_cores : ((Micro.bytes l).apply s).cores = s.cores := rfl
@[simp] theorem apply_bytes_clusters : ((Micro.bytes l).apply s).clusters = s.clusters := rfl
@[simp] theorem apply_bytes_dies : ((Micro.bytes l).apply s).dies = s.dies := rfl
@[simp] theorem apply_bytes_atolls : ((Micro.bytes l).apply s).atolls = s.atolls := rfl
@[simp] theorem apply_bytes_wgs : ((Micro.bytes l).apply s).wgs = s.wgs := rfl
@[simp] theorem apply_bytes_fl : ((Micro.bytes l).apply s).fl = s.fl := rfl
@[simp] theorem apply_bytes_ca : ((Micro.bytes l).apply s).ca = s.ca := rfl
@[simp] theorem apply_bytes_sys : ((Micro.bytes l).apply s).sys = s.sys := rfl
@[simp] theorem apply_bytes_cur : ((Micro.bytes l).apply s).cur = s.cur := rfl
@[simp] theorem apply_bytes_pre : ((Micro.bytes l).apply s).pre = s.pre := rfl
@[simp] theorem apply_bytes_fcq : ((Micro.bytes l).apply s).fcq = s.fcq := rfl
@[simp] theorem apply_bytes_agenda : ((Micro.bytes l).apply s).agenda = s.agenda := rfl
@[simp] theorem apply_bytes_fresh : ((Micro.bytes l).apply s).fresh = s.fresh := rfl
@[simp] theorem apply_bytes_thread (j : Nat) : ((Micro.bytes l).apply s).thread j = s.thread j := rfl
@[simp] theorem apply_bytes_ctx (j : Nat) : ((Micro.bytes l).apply s).ctx j = s.ctx j := rfl
@[simp] theorem apply_bytes_core (j : Nat) : ((Micro.bytes l).apply s).core j = s.core j := rfl
@[simp] theorem apply_bytes_cluster (j : Nat) : ((Micro.bytes l).apply s).cluster j = s.cluster j := rfl
@[simp] theorem apply_bytes_die (j : Nat) : ((Micro.bytes l).apply s).die j = s.die j := rfl
@[simp] theorem apply_bytes_atoll (j : Nat) : ((Micro.bytes l).apply s).atoll j = s.atoll j := rfl
@[simp] theorem apply_bytes_wg (j : Nat) : ((Micro.bytes l).apply s).wg j = s.wg j := rfl
@[simp] theorem apply_bytes_op (j : Nat) : ((Micro.bytes l).apply s).op j = s.op j := rfl
@[simp] theorem apply_bytes_req (j : Nat) : ((Micro.bytes l).apply s).req j = s.req j := rfl
@[simp] theorem apply_bytes_copy (j : Nat) : ((Micro.bytes l).apply s).copy j = s.copy j := rfl
@[simp] theorem apply_bytes_fault (j : Nat) : ((Micro.bytes l).apply s).fault j = s.fault j := rfl
@[simp] theorem apply_bytes_trap (j : Nat) : ((Micro.bytes l).apply s).trap j = s.trap j := rfl
theorem apply_bytes_mem : ((Micro.bytes l).apply s).mem = putBytes s.mem l := rfl
end

section
variable (f : List Nat → List Nat) (s : State)
@[simp] theorem apply_poison_mem : ((Micro.poison f).apply s).mem = s.mem := rfl
@[simp] theorem apply_poison_threads : ((Micro.poison f).apply s).threads = s.threads := rfl
@[simp] theorem apply_poison_ctxs : ((Micro.poison f).apply s).ctxs = s.ctxs := rfl
@[simp] theorem apply_poison_cores : ((Micro.poison f).apply s).cores = s.cores := rfl
@[simp] theorem apply_poison_clusters : ((Micro.poison f).apply s).clusters = s.clusters := rfl
@[simp] theorem apply_poison_dies : ((Micro.poison f).apply s).dies = s.dies := rfl
@[simp] theorem apply_poison_atolls : ((Micro.poison f).apply s).atolls = s.atolls := rfl
@[simp] theorem apply_poison_wgs : ((Micro.poison f).apply s).wgs = s.wgs := rfl
@[simp] theorem apply_poison_fl : ((Micro.poison f).apply s).fl = s.fl := rfl
@[simp] theorem apply_poison_ca : ((Micro.poison f).apply s).ca = s.ca := rfl
@[simp] theorem apply_poison_sys : ((Micro.poison f).apply s).sys = s.sys := rfl
@[simp] theorem apply_poison_cur : ((Micro.poison f).apply s).cur = s.cur := rfl
@[simp] theorem apply_poison_pre : ((Micro.poison f).apply s).pre = s.pre := rfl
@[simp] theorem apply_poison_fcq : ((Micro.poison f).apply s).fcq = s.fcq := rfl
@[simp] theorem apply_poison_agenda : ((Micro.poison f).apply s).agenda = s.agenda := rfl
@[simp] theorem apply_poison_fresh : ((Micro.poison f).apply s).fresh = s.fresh := rfl
@[simp] theorem apply_poison_thread (j : Nat) : ((Micro.poison f).apply s).thread j = s.thread j := rfl
@[simp] theorem apply_poison_ctx (j : Nat) : ((Micro.poison f).apply s).ctx j = s.ctx j := rfl
@[simp] theorem apply_poison_core (j : Nat) : ((Micro.poison f).apply s).core j = s.core j := rfl
@[simp] theorem apply_poison_cluster (j : Nat) : ((Micro.poison f).apply s).cluster j = s.cluster j := rfl
@[simp] theorem apply_poison_die (j : Nat) : ((Micro.poison f).apply s).die j = s.die j := rfl
@[simp] theorem apply_poison_atoll (j : Nat) : ((Micro.poison f).apply s).atoll j = s.atoll j := rfl
@[simp] theorem apply_poison_wg (j : Nat) : ((Micro.poison f).apply s).wg j = s.wg j := rfl
@[simp] theorem apply_poison_op (j : Nat) : ((Micro.poison f).apply s).op j = s.op j := rfl
@[simp] theorem apply_poison_req (j : Nat) : ((Micro.poison f).apply s).req j = s.req j := rfl
@[simp] theorem apply_poison_copy (j : Nat) : ((Micro.poison f).apply s).copy j = s.copy j := rfl
@[simp] theorem apply_poison_fault (j : Nat) : ((Micro.poison f).apply s).fault j = s.fault j := rfl
@[simp] theorem apply_poison_trap (j : Nat) : ((Micro.poison f).apply s).trap j = s.trap j := rfl
@[simp] theorem apply_poison_byte (j : Nat) : ((Micro.poison f).apply s).byte j = s.byte j := rfl
@[simp] theorem apply_poison_self : ((Micro.poison f).apply s).poison = f s.poison := rfl
end

section
variable (p : Nat → Bool) (s : State)
@[simp] theorem apply_clear_poison : ((Micro.clear p).apply s).poison = s.poison := rfl
@[simp] theorem apply_clear_threads : ((Micro.clear p).apply s).threads = s.threads := rfl
@[simp] theorem apply_clear_ctxs : ((Micro.clear p).apply s).ctxs = s.ctxs := rfl
@[simp] theorem apply_clear_cores : ((Micro.clear p).apply s).cores = s.cores := rfl
@[simp] theorem apply_clear_clusters : ((Micro.clear p).apply s).clusters = s.clusters := rfl
@[simp] theorem apply_clear_dies : ((Micro.clear p).apply s).dies = s.dies := rfl
@[simp] theorem apply_clear_atolls : ((Micro.clear p).apply s).atolls = s.atolls := rfl
@[simp] theorem apply_clear_wgs : ((Micro.clear p).apply s).wgs = s.wgs := rfl
@[simp] theorem apply_clear_fl : ((Micro.clear p).apply s).fl = s.fl := rfl
@[simp] theorem apply_clear_ca : ((Micro.clear p).apply s).ca = s.ca := rfl
@[simp] theorem apply_clear_sys : ((Micro.clear p).apply s).sys = s.sys := rfl
@[simp] theorem apply_clear_cur : ((Micro.clear p).apply s).cur = s.cur := rfl
@[simp] theorem apply_clear_pre : ((Micro.clear p).apply s).pre = s.pre := rfl
@[simp] theorem apply_clear_fcq : ((Micro.clear p).apply s).fcq = s.fcq := rfl
@[simp] theorem apply_clear_agenda : ((Micro.clear p).apply s).agenda = s.agenda := rfl
@[simp] theorem apply_clear_fresh : ((Micro.clear p).apply s).fresh = s.fresh := rfl
@[simp] theorem apply_clear_thread (j : Nat) : ((Micro.clear p).apply s).thread j = s.thread j := rfl
@[simp] theorem apply_clear_ctx (j : Nat) : ((Micro.clear p).apply s).ctx j = s.ctx j := rfl
@[simp] theorem apply_clear_core (j : Nat) : ((Micro.clear p).apply s).core j = s.core j := rfl
@[simp] theorem apply_clear_cluster (j : Nat) : ((Micro.clear p).apply s).cluster j = s.cluster j := rfl
@[simp] theorem apply_clear_die (j : Nat) : ((Micro.clear p).apply s).die j = s.die j := rfl
@[simp] theorem apply_clear_atoll (j : Nat) : ((Micro.clear p).apply s).atoll j = s.atoll j := rfl
@[simp] theorem apply_clear_wg (j : Nat) : ((Micro.clear p).apply s).wg j = s.wg j := rfl
@[simp] theorem apply_clear_op (j : Nat) : ((Micro.clear p).apply s).op j = s.op j := rfl
@[simp] theorem apply_clear_req (j : Nat) : ((Micro.clear p).apply s).req j = s.req j := rfl
@[simp] theorem apply_clear_copy (j : Nat) : ((Micro.clear p).apply s).copy j = s.copy j := rfl
@[simp] theorem apply_clear_fault (j : Nat) : ((Micro.clear p).apply s).fault j = s.fault j := rfl
@[simp] theorem apply_clear_trap (j : Nat) : ((Micro.clear p).apply s).trap j = s.trap j := rfl
theorem apply_clear_mem : ((Micro.clear p).apply s).mem = dropKeys p s.mem := rfl
end

section
variable (f : Caches → Caches) (s : State)
@[simp] theorem apply_caches_mem : ((Micro.caches f).apply s).mem = s.mem := rfl
@[simp] theorem apply_caches_poison : ((Micro.caches f).apply s).poison = s.poison := rfl
@[simp] theorem apply_caches_threads : ((Micro.caches f).apply s).threads = s.threads := rfl
@[simp] theorem apply_caches_ctxs : ((Micro.caches f).apply s).ctxs = s.ctxs := rfl
@[simp] theorem apply_caches_cores : ((Micro.caches f).apply s).cores = s.cores := rfl
@[simp] theorem apply_caches_clusters : ((Micro.caches f).apply s).clusters = s.clusters := rfl
@[simp] theorem apply_caches_dies : ((Micro.caches f).apply s).dies = s.dies := rfl
@[simp] theorem apply_caches_atolls : ((Micro.caches f).apply s).atolls = s.atolls := rfl
@[simp] theorem apply_caches_wgs : ((Micro.caches f).apply s).wgs = s.wgs := rfl
@[simp] theorem apply_caches_fl : ((Micro.caches f).apply s).fl = s.fl := rfl
@[simp] theorem apply_caches_sys : ((Micro.caches f).apply s).sys = s.sys := rfl
@[simp] theorem apply_caches_cur : ((Micro.caches f).apply s).cur = s.cur := rfl
@[simp] theorem apply_caches_pre : ((Micro.caches f).apply s).pre = s.pre := rfl
@[simp] theorem apply_caches_fcq : ((Micro.caches f).apply s).fcq = s.fcq := rfl
@[simp] theorem apply_caches_agenda : ((Micro.caches f).apply s).agenda = s.agenda := rfl
@[simp] theorem apply_caches_fresh : ((Micro.caches f).apply s).fresh = s.fresh := rfl
@[simp] theorem apply_caches_thread (j : Nat) : ((Micro.caches f).apply s).thread j = s.thread j := rfl
@[simp] theorem apply_caches_ctx (j : Nat) : ((Micro.caches f).apply s).ctx j = s.ctx j := rfl
@[simp] theorem apply_caches_core (j : Nat) : ((Micro.caches f).apply s).core j = s.core j := rfl
@[simp] theorem apply_caches_cluster (j : Nat) : ((Micro.caches f).apply s).cluster j = s.cluster j := rfl
@[simp] theorem apply_caches_die (j : Nat) : ((Micro.caches f).apply s).die j = s.die j := rfl
@[simp] theorem apply_caches_atoll (j : Nat) : ((Micro.caches f).apply s).atoll j = s.atoll j := rfl
@[simp] theorem apply_caches_wg (j : Nat) : ((Micro.caches f).apply s).wg j = s.wg j := rfl
@[simp] theorem apply_caches_op (j : Nat) : ((Micro.caches f).apply s).op j = s.op j := rfl
@[simp] theorem apply_caches_req (j : Nat) : ((Micro.caches f).apply s).req j = s.req j := rfl
@[simp] theorem apply_caches_copy (j : Nat) : ((Micro.caches f).apply s).copy j = s.copy j := rfl
@[simp] theorem apply_caches_fault (j : Nat) : ((Micro.caches f).apply s).fault j = s.fault j := rfl
@[simp] theorem apply_caches_trap (j : Nat) : ((Micro.caches f).apply s).trap j = s.trap j := rfl
@[simp] theorem apply_caches_byte (j : Nat) : ((Micro.caches f).apply s).byte j = s.byte j := rfl
@[simp] theorem apply_caches_self : ((Micro.caches f).apply s).ca = f s.ca := rfl
end

section
variable (f : Sys → Sys) (s : State)
@[simp] theorem apply_sys_mem : ((Micro.sys f).apply s).mem = s.mem := rfl
@[simp] theorem apply_sys_poison : ((Micro.sys f).apply s).poison = s.poison := rfl
@[simp] theorem apply_sys_threads : ((Micro.sys f).apply s).threads = s.threads := rfl
@[simp] theorem apply_sys_ctxs : ((Micro.sys f).apply s).ctxs = s.ctxs := rfl
@[simp] theorem apply_sys_cores : ((Micro.sys f).apply s).cores = s.cores := rfl
@[simp] theorem apply_sys_clusters : ((Micro.sys f).apply s).clusters = s.clusters := rfl
@[simp] theorem apply_sys_dies : ((Micro.sys f).apply s).dies = s.dies := rfl
@[simp] theorem apply_sys_atolls : ((Micro.sys f).apply s).atolls = s.atolls := rfl
@[simp] theorem apply_sys_wgs : ((Micro.sys f).apply s).wgs = s.wgs := rfl
@[simp] theorem apply_sys_fl : ((Micro.sys f).apply s).fl = s.fl := rfl
@[simp] theorem apply_sys_ca : ((Micro.sys f).apply s).ca = s.ca := rfl
@[simp] theorem apply_sys_cur : ((Micro.sys f).apply s).cur = s.cur := rfl
@[simp] theorem apply_sys_pre : ((Micro.sys f).apply s).pre = s.pre := rfl
@[simp] theorem apply_sys_fcq : ((Micro.sys f).apply s).fcq = s.fcq := rfl
@[simp] theorem apply_sys_agenda : ((Micro.sys f).apply s).agenda = s.agenda := rfl
@[simp] theorem apply_sys_fresh : ((Micro.sys f).apply s).fresh = s.fresh := rfl
@[simp] theorem apply_sys_thread (j : Nat) : ((Micro.sys f).apply s).thread j = s.thread j := rfl
@[simp] theorem apply_sys_ctx (j : Nat) : ((Micro.sys f).apply s).ctx j = s.ctx j := rfl
@[simp] theorem apply_sys_core (j : Nat) : ((Micro.sys f).apply s).core j = s.core j := rfl
@[simp] theorem apply_sys_cluster (j : Nat) : ((Micro.sys f).apply s).cluster j = s.cluster j := rfl
@[simp] theorem apply_sys_die (j : Nat) : ((Micro.sys f).apply s).die j = s.die j := rfl
@[simp] theorem apply_sys_atoll (j : Nat) : ((Micro.sys f).apply s).atoll j = s.atoll j := rfl
@[simp] theorem apply_sys_wg (j : Nat) : ((Micro.sys f).apply s).wg j = s.wg j := rfl
@[simp] theorem apply_sys_op (j : Nat) : ((Micro.sys f).apply s).op j = s.op j := rfl
@[simp] theorem apply_sys_req (j : Nat) : ((Micro.sys f).apply s).req j = s.req j := rfl
@[simp] theorem apply_sys_copy (j : Nat) : ((Micro.sys f).apply s).copy j = s.copy j := rfl
@[simp] theorem apply_sys_fault (j : Nat) : ((Micro.sys f).apply s).fault j = s.fault j := rfl
@[simp] theorem apply_sys_trap (j : Nat) : ((Micro.sys f).apply s).trap j = s.trap j := rfl
@[simp] theorem apply_sys_byte (j : Nat) : ((Micro.sys f).apply s).byte j = s.byte j := rfl
@[simp] theorem apply_sys_self : ((Micro.sys f).apply s).sys = f s.sys := rfl
end

section
variable (f : List Happening → List Happening) (s : State)
@[simp] theorem apply_agenda_mem : ((Micro.agenda f).apply s).mem = s.mem := rfl
@[simp] theorem apply_agenda_poison : ((Micro.agenda f).apply s).poison = s.poison := rfl
@[simp] theorem apply_agenda_threads : ((Micro.agenda f).apply s).threads = s.threads := rfl
@[simp] theorem apply_agenda_ctxs : ((Micro.agenda f).apply s).ctxs = s.ctxs := rfl
@[simp] theorem apply_agenda_cores : ((Micro.agenda f).apply s).cores = s.cores := rfl
@[simp] theorem apply_agenda_clusters : ((Micro.agenda f).apply s).clusters = s.clusters := rfl
@[simp] theorem apply_agenda_dies : ((Micro.agenda f).apply s).dies = s.dies := rfl
@[simp] theorem apply_agenda_atolls : ((Micro.agenda f).apply s).atolls = s.atolls := rfl
@[simp] theorem apply_agenda_wgs : ((Micro.agenda f).apply s).wgs = s.wgs := rfl
@[simp] theorem apply_agenda_fl : ((Micro.agenda f).apply s).fl = s.fl := rfl
@[simp] theorem apply_agenda_ca : ((Micro.agenda f).apply s).ca = s.ca := rfl
@[simp] theorem apply_agenda_sys : ((Micro.agenda f).apply s).sys = s.sys := rfl
@[simp] theorem apply_agenda_cur : ((Micro.agenda f).apply s).cur = s.cur := rfl
@[simp] theorem apply_agenda_pre : ((Micro.agenda f).apply s).pre = s.pre := rfl
@[simp] theorem apply_agenda_fcq : ((Micro.agenda f).apply s).fcq = s.fcq := rfl
@[simp] theorem apply_agenda_fresh : ((Micro.agenda f).apply s).fresh = s.fresh := rfl
@[simp] theorem apply_agenda_thread (j : Nat) : ((Micro.agenda f).apply s).thread j = s.thread j := rfl
@[simp] theorem apply_agenda_ctx (j : Nat) : ((Micro.agenda f).apply s).ctx j = s.ctx j := rfl
@[simp] theorem apply_agenda_core (j : Nat) : ((Micro.agenda f).apply s).core j = s.core j := rfl
@[simp] theorem apply_agenda_cluster (j : Nat) : ((Micro.agenda f).apply s).cluster j = s.cluster j := rfl
@[simp] theorem apply_agenda_die (j : Nat) : ((Micro.agenda f).apply s).die j = s.die j := rfl
@[simp] theorem apply_agenda_atoll (j : Nat) : ((Micro.agenda f).apply s).atoll j = s.atoll j := rfl
@[simp] theorem apply_agenda_wg (j : Nat) : ((Micro.agenda f).apply s).wg j = s.wg j := rfl
@[simp] theorem apply_agenda_op (j : Nat) : ((Micro.agenda f).apply s).op j = s.op j := rfl
@[simp] theorem apply_agenda_req (j : Nat) : ((Micro.agenda f).apply s).req j = s.req j := rfl
@[simp] theorem apply_agenda_copy (j : Nat) : ((Micro.agenda f).apply s).copy j = s.copy j := rfl
@[simp] theorem apply_agenda_fault (j : Nat) : ((Micro.agenda f).apply s).fault j = s.fault j := rfl
@[simp] theorem apply_agenda_trap (j : Nat) : ((Micro.agenda f).apply s).trap j = s.trap j := rfl
@[simp] theorem apply_agenda_byte (j : Nat) : ((Micro.agenda f).apply s).byte j = s.byte j := rfl
@[simp] theorem apply_agenda_self : ((Micro.agenda f).apply s).agenda = f s.agenda := rfl
end

section
variable (p : Option (Nat × Regs)) (q : List Issue) (s : State)
@[simp] theorem apply_fc_mem : ((Micro.fc p q).apply s).mem = s.mem := rfl
@[simp] theorem apply_fc_poison : ((Micro.fc p q).apply s).poison = s.poison := rfl
@[simp] theorem apply_fc_threads : ((Micro.fc p q).apply s).threads = s.threads := rfl
@[simp] theorem apply_fc_ctxs : ((Micro.fc p q).apply s).ctxs = s.ctxs := rfl
@[simp] theorem apply_fc_cores : ((Micro.fc p q).apply s).cores = s.cores := rfl
@[simp] theorem apply_fc_clusters : ((Micro.fc p q).apply s).clusters = s.clusters := rfl
@[simp] theorem apply_fc_dies : ((Micro.fc p q).apply s).dies = s.dies := rfl
@[simp] theorem apply_fc_atolls : ((Micro.fc p q).apply s).atolls = s.atolls := rfl
@[simp] theorem apply_fc_wgs : ((Micro.fc p q).apply s).wgs = s.wgs := rfl
@[simp] theorem apply_fc_fl : ((Micro.fc p q).apply s).fl = s.fl := rfl
@[simp] theorem apply_fc_ca : ((Micro.fc p q).apply s).ca = s.ca := rfl
@[simp] theorem apply_fc_sys : ((Micro.fc p q).apply s).sys = s.sys := rfl
@[simp] theorem apply_fc_cur : ((Micro.fc p q).apply s).cur = s.cur := rfl
@[simp] theorem apply_fc_agenda : ((Micro.fc p q).apply s).agenda = s.agenda := rfl
@[simp] theorem apply_fc_fresh : ((Micro.fc p q).apply s).fresh = s.fresh := rfl
@[simp] theorem apply_fc_thread (j : Nat) : ((Micro.fc p q).apply s).thread j = s.thread j := rfl
@[simp] theorem apply_fc_ctx (j : Nat) : ((Micro.fc p q).apply s).ctx j = s.ctx j := rfl
@[simp] theorem apply_fc_core (j : Nat) : ((Micro.fc p q).apply s).core j = s.core j := rfl
@[simp] theorem apply_fc_cluster (j : Nat) : ((Micro.fc p q).apply s).cluster j = s.cluster j := rfl
@[simp] theorem apply_fc_die (j : Nat) : ((Micro.fc p q).apply s).die j = s.die j := rfl
@[simp] theorem apply_fc_atoll (j : Nat) : ((Micro.fc p q).apply s).atoll j = s.atoll j := rfl
@[simp] theorem apply_fc_wg (j : Nat) : ((Micro.fc p q).apply s).wg j = s.wg j := rfl
@[simp] theorem apply_fc_op (j : Nat) : ((Micro.fc p q).apply s).op j = s.op j := rfl
@[simp] theorem apply_fc_req (j : Nat) : ((Micro.fc p q).apply s).req j = s.req j := rfl
@[simp] theorem apply_fc_copy (j : Nat) : ((Micro.fc p q).apply s).copy j = s.copy j := rfl
@[simp] theorem apply_fc_fault (j : Nat) : ((Micro.fc p q).apply s).fault j = s.fault j := rfl
@[simp] theorem apply_fc_trap (j : Nat) : ((Micro.fc p q).apply s).trap j = s.trap j := rfl
@[simp] theorem apply_fc_byte (j : Nat) : ((Micro.fc p q).apply s).byte j = s.byte j := rfl
@[simp] theorem apply_fc_pre : ((Micro.fc p q).apply s).pre = p := rfl
@[simp] theorem apply_fc_fcq : ((Micro.fc p q).apply s).fcq = q := rfl
end

section
variable (n : Nat) (s : State)
@[simp] theorem apply_fresh_mem : ((Micro.fresh n).apply s).mem = s.mem := rfl
@[simp] theorem apply_fresh_poison : ((Micro.fresh n).apply s).poison = s.poison := rfl
@[simp] theorem apply_fresh_threads : ((Micro.fresh n).apply s).threads = s.threads := rfl
@[simp] theorem apply_fresh_ctxs : ((Micro.fresh n).apply s).ctxs = s.ctxs := rfl
@[simp] theorem apply_fresh_cores : ((Micro.fresh n).apply s).cores = s.cores := rfl
@[simp] theorem apply_fresh_clusters : ((Micro.fresh n).apply s).clusters = s.clusters := rfl
@[simp] theorem apply_fresh_dies : ((Micro.fresh n).apply s).dies = s.dies := rfl
@[simp] theorem apply_fresh_atolls : ((Micro.fresh n).apply s).atolls = s.atolls := rfl
@[simp] theorem apply_fresh_wgs : ((Micro.fresh n).apply s).wgs = s.wgs := rfl
@[simp] theorem apply_fresh_fl : ((Micro.fresh n).apply s).fl = s.fl := rfl
@[simp] theorem apply_fresh_ca : ((Micro.fresh n).apply s).ca = s.ca := rfl
@[simp] theorem apply_fresh_sys : ((Micro.fresh n).apply s).sys = s.sys := rfl
@[simp] theorem apply_fresh_cur : ((Micro.fresh n).apply s).cur = s.cur := rfl
@[simp] theorem apply_fresh_pre : ((Micro.fresh n).apply s).pre = s.pre := rfl
@[simp] theorem apply_fresh_fcq : ((Micro.fresh n).apply s).fcq = s.fcq := rfl
@[simp] theorem apply_fresh_agenda : ((Micro.fresh n).apply s).agenda = s.agenda := rfl
@[simp] theorem apply_fresh_thread (j : Nat) : ((Micro.fresh n).apply s).thread j = s.thread j := rfl
@[simp] theorem apply_fresh_ctx (j : Nat) : ((Micro.fresh n).apply s).ctx j = s.ctx j := rfl
@[simp] theorem apply_fresh_core (j : Nat) : ((Micro.fresh n).apply s).core j = s.core j := rfl
@[simp] theorem apply_fresh_cluster (j : Nat) : ((Micro.fresh n).apply s).cluster j = s.cluster j := rfl
@[simp] theorem apply_fresh_die (j : Nat) : ((Micro.fresh n).apply s).die j = s.die j := rfl
@[simp] theorem apply_fresh_atoll (j : Nat) : ((Micro.fresh n).apply s).atoll j = s.atoll j := rfl
@[simp] theorem apply_fresh_wg (j : Nat) : ((Micro.fresh n).apply s).wg j = s.wg j := rfl
@[simp] theorem apply_fresh_op (j : Nat) : ((Micro.fresh n).apply s).op j = s.op j := rfl
@[simp] theorem apply_fresh_req (j : Nat) : ((Micro.fresh n).apply s).req j = s.req j := rfl
@[simp] theorem apply_fresh_copy (j : Nat) : ((Micro.fresh n).apply s).copy j = s.copy j := rfl
@[simp] theorem apply_fresh_fault (j : Nat) : ((Micro.fresh n).apply s).fault j = s.fault j := rfl
@[simp] theorem apply_fresh_trap (j : Nat) : ((Micro.fresh n).apply s).trap j = s.trap j := rfl
@[simp] theorem apply_fresh_byte (j : Nat) : ((Micro.fresh n).apply s).byte j = s.byte j := rfl
@[simp] theorem apply_fresh_self : ((Micro.fresh n).apply s).fresh = s.fresh + n := rfl
end

section
variable (s : State)
@[simp] theorem apply_forget_mem : (Micro.forget.apply s).mem = s.mem := rfl
@[simp] theorem apply_forget_poison : (Micro.forget.apply s).poison = s.poison := rfl
@[simp] theorem apply_forget_ca : (Micro.forget.apply s).ca = s.ca := rfl
@[simp] theorem apply_forget_sys : (Micro.forget.apply s).sys = s.sys := rfl
@[simp] theorem apply_forget_agenda : (Micro.forget.apply s).agenda = s.agenda := rfl
@[simp] theorem apply_forget_fresh : (Micro.forget.apply s).fresh = s.fresh := rfl
@[simp] theorem apply_forget_byte (j : Nat) : (Micro.forget.apply s).byte j = s.byte j := rfl
end

/-! ### Composition -/

@[simp] theorem applyAll_nil (s : State) : applyAll [] s = s := rfl
@[simp] theorem applyAll_cons (u : Micro) (us : List Micro) (s : State) : applyAll (u :: us) s = applyAll us (u.apply s) := rfl

theorem applyAll_append (us vs : List Micro) (s : State) : applyAll (us ++ vs) s = applyAll vs (applyAll us s) := by
  induction us generalizing s with
  | nil => rfl
  | cons u us ih => exact ih (u.apply s)

@[simp] theorem run_nil (s : State) : run [] s = s := rfl
@[simp] theorem run_cons (p : Phase) (ps : List Phase) (s : State) : run (p :: ps) s = run ps (applyAll (p s) s) := rfl

theorem run_append (ps qs : List Phase) (s : State) : run (ps ++ qs) s = run qs (run ps s) := by
  induction ps generalizing s with
  | nil => rfl
  | cons p ps ih => exact ih (applyAll (p s) s)

/-- A property that every update of a list keeps holds after the list. -/
theorem applyAll_keeps (P : State → Prop) (us : List Micro) (h : ∀ u ∈ us, ∀ s, P s → P (u.apply s)) (s : State) (hs : P s) :
    P (applyAll us s) := by
  induction us generalizing s with
  | nil => exact hs
  | cons u us ih => exact ih (fun v hv => h v (List.mem_cons_of_mem u hv)) _ (h u List.mem_cons_self s hs)

/-- A property that every update keeps holds after any phases. -/
theorem run_keeps (P : State → Prop) (h : ∀ (u : Micro) (s : State), P s → P (u.apply s)) (ps : List Phase) (s : State) (hs : P s) :
    P (run ps s) := by
  induction ps generalizing s with
  | nil => exact hs
  | cons p ps ih => exact ih _ (applyAll_keeps P (p s) (fun u _ => h u) s hs)

end Sys2Proof.Machine
end

