-- ==== Sys2Proof/Laws/Memory.lean ====
section
/-! SUPPORT. Memory and the canonical form: reading bytes after writing them, and that every update, and with it every
shared operation, keeps the form. -/

namespace Sys2Proof.Machine

/-- Reading one byte after one write. -/
theorem byte_put (m : Sparse Byte) (k j : Nat) (b : Byte) :
    look State.unwritten (put State.unwritten m k b) j = if k = j then b else look State.unwritten m j := look_put _ _ _ _ _

/-- A byte at no written key is as before. -/
theorem look_putBytes_other (m : Sparse Byte) (l : List (Nat × Byte)) (j : Nat) (h : ∀ e ∈ l, e.1 ≠ j) :
    look State.unwritten (putBytes m l) j = look State.unwritten m j := by
  induction l generalizing m with
  | nil => rfl
  | cons e l ih =>
    rw [putBytes, ih _ fun x hx => h x (List.mem_cons_of_mem e hx), look_put_other _ _ _ (h e List.mem_cons_self)]

@[simp] theorem memoryWf_put (m : Sparse Byte) (k : Nat) (b : Byte) (h : Memory.wf m = true) :
    Memory.wf (put State.unwritten m k b) = true := sparseWf_put _ _ _ _ h

/-- Writing bytes keeps the canonical form. -/
theorem memoryWf_putBytes (m : Sparse Byte) (l : List (Nat × Byte)) (h : Memory.wf m = true) :
    Memory.wf (putBytes m l) = true := by
  induction l generalizing m with
  | nil => exact h
  | cons e l ih => exact ih _ (memoryWf_put m e.1 e.2 h)

/-- Every update keeps the canonical form of memory. -/
theorem memoryWf_apply (u : Micro) (s : State) (h : Memory.wf s.mem = true) : Memory.wf (u.apply s).mem = true := by
  cases u with
  | bytes l => exact memoryWf_putBytes _ l h
  | clear p => exact sparseWf_dropKeys _ p _ h
  | _ => exact h

/-- The machine after reset has the canonical form. -/
theorem reset_wf : State.reset.wf = true := rfl

end Sys2Proof.Machine
end

