-- ==== Sys2Proof/Laws/Issue.lean ====
section
/-! SUPPORT. What the shared operations of an issue do: what an instruction that runs leaves, what counting it changes,
and that properties which every update keeps hold after it. -/

namespace Sys2Proof.Machine

open Sys2Proof.Safety

/-- An instruction that runs leaves its own effect, its pops and what its writes do to the Reef array. -/
theorem issue_leaves {sh : Shape} {body : Issue → State → List Phase} {a : Ahead} {ready : Issue → State → Bool}
    {first : Issue → State → Bool} {iss : Issue} {s : State} (h : runsNow sh ready iss s) (hf : first iss s = false := by rfl) :
    issue sh body a ready s first = .next (taken (settle iss.thr
      (run (((fun s => countIssue s iss sh) :: body iss s) ++ [fun _ => follows s iss sh]) s))) := by
  obtain ⟨h1, h2, h3, h4, h5, h6, h7⟩ := h
  simp only [issue, afterIssue, h1, h2, h3, h4, h5, h6, h7, hf, runThread, andThen]
  rfl

/-! ### Counting (R386) -/

/-- Nothing but event counters, ISTAT, messages sent and the telemetry's numbers differs. -/
structure Counted (s u : State) : Prop where
  mem : u.mem = s.mem
  poison : u.poison = s.poison
  threads : u.threads = s.threads
  cores : u.cores = s.cores
  clusters : u.clusters = s.clusters
  die : ∀ d, untold (u.die d) = untold (s.die d)
  atolls : u.atolls = s.atolls
  wgs : u.wgs = s.wgs
  fl : u.fl = s.fl
  ca : u.ca = s.ca
  cur : u.cur = s.cur
  pre : u.pre = s.pre
  fcq : u.fcq = s.fcq
  agenda : u.agenda = s.agenda
  fresh : u.fresh = s.fresh
  ctx : ∀ n, uncounted (u.ctx n) = uncounted (s.ctx n)
  sys : unsent u.sys = unsent s.sys

theorem Counted.refl (s : State) : Counted s s := by constructor <;> intros <;> rfl

theorem Counted.trans {s u v : State} (h : Counted s u) (g : Counted u v) : Counted s v := by
  constructor
  case ctx => exact fun n => (g.ctx n).trans (h.ctx n)
  case sys => exact g.sys.trans h.sys
  case die => exact fun d => (g.die d).trans (h.die d)
  all_goals first
    | exact g.mem.trans h.mem | exact g.poison.trans h.poison | exact g.threads.trans h.threads | exact g.cores.trans h.cores
    | exact g.clusters.trans h.clusters | exact g.atolls.trans h.atolls | exact g.wgs.trans h.wgs
    | exact g.fl.trans h.fl | exact g.ca.trans h.ca | exact g.cur.trans h.cur | exact g.pre.trans h.pre
    | exact g.fcq.trans h.fcq | exact g.agenda.trans h.agenda | exact g.fresh.trans h.fresh

/-- An update that only counts. -/
theorem counted_ctx (s : State) (n : Nat) (f : Ctx → Ctx) (h : ∀ c, uncounted (f c) = uncounted c) :
    Counted s ((Micro.ctx n f).apply s) := by
  constructor
  case ctx =>
    intro j
    rw [apply_ctx_at]
    split
    · subst_vars; exact h _
    · rfl
  all_goals intros; rfl

theorem counted_send (s : State) (m : Sent) : Counted s ((send m).apply s) := by constructor <;> intros <;> rfl

theorem counted_signal (v s : State) (n bit : Nat) : Counted s (applyAll (signal v n bit) s) := by
  simp only [signal, applyAll_cons]
  have h := counted_ctx s n (fun c => { c with istat := c.istat ||| 2 ^ bit }) fun _ => rfl
  split
  · exact h.trans (counted_send _ _)
  · exact h

theorem counted_die (s : State) (n : Nat) (f : Die → Die) (h : ∀ d, untold (f d) = untold d) :
    Counted s ((Micro.die n f).apply s) := by
  constructor
  case die =>
    intro j
    rw [apply_die_at]
    split
    · subst_vars; exact h _
    · rfl
  all_goals intros; rfl

theorem Counted.all {ms : List Micro} {s : State} (h : ∀ m ∈ ms, ∀ u, Counted u (m.apply u)) : Counted s (applyAll ms s) := by
  induction ms generalizing s with
  | nil => exact Counted.refl s
  | cons m ms ih =>
    rw [applyAll_cons]
    exact (h m (by simp) s).trans (ih fun x hx => h x (by simp [hx]))

theorem counted_notes (v s : State) (n : Nat) (es : List (Nat × Nat)) :
    Counted s (applyAll (es.flatMap fun e => noteOverflow v n e.1 e.2) s) := by
  refine Counted.all fun m hm u => ?_
  obtain ⟨e, -, he⟩ := List.mem_flatMap.mp hm
  simp only [noteOverflow] at he
  split at he <;> simp only [List.mem_cons, List.not_mem_nil, or_false] at he
  · exact he ▸ counted_die _ _ _ fun _ => rfl
  · obtain rfl | rfl := he
    · exact counted_send _ _
    · exact counted_die _ _ _ fun _ => rfl

theorem counted_count (v s : State) (c k n l : Nat) : Counted s (applyAll (count v c k n l) s) := by
  simp only [count]
  split
  · rw [applyAll_cons]
    refine (counted_ctx s c (fun x => { x with counters := (List.range 8).foldl (fun m i => put {} m i ((look {} m i).add k n l)) x.counters })
      fun _ => rfl).trans ?_
    split
    · exact Counted.refl _
    · rw [applyAll_append]
      exact (counted_signal _ _ _ _).trans (counted_notes _ _ _ _)
  · exact Counted.refl s

/-- Counting an issue changes nothing but counters and what they signal. -/
theorem counted_issue (v s : State) (iss : Issue) (sh : Shape) : Counted s (applyAll (countIssue v iss sh) s) := by
  simp only [countIssue]
  split
  · rw [applyAll_append]
    exact (counted_count _ _ _ _ _ _).trans (counted_count _ _ _ _ _ _)
  · exact Counted.refl s

theorem Counted.thread {s u : State} (h : Counted s u) (k : Nat) : u.thread k = s.thread k := by
  simp only [State.thread, h.threads]

/-- A thread's change after counting leaves everything else. -/
theorem Counted.others_thread {s v u : State} (h : Counted s v) {k : Nat} {f : Thread → Thread}
    (hu : u = (Micro.thread k f).apply v) : others k s u := by
  subst hu
  refine ⟨h.mem, h.poison, h.ca, h.fl, h.cores, h.clusters, h.die, h.atolls, h.wgs, h.agenda, h.fcq, fun j hj => ?_, h.ctx, h.sys⟩
  rw [apply_thread_at, if_neg (Ne.symm hj), h.thread]

end Sys2Proof.Machine
end

