-- ==== Sys2Proof/Laws/Access.lean ====
section
/-! SUPPORT. What translating addresses for an access leaves: TLB fills with their leases, and A and D bits of leaves;
nothing else but the count of a walk. -/

namespace Sys2Proof.Machine

open Sys2Proof.Safety

/-- What the translation of an address may have changed (R174, R221). -/
structure Took (who : Who) (write : Bool) (va : Nat) (s t : State) : Prop where
  poison : t.poison = s.poison
  threads : t.threads = s.threads
  cores : t.cores = s.cores
  clusters : t.clusters = s.clusters
  die : ∀ d, untold (t.die d) = untold (s.die d)
  atolls : t.atolls = s.atolls
  wgs : t.wgs = s.wgs
  fl : t.fl = s.fl
  cur : t.cur = s.cur
  pre : t.pre = s.pre
  agenda : t.agenda = s.agenda
  fcq : t.fcq = s.fcq
  fresh : t.fresh = s.fresh
  ctx : ∀ n, uncounted (t.ctx n) = uncounted (s.ctx n)
  sys : unsent t.sys = unsent s.sys
  ca : t.ca = { s.ca with tlb := t.ca.tlb, leases := t.ca.leases, walks := t.ca.walks }
  byte : ∀ k, t.byte k = s.byte k ∨ ∃ p, pageOf s who { va } va write = .ok p
    ∧ k ∈ (leafBits (accessBits write) p).map (·.1)
    ∧ t.byte k = s.byte k ||| orMask (leafBits (accessBits write) p) k

/-- A byte after bits are set in bytes of memory, each byte once or more from the same old value. -/
theorem look_leaves (s : State) (m : Sparse Byte) (l : List (Nat × Nat)) (f : Nat → Byte) (k : Nat) :
    look State.unwritten (putBytes m (l.map fun e => (e.1, s.byte e.1 ||| f e.1))) k
      = if k ∈ l.map (·.1) then s.byte k ||| f k else look State.unwritten m k := by
  induction l generalizing m with
  | nil => simp [putBytes]
  | cons e l ih =>
    rw [List.map_cons, putBytes, ih, byte_put]
    by_cases h : e.1 = k
    · simp [h]
    · simp only [h, if_false, List.map_cons, List.mem_cons, Ne.symm h, false_or]

theorem Took.refl (who : Who) (write : Bool) (va : Nat) (s : State) : Took who write va s s := by
  constructor
  case byte => exact fun _ => .inl rfl
  all_goals intros; rfl

/-- Counting after a translation leaves what the translation left. -/
theorem Took.counted {who : Who} {write : Bool} {va : Nat} {s t u : State} (h : Took who write va s t) (g : Counted t u) :
    Took who write va s u where
  poison := g.poison.trans h.poison
  threads := g.threads.trans h.threads
  cores := g.cores.trans h.cores
  clusters := g.clusters.trans h.clusters
  die := fun d => (g.die d).trans (h.die d)
  atolls := g.atolls.trans h.atolls
  wgs := g.wgs.trans h.wgs
  fl := g.fl.trans h.fl
  cur := g.cur.trans h.cur
  pre := g.pre.trans h.pre
  agenda := g.agenda.trans h.agenda
  fcq := g.fcq.trans h.fcq
  fresh := g.fresh.trans h.fresh
  ctx := fun n => (g.ctx n).trans (h.ctx n)
  sys := g.sys.trans h.sys
  ca := by rw [g.ca]; exact h.ca
  byte := fun k => by
    have hb : u.byte k = t.byte k := by simp only [State.byte, g.mem]
    rw [hb]
    exact h.byte k

theorem leases_only (c : Caches) (ls : List Nat) (e : Nat → Nat) :
    ls.foldl (fun c l => c.lease l (e l)) c = { c with leases := (ls.foldl (fun c l => c.lease l (e l)) c).leases } := by
  induction ls generalizing c with
  | nil => rfl
  | cons l ls ih =>
    rw [List.foldl_cons]
    exact ih (c.lease l (e l))

theorem walked_only (c : Caches) (s : State) (t : Trail) :
    c.walked s t = { c with leases := (c.walked s t).leases, walks := (c.walked s t).walks } := by
  simp only [Caches.walked]
  rw [leases_only]

/-- A change of TLB entries, leases and walk-cache entries. -/
theorem Took.caches {who : Who} {write : Bool} {va : Nat} {s t : State} (h : Took who write va s t) {f : Caches → Caches}
    (hf : ∀ c, ∃ x l w, f c = { c with tlb := x, leases := l, walks := w }) : Took who write va s ((Micro.caches f).apply t) := by
  obtain ⟨x, l, w, e⟩ := hf t.ca
  refine { h with ca := ?_ }
  simp only [apply_caches_self, e]
  rw [h.ca]

theorem tlbFill_leaves {who : Who} {write : Bool} {va : Nat} {s t : State} (h : Took who write va s t) (v : State) (p : Page) :
    Took who write va s ((tlbFill v who va p).apply t) :=
  h.caches fun c => ⟨_, _, _, by rw [Caches.setTlb, walked_only]⟩

/-- The bits of leaves, set. -/
theorem orLeaves_leaves {who : Who} {write : Bool} {va : Nat} {s : State} {p : Page} (h : pageOf s who { va } va write = .ok p) :
    Took who write va s (applyAll (orLeaves s (leafBits (accessBits write) p)) s) := by
  simp only [orLeaves]
  split
  · exact Took.refl _ _ _ _
  · constructor
    case byte =>
      intro k
      have hk := look_leaves s s.mem (leafBits (accessBits write) p) (orMask (leafBits (accessBits write) p)) k
      by_cases hm : k ∈ (leafBits (accessBits write) p).map (·.1)
      · exact .inr ⟨p, h, hm, hk.trans (if_pos hm)⟩
      · exact .inl (hk.trans (if_neg hm))
    all_goals intros; rfl

/-- What `touch` can do, said once (R174, R221, R370, R386). -/
theorem touch_leaves (who : Who) (write : Bool) (va : Nat) (s : State) :
    Took who write (va % 2 ^ 56) s (applyAll (touch s who va write) s) := by
  have walk : ∀ t : State, Took who write (va % 2 ^ 56) s t →
      Took who write (va % 2 ^ 56) s
        (applyAll (if (tlbFind s who (va % 2 ^ 56)).isNone then count s who.ctx 0x0E 1 who.launch else []) t) := by
    intro t ht
    split
    · exact ht.counted (counted_count _ _ _ _ _ _)
    · exact ht
  simp only [touch]
  split
  · exact Took.refl _ _ _ _
  · split
    · exact walk _ (Took.refl _ _ _ _)
    · next p hp =>
      rw [applyAll_append, applyAll_append]
      refine walk _ ?_
      have h := orLeaves_leaves hp
      split
      · exact tlbFill_leaves h _ _
      · split
        · exact h
        · exact h.caches fun c => ⟨_, _, _, rfl⟩

/-! ### Stores -/

theorem allBits_succ (n : Nat) : BitVec.ofNat 8 (allBits (n + 1)) = 0xFF#8 ∧ allBits (n + 1) / 256 = allBits n := by
  have h : 2 ^ (8 * (n + 1)) = 256 * 2 ^ (8 * n) := by rw [Nat.mul_add, Nat.pow_add]; omega
  have hp : 0 < 2 ^ (8 * n) := Nat.two_pow_pos _
  constructor
  · apply BitVec.eq_of_toNat_eq
    simp only [allBits, BitVec.toNat_ofNat, h]
    omega
  · simp only [allBits, h]
    omega

/-- A byte after all bits of `n` bytes are written. -/
theorem look_fullBytes (s : State) (m : Sparse Byte) (n key x k : Nat) :
    look State.unwritten (putBytes m (maskedBytes s key n (allBits n) x)) k
      = if key ≤ k ∧ k < key + n then BitVec.ofNat 8 (x / 256 ^ (k - key)) else look State.unwritten m k := by
  induction n generalizing m key x with
  | zero => rw [if_neg (by omega)]; rfl
  | succ n ih =>
    obtain ⟨h1, h2⟩ := allBits_succ n
    simp only [maskedBytes, h1, h2]
    rw [if_neg (by decide), putBytes, ih, byte_put]
    by_cases hk : key = k
    · subst hk
      rw [if_neg (by omega), if_pos rfl, if_pos (by omega), Nat.sub_self, Nat.pow_zero, Nat.div_one]
      generalize s.byte key = a
      generalize BitVec.ofNat 8 x = b
      rw [show ~~~255#8 = 0#8 from rfl, show 255#8 = BitVec.allOnes 8 from rfl, BitVec.and_zero, BitVec.zero_or,
        BitVec.and_allOnes]
    · by_cases hr : key + 1 ≤ k ∧ k < key + 1 + n
      · rw [if_pos hr, if_pos (by omega), Nat.div_div_eq_div_mul, show k - key = (k - (key + 1)) + 1 by omega, Nat.pow_succ,
          Nat.mul_comm 256]
      · rw [if_neg hr, if_neg hk, if_neg (by omega)]

/-- Nothing but memory, poison, the caches' records, migrations' and regions' dirty marks differs. -/
structure Stored (s t : State) : Prop where
  threads : t.threads = s.threads
  ctxs : t.ctxs = s.ctxs
  cores : t.cores = s.cores
  clusters : t.clusters = s.clusters
  dies : t.dies = s.dies
  atolls : t.atolls = s.atolls
  fl : t.fl = s.fl
  cur : t.cur = s.cur
  pre : t.pre = s.pre
  agenda : t.agenda = s.agenda
  fcq : t.fcq = s.fcq
  fresh : t.fresh = s.fresh
  ca : t.ca = { s.ca with versions := t.ca.versions, writer := t.ca.writer }
  sys : t.sys = { s.sys with migrations := t.sys.migrations }

/-- What `storeAt` of whole bytes can do, said once: the bytes, and what follows a store (R177, R183, R344, R376, R377). -/
theorem storeAt_leaves (s t : State) (sp : Space) (ctx key size x : Nat) :
    Stored t (applyAll (storeAt s sp ctx key size (allBits size) x) t)
      ∧ ∀ k, (applyAll (storeAt s sp ctx key size (allBits size) x) t).byte k
          = if key ≤ k ∧ k < key + size then BitVec.ofNat 8 (x / 256 ^ (k - key)) else t.byte k := by
  have hb := fun k => look_fullBytes s t.mem size key x k
  cases sp <;> simp only [storeAt] <;> (repeat' split) <;> simp only [applyAll_append, applyAll_cons, applyAll_nil] <;>
    exact ⟨by constructor <;> rfl, hb⟩

end Sys2Proof.Machine
end

