-- ==== Sys2Proof/Laws/Thread.lean ====
section
/-! SUPPORT. A thread's registers and lanes: reading after writing, and what moving lanes leaves. -/

namespace Sys2Proof.Machine

open Sys2Proof.Safety

/-! ### Registers -/

@[simp] theorem getS_zero (r : Regs) : r.getS 0 = 0 := rfl

theorem getS_setS (r : Regs) (n j : Nat) (v : W64) : (r.setS n v).getS j = if n = j ∧ n ≠ 0 then v else r.getS j := by
  by_cases hn : n = 0
  · simp [Regs.setS, hn]
  · by_cases hj : j = 0
    · simp [Regs.getS, hj, hn]
    · simp only [Regs.setS, Regs.getS, hn, hj, if_false, look_put, ne_eq, not_false_eq_true, and_true]

theorem getM_setM (r : Regs) (n j : Nat) (v : W64) : (r.setM n v).getM j = if n = j then v else r.getM j := look_put _ _ _ _ _

theorem getJ_setJ (r : Regs) (n j : Nat) (v : W64) : (r.setJ n v).getJ j = if n = j then v else r.getJ j := look_put _ _ _ _ _

theorem getV_setV (r : Regs) (n l m j : Nat) (v : W32) :
    (r.setV n l v).getV m j = if 64 * n + l = 64 * m + j then v else r.getV m j := look_put _ _ _ _ _

/-- A register of another number is as before. -/
theorem getV_setLanes_other (r : Regs) (n m j : Nat) (vs : List (Nat × W32)) (hj : j < 64) (hv : ∀ e ∈ vs, e.1 < 64)
    (h : n ≠ m) : (r.setLanes n vs).getV m j = r.getV m j := by
  induction vs generalizing r with
  | nil => rfl
  | cons e vs ih =>
    rw [Regs.setLanes, ih _ fun x hx => hv x (List.mem_cons_of_mem e hx), getV_setV, if_neg]
    have := hv e List.mem_cons_self
    omega

/-- A lane that is not listed is as before. -/
theorem getV_setLanes_unlisted (r : Regs) (n j : Nat) (vs : List (Nat × W32)) (h : ∀ e ∈ vs, e.1 ≠ j) :
    (r.setLanes n vs).getV n j = r.getV n j := by
  induction vs generalizing r with
  | nil => rfl
  | cons e vs ih =>
    rw [Regs.setLanes, ih _ fun x hx => h x (List.mem_cons_of_mem e hx), getV_setV, if_neg]
    have := h e List.mem_cons_self
    omega

/-! ### Lanes -/

theorem lane_updLane (t : Thread) (n l : Nat) (f : Lane → Lane) :
    (t.updLane n f).lane l = if n = l then f (t.lane n) else t.lane l := look_put _ _ _ _ _

@[simp] theorem bare_updLane (t : Thread) (n : Nat) (f : Lane → Lane) : bare (t.updLane n f).regs = bare t.regs := rfl
@[simp] theorem kept_updLane (t : Thread) (n : Nat) (f : Lane → Lane) : kept (t.updLane n f) = kept t := rfl
@[simp] theorem width_updLane (t : Thread) (n : Nat) (f : Lane → Lane) : (t.updLane n f).width = t.width := rfl
@[simp] theorem seq_updLane (t : Thread) (n : Nat) (f : Lane → Lane) : (t.updLane n f).seq = t.seq := rfl

/-- Changes of distinct lanes, one after another. -/
theorem foldl_updLane (f : Lane → Lane) (ls : List Nat) (t : Thread) (h : ls.Nodup) (l : Nat) :
    (ls.foldl (fun t l => t.updLane l f) t).lane l = if l ∈ ls then f (t.lane l) else t.lane l := by
  induction ls generalizing t with
  | nil => simp
  | cons n ls ih =>
    rw [List.nodup_cons] at h
    rw [List.foldl_cons, ih _ h.2, lane_updLane]
    by_cases hl : n = l
    · subst hl; simp [h.1]
    · simp [hl, Ne.symm hl]

theorem foldl_updLane_keeps {α : Type} (g : Thread → α) (f : Lane → Lane) (hg : ∀ (t : Thread) (n : Nat), g (t.updLane n f) = g t)
    (ls : List Nat) (t : Thread) : g (ls.foldl (fun t l => t.updLane l f) t) = g t := by
  induction ls generalizing t with
  | nil => rfl
  | cons n ls ih => rw [List.foldl_cons, ih, hg]

theorem nodup_members (n m : Nat) : (members n m).Nodup := List.Nodup.sublist List.filter_sublist List.nodup_range

theorem mem_members (n m l : Nat) : l ∈ members n m ↔ l < n ∧ has m l = true := by
  simp [members, has, List.mem_filter]

/-- Lanes of a set change, the others do not. -/
theorem lane_updLanes (t : Thread) (mask : Nat) (f : Lane → Lane) (l : Nat) :
    (t.updLanes mask f).lane l = if l < t.width ∧ has mask l = true then f (t.lane l) else t.lane l := by
  rw [Thread.updLanes, foldl_updLane f _ t (nodup_members _ _)]
  simp only [mem_members]

@[simp] theorem bare_updLanes (t : Thread) (m : Nat) (f : Lane → Lane) : bare (t.updLanes m f).regs = bare t.regs :=
  foldl_updLane_keeps (fun t => bare t.regs) f (fun _ _ => rfl) _ _
@[simp] theorem kept_updLanes (t : Thread) (m : Nat) (f : Lane → Lane) : kept (t.updLanes m f) = kept t :=
  foldl_updLane_keeps kept f (fun _ _ => rfl) _ _
@[simp] theorem width_updLanes (t : Thread) (m : Nat) (f : Lane → Lane) : (t.updLanes m f).width = t.width :=
  foldl_updLane_keeps Thread.width f (fun _ _ => rfl) _ _
@[simp] theorem seq_updLanes (t : Thread) (m : Nat) (f : Lane → Lane) : (t.updLanes m f).seq = t.seq :=
  foldl_updLane_keeps Thread.seq f (fun _ _ => rfl) _ _

/-! ### Moving on -/

@[simp] theorem bare_moveOn (t : Thread) (pc : Addr) (m b : Nat) : bare (t.moveOn pc m b).regs = bare t.regs := by
  simp only [Thread.moveOn]
  repeat' split
  all_goals simp

@[simp] theorem kept_moveOn (t : Thread) (pc : Addr) (m b : Nat) : kept (t.moveOn pc m b) = kept t := by
  have h : ∀ (u : Thread) (q : Option Sequence) (n : Nat), kept { u with seq := q, repcnt := n } = kept u := fun _ _ _ => rfl
  have g : ∀ (u : Thread) (q : Option Sequence), kept { u with seq := q } = kept u := fun _ _ => rfl
  simp only [Thread.moveOn]
  split
  · split
    · split
      · exact (g _ _).trans (kept_updLanes _ _ _)
      · exact (h _ _ _).trans (kept_updLanes _ _ _)
    · exact kept_updLanes _ _ _
  · exact kept_updLanes _ _ _

/-- Where no sequence holds them, the lanes move on. -/
theorem lane_moveOn (t : Thread) (pc : Addr) (m b : Nat) (h : t.seq = none) (l : Nat) :
    (t.moveOn pc m b).lane l = if l < t.width ∧ has m l = true then Lane.advance b (t.lane l) else t.lane l := by
  simp only [Thread.moveOn, h, lane_updLanes]

@[simp] theorem pc_advance (b : Nat) (l : Lane) : (Lane.advance b l).pc = l.pc + BitVec.ofNat 56 b := rfl

@[simp] theorem kept_heal (t : Thread) (ks : List Nat) : kept (t.heal ks) = kept t := rfl
@[simp] theorem regs_heal (t : Thread) (ks : List Nat) : (t.heal ks).regs = t.regs := rfl
@[simp] theorem kept_updRegs (t : Thread) (f : Regs → Regs) : kept (t.updRegs f) = kept t := rfl
@[simp] theorem regs_updRegs (t : Thread) (f : Regs → Regs) : (t.updRegs f).regs = f t.regs := rfl

/-! ### Instructions without ports -/

theorem pops_none (s : State) (iss : Issue) (sh : Shape) (h : sh.vsrc = []) : pops s iss sh = [] := by
  simp [pops, h]

theorem touchedReef_none (s : State) (iss : Issue) (sh : Shape) (h : sh.vdst = []) : touchedReef s iss sh = [] := by
  simp [touchedReef, h]

end Sys2Proof.Machine
end

