-- ==== Sys2Proof/Laws/Plain.lean ====
section
/-! SUPPORT. Issues whose own effect is on their thread alone: what they leave, for the scalar, mask and vector
instructions that compute and move on. -/

namespace Sys2Proof.Machine

open Sys2Proof.Safety

/-- Changes of one thread, one after another. -/
theorem applyAll_threads (k : Nat) (fs : List (Thread → Thread)) (s : State) :
    ∃ u, applyAll (fs.map (Micro.thread k)) s = u ∧ u.thread k = fs.foldl (fun t f => f t) (s.thread k)
      ∧ (∀ j, j ≠ k → u.thread j = s.thread j) ∧ u = { s with threads := u.threads } := by
  induction fs generalizing s with
  | nil => exact ⟨s, rfl, rfl, fun _ _ => rfl, rfl⟩
  | cons f fs ih =>
    obtain ⟨u, h1, h2, h3, h4⟩ := ih ((Micro.thread k f).apply s)
    refine ⟨u, h1, by simpa using h2, fun j hj => ?_, h4⟩
    rw [h3 j hj, apply_thread_at, if_neg (Ne.symm hj)]

/-- Of thread `k` only the queues and the times of its results differ, and beside it only the count of free values. -/
structure Paced (k : Nat) (s u : State) : Prop where
  rest : u = { s with threads := u.threads, fresh := u.fresh }
  other : ∀ j, j ≠ k → u.thread j = s.thread j
  own : ∃ q d, u.thread k = { s.thread k with queues := q, due := d }

theorem Paced.refl (k : Nat) (s : State) : Paced k s s := ⟨rfl, fun _ _ => rfl, _, _, rfl⟩

theorem Paced.trans {k : Nat} {s u v : State} (h : Paced k s u) (g : Paced k u v) : Paced k s v := by
  obtain ⟨h1, h2, q, d, h3⟩ := h
  obtain ⟨g1, g2, q', d', g3⟩ := g
  refine ⟨?_, fun j hj => (g2 j hj).trans (h2 j hj), q', d', by rw [g3, h3]⟩
  rw [h1] at g1
  exact g1

theorem paced_thread (k : Nat) (f : Thread → Thread) (s : State) (h : ∀ t, ∃ q d, f t = { t with queues := q, due := d }) :
    Paced k s ((Micro.thread k f).apply s) := by
  obtain ⟨q, d, e⟩ := h (s.thread k)
  exact ⟨rfl, fun j hj => by rw [apply_thread_at, if_neg (Ne.symm hj)], q, d, by rw [apply_thread_at, if_pos rfl, e]⟩

theorem Paced.all {k : Nat} {ms : List Micro} {s : State} (h : ∀ m ∈ ms, ∀ u, Paced k u (m.apply u)) : Paced k s (applyAll ms s) := by
  induction ms generalizing s with
  | nil => exact Paced.refl k s
  | cons m ms ih =>
    rw [applyAll_cons]
    exact (h m (by simp) s).trans (ih fun x hx => h x (by simp [hx]))

theorem paced_pops (w : State) (iss : Issue) (sh : Shape) : ∀ m ∈ pops w iss sh, ∀ u, Paced iss.thr u (m.apply u) := by
  intro m hm u
  simp only [pops] at hm
  repeat' split at hm
  all_goals simp only [List.not_mem_nil, List.mem_singleton] at hm
  all_goals subst hm
  all_goals exact paced_thread _ _ _ fun t => ⟨_, t.due, rfl⟩

theorem paced_spend (w : State) (iss : Issue) : ∀ m ∈ spend w iss, ∀ u, Paced iss.thr u (m.apply u) := by
  intro m hm u
  simp only [spend] at hm
  split at hm <;> simp only [List.not_mem_nil, List.mem_singleton] at hm
  subst hm
  exact ⟨rfl, fun _ _ => rfl, _, _, rfl⟩

theorem paced_pace (w : State) (iss : Issue) (sh : Shape) : ∀ m ∈ pace w iss sh, ∀ u, Paced iss.thr u (m.apply u) := by
  intro m hm u
  simp only [pace, oweResults, beginRest, List.mem_append] at hm
  obtain hm | hm := hm
  all_goals split at hm <;> simp only [List.not_mem_nil, List.mem_singleton] at hm
  all_goals subst hm
  all_goals exact paced_thread _ _ _ fun t => ⟨t.queues, _, rfl⟩

/-- What follows an issue's own effect where no Reef operation holds registers that it writes: pops, free values
used up, and results that are still to come. -/
theorem after_plain (iss : Issue) (sh : Shape) (s w : State) (h : sh.vdst = [] ∨ (s.thread iss.thr).reefUse = []) :
    Paced iss.thr w (applyAll (follows s iss sh) w) := by
  have ht : touchedReef s iss sh = [] := by
    rcases h with h | h
    · exact touchedReef_none s iss sh h
    · simp [touchedReef, touchReef, h]
  rw [follows, ht, List.append_nil]
  refine Paced.all fun m hm => ?_
  simp only [List.mem_append] at hm
  obtain (hm | hm) | hm := hm
  · exact paced_pops _ _ _ m hm
  · exact paced_spend _ _ m hm
  · exact paced_pace _ _ _ m hm

/-- An instruction whose own effect is changes `fs` of its thread leaves the rest, and of the thread what they make of
it, but for popped queues and the times of its results. -/
theorem plain_leaves {sh : Shape} {body : Issue → State → List Phase} {a : Ahead} {ready : Issue → State → Bool}
    {iss : Issue} {s : State} {fs : List (Thread → Thread)} (h : runsNow sh ready iss s)
    (hb : ∀ v, Counted s v → run (body iss s) v = applyAll (fs.map (Micro.thread iss.thr)) v)
    (hr : sh.vdst = [] ∨ (s.thread iss.thr).reefUse = []) :
    ∃ u, issue sh body a ready s = .next (taken (settle iss.thr u)) ∧ others iss.thr s u
      ∧ ∃ q d, u.thread iss.thr = { fs.foldl (fun t f => f t) (s.thread iss.thr) with queues := q, due := d } := by
  refine ⟨_, issue_leaves h, ?_⟩
  simp only [run_append, run_cons, run_nil]
  have hv := counted_issue s s iss sh
  generalize applyAll (countIssue s iss sh) s = v at hv ⊢
  obtain ⟨w, hw, hw1, hw2, hw3⟩ := applyAll_threads iss.thr fs v
  rw [hb v hv, hw]
  rw [hv.thread] at hw1
  have hp := after_plain iss sh s w hr
  generalize applyAll (follows s iss sh) w = u at hp ⊢
  obtain ⟨hu1, hu2, q, d, hu3⟩ := hp
  refine ⟨⟨?_, ?_, ?_, ?_, ?_, ?_, fun n => ?_, ?_, ?_, ?_, ?_, fun j hj => ?_, fun n => ?_, ?_⟩, q, d, by rw [hu3, hw1]⟩
  case refine_12 => rw [hu2 j hj, hw2 j hj, hv.thread]
  all_goals rw [hu1, hw3]
  all_goals first
    | exact hv.mem | exact hv.poison | exact hv.ca | exact hv.fl | exact hv.cores | exact hv.clusters | exact hv.die n
    | exact hv.atolls | exact hv.wgs | exact hv.agenda | exact hv.fcq | exact hv.ctx n | exact hv.sys

/-- The registers of `r`, and the lanes of the group past the word. -/
theorem plain_onlyRegs {sh : Shape} {body : Issue → State → List Phase} {a : Ahead} {ready : Issue → State → Bool}
    {iss : Issue} {s : State} {g : Thread → Thread} {bytes : Nat} {r : Regs} (h : runsNow sh ready iss s)
    (hb : ∀ v, Counted s v → run (body iss s) v
      = applyAll ([g, Thread.moveOn iss.pc iss.lanes bytes].map (Micro.thread iss.thr)) v)
    (hr : sh.vdst = [] ∨ (s.thread iss.thr).reefUse = []) (hk : ∀ t, kept (g t) = kept t)
    (hs : ∀ t, (g t).seq = t.seq) (hw : ∀ t : Thread, (g t).width = t.width) (hl : ∀ t l, (g t).lane l = t.lane l)
    (hg : bare (g (s.thread iss.thr)).regs = bare r) :
    ∃ u, issue sh body a ready s = .next (taken (settle iss.thr u)) ∧ movedOn iss.thr iss.lanes bytes s u
      ∧ onlyRegs iss.thr s u r := by
  obtain ⟨u, h1, h2, q, d, h3⟩ := plain_leaves (a := a) h hb hr
  refine ⟨u, h1, fun hn l hlt => ?_, h2, ?_, ?_⟩
  · rw [h3]
    have := lane_moveOn (g (s.thread iss.thr)) iss.pc iss.lanes bytes ((hs _).trans hn) l
    simp only [hw, hlt, true_and, hl] at this
    exact this
  · rw [h3]
    exact ((kept_moveOn (g (s.thread iss.thr)) iss.pc iss.lanes bytes).trans (hk _))
  · rw [h3]
    exact (bare_moveOn (g (s.thread iss.thr)) iss.pc iss.lanes bytes).trans hg

end Sys2Proof.Machine
end

