-- ==== Sys2Proof/Laws/Requests.lean ====
section
/-! SUPPORT. What the records that go with a performed request leave: prefetch tags and the counters of R386. -/

namespace Sys2Proof.Machine

/-- A prefetch tag is taken off by a demand load of its line, and one that finds the line in L2 counts for the warp
that brought it (R262). -/
theorem useTag_leaves (s t : State) (k line : Nat) (miss : Bool) :
    (applyAll (useTag s k line miss) t).mem = t.mem ∧ (applyAll (useTag s k line miss) t).fl = t.fl
      ∧ (∀ j, j ≠ k → (applyAll (useTag s k line miss) t).thread j = t.thread j)
      ∧ ∃ n, (applyAll (useTag s k line miss) t).thread k = { t.thread k with useful := n } := by
  simp only [useTag]
  repeat' split
  · exact ⟨rfl, rfl, fun _ _ => rfl, (t.thread k).useful, rfl⟩
  · exact ⟨rfl, rfl, fun _ _ => rfl, (t.thread k).useful, rfl⟩
  · refine ⟨rfl, rfl, fun j hj => ?_, ?_⟩
    · simp only [applyAll_cons, applyAll_nil, apply_thread_at, if_neg (Ne.symm hj), apply_caches_thread]
    · exact ⟨_, by simp only [applyAll_cons, applyAll_nil, apply_thread_at, if_true, apply_caches_thread]; rfl⟩
  · exact ⟨rfl, rfl, fun _ _ => rfl, (t.thread k).useful, rfl⟩

/-- Counting the lines of an access changes counters and what they signal. -/
theorem countLine_leaves (s t : State) (ctx launch : Nat) (sp : Space) (key : Nat) (dram : Bool) :
    Counted t (applyAll (countLine s ctx launch sp key dram) t) := by
  simp only [countLine]
  repeat' split
  all_goals first | exact Counted.refl t | exact counted_count s t _ _ _ _

/-- Counting a request changes counters, what they signal, and the place of the free values. -/
theorem countSlice_leaves (s t : State) (n : Nat) (dram : Bool) :
    ∃ m, Counted t { applyAll (countSlice s n dram) t with fresh := m } := by
  simp only [countSlice]
  rw [applyAll_append]
  split
  · exact ⟨t.fresh, Counted.refl t⟩
  · exact ⟨_, countLine_leaves s t _ _ _ _ _⟩

end Sys2Proof.Machine
end

