-- ==== Sys2Proof/Laws/Vector.lean ====
section
/-! SUPPORT. What the shared bodies of the vector instructions leave where no operand is poisoned: the registers of the
lanes of Active(g), the mask bits of a compare, and the lanes moved on. -/

namespace Sys2Proof.Machine

open Sys2Proof.Safety

/-- No operand of an active lane is poisoned, so no lane is struck. -/
theorem poisonVerdicts_nil {s : State} {iss : Issue} {sh : Shape} (h : ∀ i l, poisonedField s iss sh i l = false)
    (hm : ∀ r ∈ sh.vmore, ∀ l, (s.thread iss.thr).lostAt r l = false) : poisonVerdicts s iss sh = [] := by
  rw [poisonVerdicts, List.filterMap_eq_nil_iff]
  intro l _
  simp only [poisonedLane, h, List.any_eq_true, Bool.or_eq_true, Bool.false_eq_true, and_false, exists_false, false_or]
  rw [if_neg]
  rintro ⟨r, hr, hl⟩
  rw [hm r hr l] at hl
  exact Bool.false_ne_true hl

theorem readVerdicts_nil {s : State} {iss : Issue} {sh : Shape} {reads : Reads}
    (h : ∀ i l, poisonedField s iss sh i l = false) : readVerdicts s iss sh reads = [] := by
  rw [readVerdicts, List.filterMap_eq_nil_iff]
  intro l _
  simp [h]

@[simp] theorem strike_nil (s : State) (k : Nat) (pc : Addr) (g : Nat) : strike s k pc g [] = [] := rfl
@[simp] theorem spared_nil (s : State) (iss : Issue) : spared s iss [] = iss.lanes := rfl

/-- With nobody struck, the lanes of Active(g) perform. -/
theorem performing_nil (s : State) (iss : Issue) (sh : Shape) : performing s iss sh [] = activeLanes s iss sh := by
  rw [performing, spared_nil, activeLanes]
  congr 1
  simp only [active]
  split
  · rw [← Nat.and_assoc, Nat.and_self]
  · rw [← Nat.and_assoc, ← Nat.and_assoc, Nat.and_self]

/-! ### What counting an issue leaves of its operands -/

theorem Counted.sourceRegs {s v : State} (h : Counted s v) (iss : Issue) : sourceRegs v iss = sourceRegs s iss := by
  simp only [Machine.sourceRegs, h.pre, h.thread]
theorem Counted.scalar {s v : State} (h : Counted s v) (iss : Issue) (n : Nat) : scalar v iss n = scalar s iss n := by
  simp only [Machine.scalar, h.sourceRegs]
theorem Counted.maskReg {s v : State} (h : Counted s v) (iss : Issue) (n : Nat) : maskReg v iss n = maskReg s iss n := by
  simp only [Machine.maskReg, h.sourceRegs]
theorem Counted.active {s v : State} (h : Counted s v) (iss : Issue) (g : Nat) : active v iss g = active s iss g := by
  simp only [Machine.active, h.thread, h.maskReg]
theorem Counted.activeLanes {s v : State} (h : Counted s v) (iss : Issue) (sh : Shape) :
    activeLanes v iss sh = activeLanes s iss sh := by
  simp only [Machine.activeLanes, h.active]
theorem Counted.hasPorts {s v : State} (h : Counted s v) (t : Thread) : hasPorts v t = hasPorts s t := by
  simp only [Machine.hasPorts, h.thread]
theorem Counted.vreg {s v : State} (h : Counted s v) (iss : Issue) (r l : Nat) : vreg v iss r l = vreg s iss r l := by
  simp only [Machine.vreg, h.thread, h.fresh, h.sourceRegs]
theorem Counted.operand {s v : State} (h : Counted s v) (iss : Issue) (sh : Shape) (i l : Nat) :
    operand v iss sh i l = operand s iss sh i l := by
  simp only [Machine.operand, h.thread, h.hasPorts, h.vreg]
theorem Counted.sources {s v : State} (h : Counted s v) (iss : Issue) (sh : Shape) (l : Nat) :
    sources v iss sh l = sources s iss sh l := by
  simp only [Machine.sources, h.operand]
theorem Counted.poisonedField {s v : State} (h : Counted s v) (iss : Issue) (sh : Shape) (i l : Nat) :
    poisonedField v iss sh i l = poisonedField s iss sh i l := by
  simp only [Machine.poisonedField, h.thread, h.hasPorts]

/-! ### Bodies -/

/-- Moving the whole group, or nobody where it is empty. -/
theorem moveLanes_group (iss : Issue) (s : State) :
    (moveLanes iss iss.lanes).apply s = (Micro.thread iss.thr (Thread.moveOn iss.pc iss.lanes 8)).apply s
      ∨ (iss.lanes = 0 ∧ (moveLanes iss iss.lanes).apply s = s) := by
  simp only [moveLanes]
  split
  · exact .inr ⟨‹_›, rfl⟩
  · exact .inl rfl

/-- A thread's registers take the listed lanes of vector register `d`; the marks of a write follow. -/
def setVec (d : Nat) (vals : List (Nat × W32)) (t : Thread) : Thread :=
  { (t.updRegs (fun r => r.setLanes d vals)).heal (vals.map fun e => 64 * d + e.1) with
      vpend := if vals.isEmpty then t.vpend else insertOnce d t.vpend }

theorem writeVec_free {s : State} {iss : Issue} (d : Nat) (vals : List (Nat × W32)) (h : (s.thread iss.thr).reefUse = []) :
    writeVec s iss d vals = [.thread iss.thr (setVec d vals)] := by
  have : (s.thread iss.thr).inUse d = false := by simp [Thread.inUse, Thread.reefAcc, Thread.reefSrc, h]
  simp only [writeVec, this, Bool.false_eq_true, if_false]
  rfl

theorem setLanes_lanes (r : Regs) (d : Nat) (vals : List (Nat × W32)) : (r.setLanes d vals).lanes = r.lanes := by
  induction vals generalizing r with
  | nil => rfl
  | cons e vals ih => exact (ih _).trans rfl

theorem lane_setVec (d : Nat) (vals : List (Nat × W32)) (t : Thread) (l : Nat) : (setVec d vals t).lane l = t.lane l := by
  simp only [Thread.lane, setVec, Thread.heal, Thread.updRegs, setLanes_lanes]

/-- An issue that changes its thread's registers and moves its group on as `moveLanes` does. -/
theorem group_onlyRegs {sh : Shape} {body : Issue → State → List Phase} {a : Ahead} {ready : Issue → State → Bool}
    {iss : Issue} {s : State} {g : Thread → Thread} {r : Regs} (h : runsNow sh ready iss s)
    (hb : ∀ v, Counted s v → run (body iss s) v = (moveLanes iss iss.lanes).apply ((Micro.thread iss.thr g).apply v))
    (hr : sh.vdst = [] ∨ (s.thread iss.thr).reefUse = []) (hk : ∀ t, kept (g t) = kept t)
    (hs : ∀ t, (g t).seq = t.seq) (hw : ∀ t : Thread, (g t).width = t.width) (hl : ∀ t l, (g t).lane l = t.lane l)
    (hg : bare (g (s.thread iss.thr)).regs = bare r) :
    ∃ u, issue sh body a ready s = .next (taken (settle iss.thr u)) ∧ movedOn iss.thr iss.lanes 8 s u
      ∧ onlyRegs iss.thr s u r := by
  by_cases h0 : iss.lanes = 0
  · obtain ⟨u, h1, h2, q, w, h3⟩ := plain_leaves (a := a) (fs := [g]) h (fun v hv => by
      rw [hb v hv, moveLanes, if_pos h0]; rfl) hr
    refine ⟨u, h1, fun _ l _ => ?_, h2, ?_, ?_⟩
    · rw [h3]
      simp only [h0, has, Nat.zero_testBit, Bool.false_eq_true, if_false]
      exact hl (s.thread iss.thr) l
    · rw [h3]; exact hk _
    · rw [h3]; exact hg
  · exact plain_onlyRegs (bytes := 8) h (fun v hv => by rw [hb v hv, moveLanes, if_neg h0]; rfl) hr hk hs hw hl hg

/-- An issue that only moves its group on. -/
theorem group_moves {sh : Shape} {body : Issue → State → List Phase} {a : Ahead} {ready : Issue → State → Bool}
    {iss : Issue} {s : State} (h : runsNow sh ready iss s)
    (hb : ∀ v, Counted s v → run (body iss s) v = (moveLanes iss iss.lanes).apply v)
    (hr : sh.vdst = [] ∨ (s.thread iss.thr).reefUse = []) :
    ∃ u, issue sh body a ready s = .next (taken (settle iss.thr u)) ∧ movedOn iss.thr iss.lanes 8 s u
      ∧ onlyRegs iss.thr s u (s.thread iss.thr).regs := by
  by_cases h0 : iss.lanes = 0
  · obtain ⟨u, h1, h2, q, w, h3⟩ := plain_leaves (a := a) (fs := []) h (fun v hv => by
      rw [hb v hv, moveLanes, if_pos h0]; rfl) hr
    refine ⟨u, h1, fun _ l _ => ?_, h2, ?_, ?_⟩
    · rw [h3]
      simp only [h0, has, Nat.zero_testBit, Bool.false_eq_true, if_false]
      rfl
    · rw [h3]; rfl
    · rw [h3]; rfl
  · obtain ⟨u, h1, h2, q, w, h3⟩ := plain_leaves (a := a) (fs := [Thread.moveOn iss.pc iss.lanes 8]) h (fun v hv => by
      rw [hb v hv, moveLanes, if_neg h0]; rfl) hr
    refine ⟨u, h1, fun hn l hlt => ?_, h2, ?_, ?_⟩
    · rw [h3]
      have := lane_moveOn (s.thread iss.thr) iss.pc iss.lanes 8 hn l
      simp only [hlt, true_and] at this
      exact this
    · rw [h3]; exact kept_moveOn (s.thread iss.thr) iss.pc iss.lanes 8
    · rw [h3]; exact bare_moveOn (s.thread iss.thr) iss.pc iss.lanes 8

/-- A per-lane instruction with one vector result (R115). -/
theorem vectorOp_leaves {g d : Nat} {srcs : List Nat} {op : LaneOp} {iss : Issue} {s : State}
    (h : runsNow { g, vsrc := srcs, vdst := [d] } (fun _ _ => true) iss s) (hr : (s.thread iss.thr).reefUse = [])
    (hp : ∀ i l, poisonedField s iss { g, vsrc := srcs, vdst := [d] } i l = false) :
    ∃ u, vectorOp g d srcs op s = .next (taken (settle iss.thr u)) ∧ movedOn iss.thr iss.lanes 8 s u
      ∧ onlyRegs iss.thr s u ((s.thread iss.thr).regs.setLanes d
          ((activeLanes s iss { g, vsrc := srcs, vdst := [d] }).map fun l =>
            (l, op (sources s iss { g, vsrc := srcs, vdst := [d] } l)))) := by
  refine group_onlyRegs (g := setVec d ((activeLanes s iss { g, vsrc := srcs, vdst := [d] }).map fun l =>
            (l, op (sources s iss { g, vsrc := srcs, vdst := [d] } l)))) h (fun v hv => ?_) (.inr hr) (fun _ => rfl)
    (fun _ => rfl) (fun _ => rfl) (fun t l => lane_setVec _ _ t l) rfl
  have hv' : (v.thread iss.thr).reefUse = [] := by rw [hv.thread]; exact hr
  simp only [vectorBody, poisonVerdicts_nil hp (by simp), run_cons, run_nil, strike_nil, spared_nil, List.append_nil,
    performing_nil, writeVec_free _ _ hv', hv.activeLanes, hv.sources, List.cons_append, List.nil_append, applyAll_cons,
    applyAll_nil]

/-- A mask register takes a value, bits at or above the width zero. -/
def setMask (n : Nat) (v : W64) (t : Thread) : Thread := t.updRegs fun r => r.setM n (v &&& widthMask t)

/-- A compare with active lanes writes its mask register (R122); with none it only moves on (R116). -/
theorem compare_leaves {sh : Shape} {d : Nat} {holds : List W32 → Bool} {a : Ahead} {iss : Issue} {s : State}
    (h : runsNow sh (fun _ _ => true) iss s) (hd : sh.vdst = []) (hm : sh.vmore = [])
    (hp : ∀ i l, poisonedField s iss sh i l = false) :
    ∃ u, issue sh (compareBody sh d holds) a (fun _ _ => true) s = .next (taken (settle iss.thr u))
      ∧ movedOn iss.thr iss.lanes 8 s u
      ∧ onlyRegs iss.thr s u (if activeLanes s iss sh = [] then (s.thread iss.thr).regs
          else (s.thread iss.thr).regs.setM d (replaceBits (maskReg s iss d)
            ((activeLanes s iss sh).map fun l => (l, holds (sources s iss sh l))) &&& widthMask (s.thread iss.thr))) := by
  have hb : ∀ v, Counted s v → run (compareBody sh d holds iss s) v = (moveLanes iss iss.lanes).apply
      (applyAll (if activeLanes s iss sh = [] then [] else [.thread iss.thr (setMask d (replaceBits (maskReg s iss d)
            ((activeLanes s iss sh).map fun l => (l, holds (sources s iss sh l)))))]) v) := by
    intro v hv
    simp only [compareBody, poisonVerdicts_nil hp (by simp [hm]), run_cons, run_nil, strike_nil, spared_nil, List.append_nil,
      performing_nil, hv.activeLanes, hv.sources, hv.maskReg, List.isEmpty_map, List.isEmpty_iff]
    split <;> rfl
  by_cases h0 : activeLanes s iss sh = []
  · simp only [h0, if_true] at hb ⊢
    exact group_moves h hb (.inl hd)
  · simp only [h0, if_false] at hb ⊢
    exact group_onlyRegs h hb (.inl hd) (fun _ => rfl) (fun _ => rfl) (fun _ => rfl) (fun _ _ => rfl) rfl

/-- A lane-exchange instruction writes the lanes of Active(g) that take a value (R125). -/
theorem exchange_leaves {sh : Shape} {d : Nat} {reads : Reads} {peers : Peers} {value : Issue → State → Nat → Option W32} {iss : Issue}
    {s : State} (h : runsNow sh (fun _ _ => true) iss s) (hr : (s.thread iss.thr).reefUse = [])
    (hp : ∀ i l, poisonedField s iss sh i l = false) (hv : ∀ v, Counted s v → ∀ l, value iss v l = value iss s l) :
    ∃ u, exchange sh d reads peers value s = .next (taken (settle iss.thr u)) ∧ movedOn iss.thr iss.lanes 8 s u
      ∧ onlyRegs iss.thr s u ((s.thread iss.thr).regs.setLanes d
          ((activeLanes s iss sh).filterMap fun l => (value iss s l).map fun v => (l, v))) := by
  refine group_onlyRegs (g := setVec d ((activeLanes s iss sh).filterMap fun l => (value iss s l).map fun v => (l, v))) h
    (fun v hc => ?_) (.inr hr) (fun _ => rfl) (fun _ => rfl) (fun _ => rfl) (fun t l => lane_setVec _ _ t l) rfl
  have hr' : (v.thread iss.thr).reefUse = [] := by rw [hc.thread]; exact hr
  simp only [readVerdicts_nil hp, run_cons, run_nil, strike_nil, spared_nil, List.append_nil, performing_nil,
    writeVec_free _ _ hr', hc.activeLanes, hv v hc, List.cons_append, List.nil_append, applyAll_cons, applyAll_nil]

end Sys2Proof.Machine
end

