-- ==== Sys2Proof/Tests/Slice0.lean ====
section
/-! SUPPORT. The model's own tests: ill-formed terms, words that the spec writes out, and single steps whose results the
spec states. -/

namespace Sys2Proof.Tests

set_option Elab.async false

open Sys2Proof Sys2Proof.Machine Sys2Proof.Safety

/-! ### Terms of each format with every field zero -/

def fb : FB := { g := 0, s := 0, m := 0, j := 0, cc := 0, n := 0, off := 0 }
def fs : FS := { w := 0, sd := 0, sa := 0, sb := 0, i := 0, imm := 0 }
def fv2 : FV2 := { g := 0, d := 0, a := 0, b := 0, t := 0, na := 0, xa := 0, nb := 0, xb := 0, cl := 0, sc := 0 }
def fv3 : FV3 := { g := 0, d := 0, a := 0, b := 0, c := 0, na := 0, xa := 0, nb := 0, xb := 0, nc := 0, xc := 0, cl := 0, sc := 0 }
def fvi : FVI := { g := 0, d := 0, a := 0, imm := 0, t := 0, na := 0, xa := 0, cl := 0, sc := 0 }
def fm : FM := { g := 0, d := 0, sb := 0, vx := 0, ix := 0, off := 0, sz := 0, n := 0, h := 0, o := 0, k := 0 }
def ft : FT := { g := 0, acc := 0, a := 0, sa := 0, slot := 0, bs := 0, sx := 0, sp := 0, f := 0, m := 0 }
def fy : FY := { sd := 0, sa := 0, id := 0, imm := 0 }

/-- Every term is refused. -/
def refused (l : List Instr) : Bool := l.all fun i => !i.wellFormed

/-! ### Ill-formed terms (R35, R40 to R49) -/

theorem test_ill_formed_control : refused [.nop { fb with g := 1 }, .nop { fb with s := 1 }, .nop { fb with m := 1 }, .nop { fb with j := 1 },
    .nop { fb with cc := 1 }, .nop { fb with n := 1 }, .nop { fb with off := 1 }, .bra { fb with n := 2 }, .bra { fb with n := 1, off := 1 },
    .bra { fb with s := 1 }, .brc fb, .brc { fb with m := 1, cc := 2 }, .bru { fb with cc := 6 }, .brx { fb with off := 1 }, .ret { fb with cc := 1 },
    .call { fb with cc := 1 }, .enrol { fb with s := 1 }, .await { fb with m := 1 }, .exit { fb with j := 1 }, .yield { fb with off := 1 },
    .rep { fb with g := 1 }, .rep { fb with off := 0x1000 }, .wait { fb with g := 1 }, .wait { fb with off := 0x1000000 }, .sleep { fb with s := 1 },
    .bar { fb with cc := 2 }, .bara { fb with off := 1 }, .barw { fb with m := 1 }] = true := by decide +kernel

theorem test_ill_formed_ordering : refused [.fence { fb with g := 1 }, .fence { fb with cc := 8 }, .fence { fb with n := 3 },
    .fence { fb with off := 1 }, .fence { fb with cc := 3, off := 6 }, .fence { fb with cc := 3, off := 0x80 }, .gwct { fb with g := 1 },
    .gwct { fb with cc := 1 }, .twait { fb with g := 1 }, .twait { fb with n := 1 }] = true := by decide +kernel

theorem test_ill_formed_scalar : refused [.sadd { fs with i := 1, sb := 1 }, .ssub { fs with imm := 1 }, .ssel { fs with imm := 1 },
    .sld { fs with imm := 1 }, .sst { fs with i := 1, sb := 1 }, .spopc { fs with sb := 1 }, .sclz { fs with i := 1 }, .sli ⟨{ fs with w := 1 }, 0⟩,
    .sli ⟨{ fs with sa := 1 }, 0⟩, .sli ⟨{ fs with imm := 1 }, 0⟩, .sget fs, .sget { fs with i := 1, w := 1 }, .sget { fs with i := 1, imm := 0x19 },
    .vget fs, .vget { fs with i := 1, sd := 1 }, .vget { fs with i := 1, imm := 3 }, .slane { fs with i := 1, sa := 1 },
    .slane { fs with i := 1, imm := 64 }, .vsplat { fs with i := 1, imm := 1 }, .vsplat { fs with i := 1, sd := 1 }] = true := by decide +kernel

theorem test_ill_formed_mask : refused [.mand fs, .mand { fs with sd := 8 }, .mor { fs with sd := 1, sa := 8 }, .mxor { fs with sd := 1, sb := 8 },
    .mandn { fs with sd := 1, w := 1 }, .mpopc { fs with sa := 8 }, .mtos { fs with sb := 1 }, .mfind { fs with sa := 8 }, .mfind { fs with imm := 1 },
    .mfroms fs, .mfroms { fs with sd := 1, sb := 1 }] = true := by decide +kernel

theorem test_ill_formed_vector_integer : refused [.vadd { fv2 with t := 2 }, .vadd { fv2 with cl := 3 }, .vadd { fv2 with sc := 1 },
    .vmulh { fv2 with cl := 1 }, .vand { fv2 with na := 1 }, .vshr { fv2 with xb := 1 }, .vshl { fv2 with nb := 1 }, .vpopc { fv2 with b := 1 },
    .vclz { fv2 with na := 1 }, .vmov { fv2 with nb := 1 }, .vcmp fv2, .vcmp { fv2 with d := 8 }, .vcmp { fv2 with d := 1, t := 12 },
    .vcmp { fv2 with d := 1, cl := 1 }, .vmad { fv3 with cl := 3 }, .vsel { fv3 with na := 1 }, .vbfi { fv3 with sc := 1 }, .vbfx { fv3 with c := 1 },
    .vmovi { fvi with a := 1 }, .vmovi { fvi with t := 3 }, .vaddi { fvi with t := 2 }, .vaddi { fvi with cl := 3 }, .vandi { fvi with na := 1 },
    .vori { fvi with t := 3 }, .vshli { fvi with imm := 32 }, .vshri { fvi with na := 1 }, .vsrai { fvi with imm := 32 }, .vcmpi fvi,
    .vcmpi { fvi with d := 1, cl := 1 }] = true := by decide +kernel

theorem test_ill_formed_exchange : refused [.vperm { fv2 with t := 2 }, .vperm { fv2 with na := 1 }, .vshfl { fv2 with t := 4 },
    .vshfl { fv2 with b := 64 }, .vbcast { fv2 with t := 1 }, .vbcast { fv2 with b := 64 }, .vred { fv2 with t := 8 }, .vred { fv2 with t := 1, cl := 1 },
    .vred { fv2 with b := 1 }, .vscan { fv2 with b := 1 }, .vscan { fv2 with t := 9, cl := 1 }, .vfred { fv2 with t := 4 }, .vfred { fv2 with sc := 1 },
    .vmatch { fv2 with b := 1 }, .vmovx { fv2 with t := 1 }, .vmovxw { fv2 with sc := 1 }, .vcomp { fv2 with t := 2 },
    .vexpd { fv2 with cl := 1 }] = true := by decide +kernel

theorem test_ill_formed_float : refused [.vfadd { fv2 with t := 2 }, .vfmin { fv2 with sc := 1 }, .vfcmp fv2, .vfcmp { fv2 with d := 1, t := 8 },
    .vfclass { fv2 with na := 1 }, .vfrnd { fv2 with b := 5 }, .vfrnd { fv2 with sc := 1 }, .vfldx { fv2 with nb := 1 }, .vrcp { fv2 with t := 1 },
    .vsin { fv2 with b := 1 }, .vtanh { fv2 with sc := 1 }, .vcvt { fv2 with t := 1, b := 1 }, .vcvt { fv2 with t := 3, cl := 1 },
    .vcvt { fv2 with t := 4, sc := 1 }, .vcvt { fv2 with t := 5, na := 1 }, .vqnt { fv2 with t := 4 }, .vqnt { fv2 with cl := 1 },
    .vdqnt { fv2 with na := 1 }, .vscl { fv2 with b := 1 }, .vrand { fv2 with a := 1 }, .vpack { fv2 with t := 3, b := 2 },
    .vunpk { fv2 with b := 8 }] = true := by decide +kernel

theorem test_ill_formed_access : refused [.ld { fm with o := 1 }, .ld { fm with vx := 1 }, .ld { fm with sz := 3 }, .ld { fm with k := 2 },
    .st { fm with k := 1 }, .ldpk { fm with ix := 1 }, .stpk { fm with sz := 2 }, .pref { fm with d := 1 }, .pref { fm with h := 1 },
    .disc { fm with n := 1 }, .flush { fm with h := 1 }, .lmap fm, .lmap { fm with sb := 63 }, .lmap { fm with sb := 1, off := 192 },
    .lunmap { fm with off := 1 }, .atom fm, .atomr { fm with sz := 2, n := 3 }, .acas { fm with sz := 2, n := 1 },
    .acasw { fm with sz := 1 }] = true := by decide +kernel

theorem test_ill_formed_rows : refused [.ropen { fy with id := 1 }, .rrenew { fy with imm := 1 }, .rrel { fy with sd := 1 }, .ldrow { fm with h := 1 },
    .strow { fm with sz := 3 }, .rstat { fy with imm := 16 }, .rstat { fy with id := 2 }, .rstat { fy with id := 1, imm := 1 },
    .ractl { fy with imm := 2 }, .rastat { fy with imm := 4 }, .rastat { fy with imm := 512 }] = true := by decide +kernel

theorem test_ill_formed_copy : refused [.copy fs, .copy { fs with sa := 61 }, .copy2d { fs with sa := 59 }, .syncinit fs, .syncinit { fs with sa := 1, sd := 1 },
    .syncwait fs, .syncwait { fs with sa := 1, i := 1 }, .syncrd { fs with sa := 1 }, .syncrd { fs with sa := 1, i := 1, imm := 2 }, .qld fm,
    .qld { fm with d := 1020, n := 1 }, .qldrow { fm with d := 1020, sz := 3 }, .aeloop fs, .aeend { fs with sb := 1 }, .qdrop fs,
    .qdrop { fs with i := 1, imm := 4 }, .qdrop { fs with i := 1, imm := 0x1000 }] = true := by decide +kernel

theorem test_ill_formed_tensor : refused [.rloadbQ4 { ft with acc := 1 }, .rloadbI8 { ft with bs := 3 }, .rcode { ft with sa := 1 }, .rmacI8 { ft with f := 1 },
    .rmacpBf16 { ft with sx := 1 }, .rfence { ft with f := 1 }, .rdrain ft, .rdrain { ft with sx := 60 }, .rdrain { ft with sx := 1, m := 6 },
    .rpair { ft with m := 2 }, .rstatReef { ft with m := 2 }, .rstatReef { ft with acc := 1 }] = true := by decide +kernel

theorem test_ill_formed_tide_launch : refused [.beat fy, .beat { fy with imm := 256 }, .tset { fy with id := 12 }, .tset { fy with id := 6 },
    .tread { fy with id := 12 }, .pclass { fy with imm := 3 }, .launch fy, .launch { fy with sa := 1, imm := 4 }, .launch { fy with sa := 58, imm := 1 },
    .lwait { fy with imm := 1 }, .mbrecv fy, .mbrecv { fy with sd := 56 }, .mbrecv { fy with sd := 1, imm := 4 }, .mbsend { fy with sa := 57 },
    .evwait { fy with sd := 1 }, .evwait { fy with sd := 63, imm := 1 }, .evwait { fy with sd := 1, imm := 0x20001 }] = true := by decide +kernel

theorem test_ill_formed_system : refused [.trap { fy with imm := 0x10000 }, .eret { fy with imm := 2 }, .csrr fy, .csrr { fy with id := 0x107 },
    .csrw { fy with id := 0x103 }, .csrw { fy with id := 0xF00 }, .dbgrd { fy with id := 0x44C }, .dbgwr { fy with imm := 1 }, .tlbi { fy with id := 1 },
    .cntrd { fy with imm := 8 }, .cntcfg { fy with imm := 8 }, .freeze { fy with imm := 4 }, .halt fy, .halt { fy with imm := 256 }] = true := by decide +kernel

/-! ### Words that the spec writes out, with their fields as its tables break them down -/

theorem test_decode_control : decode 0x00901410FFFFFFFA 0 = some (.brc { fb with g := 2, m := 5, cc := 1, off := 0xFFFFFFFA })
    ∧ decode 0x00C0E02000000009 0 = some (.bru { fb with s := 7, cc := 2, off := 9 })
    ∧ decode 0x0140200000000003 0 = some (.call { fb with s := 1, off := 3 }) ∧ decode 0x01C00D0000000000 0 = some (.enrol { fb with m := 3, j := 1 })
    ∧ decode 0x0300000000002FC0 0 = some (.wait { fb with off := 0x2FC0 }) ∧ decode 0x03400000000001F4 0 = some (.sleep { fb with off := 500 })
    ∧ decode 0x0380001000000000 0 = some (.bar { fb with cc := 1 }) ∧ decode 0x0040000100000000 0 = some (.bra { fb with n := 1 })
    ∧ decode 0x02C00000000004C3 0 = some (.rep { fb with off := 0x4C3 }) ∧ decode 0 0 = some (.nop fb) := by decide +kernel

theorem test_decode_scalar : decode 0x1000620A00000000 0 = some (.sadd { fs with sd := 3, sa := 4, sb := 5 })
    ∧ decode 0x1020E381FFFFFFFF 0 = some (.sadd { fs with w := 1, sd := 7, sa := 7, i := 1, imm := 0xFFFFFFFF })
    ∧ decode 0x1700A00000000000 0x00FFFFFFC0000000 = some (.sli ⟨{ fs with sd := 5 }, 0x00FFFFFFC0000000⟩)
    ∧ decode 0x2001220100000010 0 = some (.sld { fs with sd := 9, sa := 4, i := 1, imm := 16 })
    ∧ decode 0x2041220100000010 0 = some (.sst { fs with sd := 9, sa := 4, i := 1, imm := 16 })
    ∧ decode 0x20C000010A000001 0 = some (.vget { fs with i := 1, imm := 0x0A000001 })
    ∧ decode 0x2240810A00000000 0 = some (.mandn { fs with sd := 4, sa := 2, sb := 5 }) := by decide +kernel

theorem test_decode_vector_integer : decode 0x3018080280C00000 0 = some (.vadd { fv2 with g := 3, d := 4, a := 5, b := 6 })
    ∧ decode 0x3000180601A20008 0 = some (.vadd { fv2 with d := 12, a := 12, b := 13, t := 1, cl := 1 })
    ∧ decode 0x3440040200A40000 0 = some (.vcmp { fv2 with d := 2, a := 4, b := 5, t := 2 })
    ∧ decode 0x35C00E001FC01000 0 = some (.vmovi { fvi with d := 7, imm := 0x3F80, t := 2 })
    ∧ decode 0x4040120400240000 0 = some (.vshfl { fv2 with d := 9, a := 8, b := 1, t := 2 })
    ∧ decode 0x4100280A00000000 0 = some (.vfred { fv2 with d := 20, a := 20 }) := by decide +kernel

theorem test_decode_float : decode 0x5080_0C03_8100_0086 0 = some (.vfmul { fv2 with d := 6, a := 7, b := 8, xb := 1, sc := 6 })
    ∧ decode 0x52C0140581806C88 0 = some (.vfmaF32 { fv3 with d := 10, a := 11, b := 12, c := 13, na := 1, xb := 1, cl := 1 })
    ∧ decode 0x5300280A82C0B840 0 = some (.vfmaBf16x2 { fv3 with d := 20, a := 21, b := 22, c := 23, nc := 1 })
    ∧ decode 0x6200080100600000 0 = some (.vcvt { fv2 with d := 4, a := 2, b := 3 }) ∧ decode 0x62C0060100000000 0 = some (.vscl { fv2 with d := 3, a := 2 })
    ∧ decode 0x6240080100600000 0 = some (.vqnt { fv2 with d := 4, a := 2, b := 3 })
    ∧ decode 0x6340180500040000 0 = some (.vpack { fv2 with d := 12, a := 10, t := 2 }) := by decide +kernel

theorem test_decode_access : decode 0x700004200F040800 0 = some (.ld { fm with d := 2, sb := 4, vx := 7, ix := 1, off := 64, sz := 2 })
    ∧ decode 0x70001030000109A0 0 = some (.ld { fm with d := 8, sb := 6, off := 16, sz := 2, n := 3, h := 1 })
    ∧ decode 0x7040122005000816 0 = some (.st { fm with d := 9, sb := 4, vx := 2, ix := 1, sz := 2, o := 5, k := 2 })
    ∧ decode 0x7080064000000400 0 = some (.ldpk { fm with d := 3, sb := 8, sz := 1 })
    ∧ decode 0x71C0005000003000 0 = some (.lmap { fm with sb := 10, off := 3 }) ∧ decode 0x7200005000000000 0 = some (.lunmap { fm with sb := 10 })
    ∧ decode 0x72400A2005000940 0 = some (.atom { fm with d := 5, sb := 4, vx := 2, ix := 1, sz := 2, n := 2, h := 2 })
    ∧ decode 0x72800A2005000940 0 = some (.atomr { fm with d := 5, sb := 4, vx := 2, ix := 1, sz := 2, n := 2, h := 2 })
    ∧ decode 0x72C00C2005000800 0 = some (.acas { fm with d := 6, sb := 4, vx := 2, ix := 1, sz := 2 }) := by decide +kernel

theorem test_decode_ordering : decode 0x8000005000000000 0 = some (.fence { fb with cc := 5 }) ∧ decode 0x8000002200000000 0 = some (.fence { fb with cc := 2, n := 2 })
    ∧ decode 0x8000003100000011 0 = some (.fence { fb with cc := 3, n := 1, off := 0x11 }) ∧ decode 0x8040E00000000000 0 = some (.gwct { fb with s := 7 })
    ∧ decode 0x80812000FFFFFFF0 0 = some (.twait { fb with s := 9, off := 0xFFFFFFF0 }) := by decide +kernel

theorem test_decode_rows : decode 0x90018A0000000000 0 = some (.ropen { fy with sd := 12, sa := 20 }) ∧ decode 0x9041A60000000000 0 = some (.rrenew { fy with sd := 13, sa := 12 })
    ∧ decode 0x9080060000000000 0 = some (.rrel { fy with sa := 12 })
    ∧ decode 0x90C0106007010800 0 = some (.ldrow { fm with d := 8, sb := 12, vx := 3, ix := 1, off := 16, sz := 2 })
    ∧ decode 0x9100126007010800 0 = some (.strow { fm with d := 9, sb := 12, vx := 3, ix := 1, off := 16, sz := 2 })
    ∧ decode 0x9140A00000000007 0 = some (.rstat { fy with sd := 5, imm := 7 }) ∧ decode 0x9140C60008000000 0 = some (.rstat { fy with sd := 6, sa := 12, id := 1 })
    ∧ decode 0x9180600000000001 0 = some (.ractl { fy with sd := 3, imm := 1 }) ∧ decode 0x91C0800000000102 0 = some (.rastat { fy with sd := 4, imm := 0x102 }) := by
  decide +kernel

theorem test_decode_copy : decode 0xA000040000000000 0 = some (.copy { fs with sa := 8 }) ∧ decode 0xA040080000000000 0 = some (.copy2d { fs with sa := 16 })
    ∧ decode 0xA0800A0100001000 0 = some (.syncinit { fs with sa := 20, i := 1, imm := 4096 })
    ∧ decode 0xA0C12A1200000000 0 = some (.syncwait { fs with sd := 9, sa := 20, sb := 9 })
    ∧ decode 0xA1014A0100000000 0 = some (.syncrd { fs with sd := 10, sa := 20, i := 1 })
    ∧ decode 0xA147F85002040800 0 = some (.qld { fm with d := 1020, sb := 10, vx := 1, off := 64, sz := 2 })
    ∧ decode 0xA187FA6002000800 0 = some (.qldrow { fm with d := 1021, sb := 12, vx := 1, sz := 2 })
    ∧ decode 0xA1C1458100000010 0 = some (.aeloop { fs with sd := 10, sa := 11, i := 1, imm := 16 })
    ∧ decode 0xA200000000000000 0 = some (.aeend fs) ∧ decode 0xA240000100000302 0 = some (.qdrop { fs with i := 1, imm := 0x302 }) := by decide +kernel

theorem test_decode_tensor : decode 0xB000000005104000 0 = some (.rloadbQ4 { ft with sa := 40, slot := 2, sx := 8 })
    ∧ decode 0xB040000005444130 0 = some (.rloadbE4m3 { ft with sa := 42, slot := 0, bs := 2, sx := 8, sp := 9, f := 1 })
    ∧ decode 0xB1C0000000104800 0 = some (.rcode { ft with slot := 2, sx := 9 })
    ∧ decode 0xB24080320D100000 0 = some (.rmacE4m3 { ft with acc := 64, a := 100, sa := 104, slot := 2 })
    ∧ decode 0xB34080320D000000 0 = some (.rmacpE4m3 { ft with acc := 64, a := 100, sa := 104 }) ∧ decode 0xB400000000000000 0 = some (.rfence ft)
    ∧ decode 0xB44080000000800A 0 = some (.rdrain { ft with acc := 64, sx := 16, m := 10 }) ∧ decode 0xB480000000000001 0 = some (.rpair { ft with m := 1 })
    ∧ decode 0xB4C0000000002804 0 = some (.rstatReef { ft with sx := 5, m := 4 }) := by decide +kernel

theorem test_decode_tide : decode 0xC000000000000001 0 = some (.beat { fy with imm := 1 }) ∧ decode 0xC0000000000000FF 0 = some (.beat { fy with imm := 255 })
    ∧ decode 0xC040028000000000 0 = some (.tset { fy with sa := 5 }) ∧ decode 0xC040030010000000 0 = some (.tset { fy with sa := 6, id := 2 })
    ∧ decode 0xC080E00040000000 0 = some (.tread { fy with sd := 7, id := 8 }) ∧ decode 0xC0C0000000000002 0 = some (.pclass { fy with imm := 2 }) := by decide +kernel

theorem test_decode_launch : decode 0xC100440000000002 0 = some (.launch { fy with sd := 2, sa := 8, imm := 2 })
    ∧ decode 0xC140610000000000 0 = some (.lwait { fy with sd := 3, sa := 2 }) ∧ decode 0xC182000000000000 0 = some (.mbrecv { fy with sd := 16 })
    ∧ decode 0xC182000000000100 0 = some (.mbrecv { fy with sd := 16, imm := 0x100 }) ∧ decode 0xC1C00C0000000001 0 = some (.mbsend { fy with sa := 24, imm := 1 })
    ∧ decode 0xC203C0000000000F 0 = some (.evwait { fy with sd := 30, imm := 15 }) := by decide +kernel

theorem test_decode_system : decode 0xD000000000000007 0 = some (.trap { fy with imm := 7 }) ∧ decode 0xD040000000000001 0 = some (.eret { fy with imm := 1 })
    ∧ decode 0xD081200820000000 0 = some (.csrr { fy with sd := 9, id := 0x104 }) ∧ decode 0xD0C0060820000000 0 = some (.csrw { fy with sa := 12, id := 0x104 })
    ∧ decode 0xD101422280000000 0 = some (.dbgrd { fy with sd := 10, sa := 4, id := 0x450 })
    ∧ decode 0xD141622280000000 0 = some (.dbgwr { fy with sd := 11, sa := 4, id := 0x450 }) ∧ decode 0xD180E30000000000 0 = some (.tlbi { fy with sd := 7, sa := 6 })
    ∧ decode 0xD1C0600000000102 0 = some (.cntrd { fy with sd := 3, imm := 0x102 }) ∧ decode 0xD200028000000002 0 = some (.cntcfg { fy with sa := 5, imm := 2 })
    ∧ decode 0xD241010000000002 0 = some (.freeze { fy with sd := 8, sa := 2, imm := 2 }) ∧ decode 0xD280000000000005 0 = some (.halt { fy with imm := 5 }) := by
  decide +kernel

/-- Unassigned points and reserved fields decode to nothing (R35, R53). -/
theorem test_decode_refuses : decode 0xE000000000000000 0 = none ∧ decode 0x0440000000000000 0 = none ∧ decode 0x1740000000000000 0 = none
    ∧ decode 0xD2C0000000000000 0 = none ∧ decode 0x3018080280C00800 0 = none ∧ decode 0x7000042003040C00 0 = none := by decide +kernel

/-! ### Single steps -/

/-- A lane at the first word of the block whose header R33 works out. -/
def atEight : Lane := { live := true, pc := 8, word := 0xFC05000000030066 }

/-- Lanes 0 to w − 1 at their instruction. -/
def lanesAt (w : Nat) : Sparse Lane := (List.range w).map fun l => (l, atEight)

/-- The issue of the first `w` lanes of the warp in slot 0 of core 0. -/
def issueOf (w : Nat) : Issue := { thr := 0, lanes := 2 ^ w - 1, pc := 8 }

/-- That warp, `w` lanes wide, with registers. -/
def warpOf (w : Nat) (r : Regs) : Thread :=
  { live := true, ctx := 0, width := w, budget := 512, regs := { r with em := BitVec.ofNat 64 (2 ^ w - 1), lanes := lanesAt w } }

/-- A machine with that warp and its issue in hand. -/
def machineOf (w : Nat) (r : Regs) : State :=
  { threads := [(0, warpOf w r)], ctxs := [(0, { live := true })], cur := some (issueOf w) }

/-- The state that an instruction leaves. -/
def left (i : Instr) (s : State) : State := match exec i s with | .next t => t | _ => {}

/-- A scalar register of that warp afterwards. -/
def scalarLeft (i : Instr) (s : State) (n : Nat) : W64 := ((left i s).thread 0).regs.getS n

/-- A vector register of that warp afterwards. -/
def vectorLeft (i : Instr) (s : State) (n l : Nat) : W32 := ((left i s).thread 0).regs.getV n l

/-- Scalar operands as R108's examples have them: s4 = −7, s5 = 2. -/
def scalars : State := machineOf 2 { s := [(4, -7), (5, 2), (7, 0x80000000)] }

def f345 : FS := { fs with sd := 3, sa := 4, sb := 5 }

theorem test_sdiv : scalarLeft (.sdiv f345) scalars 3 = -3 := by decide +kernel
theorem test_srem : scalarLeft (.srem f345) scalars 3 = -1 := by decide +kernel
theorem test_sdivn : scalarLeft (.sdivn f345) scalars 3 = 0x7FFFFFFFFFFFFFFC := by decide +kernel
theorem test_sdiv_by_zero : scalarLeft (.sdiv { f345 with w := 1, sb := 6 }) scalars 3 = -1 := by decide +kernel
theorem test_srem_by_zero : scalarLeft (.srem { f345 with w := 1, sb := 6 }) scalars 3 = -7 := by decide +kernel
theorem test_sadd_w : scalarLeft (.sadd { fs with w := 1, sd := 7, sa := 7, i := 1, imm := 0xFFFFFFFF }) scalars 7 = 0x7FFFFFFF := by decide +kernel

/-- A 16-wide warp with m2 = 0x8421 and s8 = −1 (R114's examples). -/
def masks : State := machineOf 16 { m := [(2, 0x8421)], s := [(8, -1)] }

theorem test_mpopc : scalarLeft (.mpopc { fs with sd := 3, sa := 2 }) masks 3 = 4 := by decide +kernel
theorem test_mfind : scalarLeft (.mfind { fs with sd := 3, sa := 2, i := 1, imm := 11 }) masks 3 = 15 := by decide +kernel
theorem test_mfind_none : scalarLeft (.mfind { fs with sd := 3, sa := 2, i := 1, imm := 16 }) masks 3 = -1 := by decide +kernel
theorem test_mfroms : ((left (.mfroms { fs with sd := 6, sa := 8 }) masks).thread 0).regs.getM 6 = 0xFFFF := by decide +kernel

/-- One lane with two operands in v3 and v4. -/
def pairOf (a b : W32) : State := machineOf 1 { v := [(64 * 3, a), (64 * 4, b)] }

def f234 : FV2 := { fv2 with d := 2, a := 3, b := 4 }

theorem test_vadd_sat01 : vectorLeft (.vadd { f234 with t := 1, cl := 1 }) (pairOf 0xFFFFFFF0 0x20) 2 0 = 0xFFFFFFFF := by decide +kernel
theorem test_vadd_wraps : vectorLeft (.vadd f234) (pairOf 0x7FFFFFF0 0x20) 2 0 = 0x80000010 := by decide +kernel
theorem test_vmulh_unsigned : vectorLeft (.vmulh { f234 with t := 1 }) (pairOf 0xFFFFFFFF 0xFFFFFFFF) 2 0 = 0xFFFFFFFE := by decide +kernel
theorem test_vmulh_signed : vectorLeft (.vmulh f234) (pairOf 0xFFFFFFFF 0xFFFFFFFF) 2 0 = 0 := by decide +kernel
theorem test_vabsd : vectorLeft (.vabsd f234) (pairOf 0x80000000 0x7FFFFFFF) 2 0 = 0xFFFFFFFF := by decide +kernel
theorem test_vabsd_satsym : vectorLeft (.vabsd { f234 with cl := 2 }) (pairOf 0x80000000 0x7FFFFFFF) 2 0 = 0x7FFFFFFF := by decide +kernel
theorem test_vmov_negated : vectorLeft (.vmov { fv2 with d := 2, a := 3, na := 1, cl := 1 }) (pairOf 0x80000000 0) 2 0 = 0 := by decide +kernel
theorem test_vsra : vectorLeft (.vsra f234) (pairOf 0x80000040 0x104) 2 0 = 0xF8000004 := by decide +kernel

/-- A 16-wide warp whose lane 0 of v20 holds 2^24 and whose other lanes hold 1.0 (R130's example). -/
def sixteen : State :=
  machineOf 16 { v := (64 * 20, 0x4B800000) :: (List.range 15).map fun l => (64 * 20 + l + 1, 0x3F800000) }

theorem test_vfred_tree : vectorLeft (.vfred { fv2 with d := 20, a := 20 }) sixteen 20 7 = 0x4B800007 := by decide +kernel

/-- An unassigned opcode traps UNDEF (R53). -/
theorem test_unassigned : ((left (.unassignedOpcode 0xE000000000000000) scalars).trap 0).cause = .undef := by decide +kernel

/-- A step at a placed word, here `SADD s3, s0, #5`, runs it. -/
theorem test_step_runs_placed : (match step (State.withFetchWord State.reset 64 0x1000600100000005) with
    | .next t => t.threads.any fun e => e.2.regs.getS 3 == 5
    | _ => false) = true := by decide +kernel

end Sys2Proof.Tests
end

