-- ==== Sys2Proof/Tests/Witnesses.lean ====
section
/-! SUPPORT. States and operands that meet the hypotheses of the statements: scalar, vector and control instructions. -/

namespace Sys2Proof.Tests

set_option Elab.async false

open Sys2Proof Sys2Proof.Machine Sys2Proof.Safety Sys2Proof.Claims

/-- No Reef operation, lost register or port stands in the way of the thread's operands. -/
def quiet (s : State) (iss : Issue) : Bool :=
  decide ((s.thread iss.thr).reefUse = []) && decide ((s.thread iss.thr).lost = []) && !hasPorts s (s.thread iss.thr)

theorem calm_of {s : State} {iss : Issue} {sh : Shape} (h : quiet s iss = true) : calm s iss sh := by
  simp only [quiet, Bool.and_eq_true, decide_eq_true_eq, Bool.not_eq_true'] at h
  obtain ⟨⟨hr, hl⟩, hp⟩ := h
  refine ⟨hr, fun i l => ?_, fun r _ l => ?_, fun _ r _ => ?_⟩
  · simp [poisonedField, popEntry, portOf, hp, Thread.lostAt, hl]
  · simp [Thread.lostAt, hl]
  · simp [Thread.lostScalar, hl]

theorem plain_of {s : State} {iss : Issue} (hl : iss.lanes < 2 ^ 64)
    (h : (List.range 64).all (fun l => !iss.lanes.testBit l || (decide (l < (s.thread iss.thr).width) && ((s.thread iss.thr).lane l).live)) = true)
    (hq : (s.thread iss.thr).seq = none) : plainGroup s iss := by
  refine ⟨fun l hi => ?_, hq⟩
  have hlt : l < 64 := by
    by_contra hn
    have := Nat.testBit_lt_two_pow (Nat.lt_of_lt_of_le hl (Nat.pow_le_pow_right (by omega) (Nat.le_of_not_lt hn)))
    simp [inGroup, this] at hi
  have := List.all_eq_true.mp h l (by simpa using hlt)
  simp only [inGroup] at hi
  simp [hi] at this
  exact ⟨this.1, hlt, this.2⟩

/-! ### Scalar instructions and masks -/

theorem witness_scalar_results : ∃ op, scalarTable (.sadd f345) = some (f345, op)
    ∧ runsNow (scalarShape f345 []) (fun _ _ => true) (issueOf 2) scalars :=
  ⟨_, rfl, by unfold runsNow; decide +kernel⟩

/-- s4 the most negative number, s5 = −1, s6 = 0. -/
def extremes : State := machineOf 2 { s := [(4, 0x8000000000000000), (5, -1)] }

theorem witness_division_by_zero : ∃ op n x y, scalarTable (.sdiv { f345 with sb := 6 }) = some ({ f345 with sb := 6 }, op)
    ∧ n = (if ({ f345 with sb := 6 } : FS).w = 1 then 32 else 64) ∧ x = (scalar extremes (issueOf 2) 4).setWidth n
    ∧ y = (secondOperand { f345 with sb := 6 } extremes (issueOf 2)).setWidth n ∧ y = 0
    ∧ runsNow (scalarShape { f345 with sb := 6 } []) (fun _ _ => true) (issueOf 2) extremes :=
  ⟨_, 64, _, _, rfl, rfl, rfl, rfl, by decide +kernel, by unfold runsNow; decide +kernel⟩

theorem witness_division_extreme : ∃ op n x y, scalarTable (.srem f345) = some (f345, op)
    ∧ n = (if f345.w = 1 then 32 else 64) ∧ x = (scalar extremes (issueOf 2) 4).setWidth n
    ∧ y = (secondOperand f345 extremes (issueOf 2)).setWidth n ∧ x = BitVec.intMin n ∧ y = BitVec.allOnes n
    ∧ runsNow (scalarShape f345 []) (fun _ _ => true) (issueOf 2) extremes :=
  ⟨_, 64, _, _, rfl, rfl, rfl, rfl, by decide +kernel, by decide +kernel, by unfold runsNow; decide +kernel⟩

theorem witness_ssel : runsNow (scalarShape f345 [3]) (fun _ _ => true) (issueOf 2) scalars := by unfold runsNow; decide +kernel

/-- A machine whose thread's words translate: a TLB entry maps page 0 to device memory at 2^32, where a header and the
words of `SLI s5, #7` stand. -/
def fetching : State :=
  let s := machineOf 1 {}
  { s with
    mem := bytesOf 0x100000000 0xFC05000000030066 ++ bytesOf 0x100000008 0x1700A00000000000 ++ [(0x100000010, 7)]
    ca := { tlb := [{ live := true, cluster := 0, ctx := 0, vpn := 0, base := 0x100000000, flags := 0xCF, expiry := 1000000 }] } }
where
  /-- The nonzero bytes of a word, little-endian. -/
  bytesOf (a w : Nat) : Sparse Byte :=
    (List.range 8).filterMap fun i => if w / 256 ^ i % 256 = 0 then none else some (a + i, BitVec.ofNat 8 (w / 256 ^ i))

theorem witness_sli :
    runsNow { engines := allEngines, sdst := [5], undef := !hasNextWord fetching (issueOf 1) } (fun _ _ => true) (issueOf 1) fetching
      ∧ fetch fetching (fetching.thread 0) 16 = .ok 7 := ⟨by unfold runsNow; decide +kernel, by decide +kernel⟩

theorem witness_sget : runsNow { engines := ctlEngines, sdst := [3] } (fun _ _ => true) (issueOf 2) scalars := by unfold runsNow; decide +kernel

theorem witness_system_values_core : (scalars.thread 0).engine = .core := by decide +kernel

/-- A steward on the SCC of cluster 0. -/
def stewardOf (r : Regs) : Thread :=
  { live := true, engine := .scc, level := .steward, ctx := 0, core := 0, slot := 0, width := 1, regs := { r with em := 1, lanes := lanesAt 1 } }

/-- A machine with that steward and its issue in hand. -/
def sccOf (r : Regs) : State :=
  { threads := [(65536, stewardOf r)], ctxs := [(0, { live := true, steward := some 65536 })], cur := some { thr := 65536, lanes := 1, pc := 8 } }

/-- The issue of that steward. -/
def sccIssue : Issue := { thr := 65536, lanes := 1, pc := 8 }

theorem witness_system_values_scc : ((sccOf {}).thread 65536).engine = .scc ∧ ((sccOf {}).thread 65536).width = 1 := by decide +kernel

theorem witness_vget : runsNow { vdst := [40] } (fun _ _ => true) (issueOf 2) scalars ∧ (scalars.thread 0).reefUse = [] :=
  ⟨by unfold runsNow; decide +kernel, by decide +kernel⟩

theorem witness_vsplat : runsNow { vdst := [40], ssrc := [4] } (fun _ _ => true) (issueOf 2) scalars ∧ (scalars.thread 0).reefUse = [] :=
  ⟨by unfold runsNow; decide +kernel, by decide +kernel⟩

theorem witness_slane : let sh : Shape := { vsrc := [40], sdst := [3], wide := true, undef := decide ((scalars.thread 0).width ≤ 1) }
    runsNow sh (fun _ _ => true) (issueOf 2) scalars ∧ calm scalars (issueOf 2) sh :=
  ⟨by unfold runsNow; decide +kernel, calm_of (by decide +kernel)⟩

theorem witness_mask_binary : ∃ op, maskTable (.mand { fs with sd := 4, sa := 2, sb := 5 }) = some ({ fs with sd := 4, sa := 2, sb := 5 }, op)
    ∧ runsNow { engines := ctlEngines, msrc := [2, 5], mdst := [4] } (fun _ _ => true) (issueOf 16) masks :=
  ⟨_, rfl, by unfold runsNow; decide +kernel⟩

theorem witness_mfroms : runsNow { engines := ctlEngines, ssrc := [8], mdst := [6] } (fun _ _ => true) (issueOf 16) masks := by
  unfold runsNow; decide +kernel

theorem witness_mask_scalar : ∃ op, maskScalarTable (.mpopc { fs with sd := 3, sa := 2 }) = some ({ fs with sd := 3, sa := 2 }, [], op)
    ∧ runsNow { engines := ctlEngines, msrc := [2], ssrc := [], sdst := [3] } (fun _ _ => true) (issueOf 16) masks :=
  ⟨_, rfl, by unfold runsNow; decide +kernel⟩

/-! ### Vector instructions -/

theorem witness_vector_integer : ∃ F, (Instr.vadd f234).wellFormed = true ∧ laneTable (.vadd f234) = some F
    ∧ runsNow F.shape (fun _ _ => true) (issueOf 1) (pairOf 5 6) ∧ calm (pairOf 5 6) (issueOf 1) F.shape :=
  ⟨_, by decide +kernel, rfl, by unfold runsNow; decide +kernel, calm_of (by decide +kernel)⟩

theorem witness_vshl : ∃ F, laneTable (.vshl { f234 with cl := 2 }) = some F
    ∧ runsNow F.shape (fun _ _ => true) (issueOf 1) (pairOf 5 40) ∧ calm (pairOf 5 40) (issueOf 1) F.shape
    ∧ activeLanes (pairOf 5 40) (issueOf 1) F.shape = [0] ∧ 0 < typed 0 (modified 0 0 (operand (pairOf 5 40) (issueOf 1) F.shape 0 0))
    ∧ 32 ≤ (operand (pairOf 5 40) (issueOf 1) F.shape 1 0).toNat % 256 :=
  ⟨_, rfl, by unfold runsNow; decide +kernel, calm_of (by decide +kernel), by decide +kernel, by decide +kernel, by decide +kernel⟩

theorem witness_vshl_negative : ∃ F, laneTable (.vshl { f234 with cl := 2 }) = some F
    ∧ runsNow F.shape (fun _ _ => true) (issueOf 1) (pairOf (-5) 32) ∧ calm (pairOf (-5) 32) (issueOf 1) F.shape
    ∧ activeLanes (pairOf (-5) 32) (issueOf 1) F.shape = [0] ∧ typed 0 (modified 0 0 (operand (pairOf (-5) 32) (issueOf 1) F.shape 0 0)) < 0 :=
  ⟨_, rfl, by unfold runsNow; decide +kernel, calm_of (by decide +kernel), by decide +kernel, by decide +kernel⟩

theorem witness_vshl_wraps : ∃ F, laneTable (.vshl f234) = some F
    ∧ runsNow F.shape (fun _ _ => true) (issueOf 1) (pairOf 5 32) ∧ calm (pairOf 5 32) (issueOf 1) F.shape
    ∧ f234.cl = 0 ∧ 32 ≤ (operand (pairOf 5 32) (issueOf 1) F.shape 1 0).toNat % 256 :=
  ⟨_, rfl, by unfold runsNow; decide +kernel, calm_of (by decide +kernel), by decide +kernel, by decide +kernel⟩

theorem witness_vcmp : (Instr.vcmp f234).wellFormed = true ∧ runsNow { vsrc := [3, 4], mdst := [2] } (fun _ _ => true) (issueOf 1) (pairOf 5 6)
    ∧ calm (pairOf 5 6) (issueOf 1) { vsrc := [3, 4], mdst := [2] } :=
  ⟨by decide +kernel, by unfold runsNow; decide +kernel, calm_of (by decide +kernel)⟩

theorem witness_vcmpi : (Instr.vcmpi { fvi with d := 2, a := 3 }).wellFormed = true
    ∧ runsNow { vsrc := [3], mdst := [2] } (fun _ _ => true) (issueOf 1) (pairOf 5 6) ∧ calm (pairOf 5 6) (issueOf 1) { vsrc := [3], mdst := [2] } :=
  ⟨by decide +kernel, by unfold runsNow; decide +kernel, calm_of (by decide +kernel)⟩

theorem witness_lane_exchange : ∃ F, (Instr.vperm f234).wellFormed = true ∧ exchangeTable (.vperm f234) = some F ∧ 0 < ((pairOf 5 6).thread 0).width
    ∧ runsNow (F.shape (pairOf 5 6) (issueOf 1)) (fun _ _ => true) (issueOf 1) (pairOf 5 6)
    ∧ calm (pairOf 5 6) (issueOf 1) (F.shape (pairOf 5 6) (issueOf 1)) :=
  ⟨_, by decide +kernel, rfl, by decide +kernel, by unfold runsNow; decide +kernel, calm_of (by decide +kernel)⟩

/-- v3 holds 2, so that base 3 names register 5. -/
def indirect : State := pairOf 2 2

theorem witness_vmovx :
    runsNow { vsrc := [4], vdst := [2] } (computedFree { vsrc := [4], vdst := [2] } 3 0 true) (issueOf 1) indirect
      ∧ calm indirect (issueOf 1) { vsrc := [4], vdst := [2] }
      ∧ ∀ l ∈ activeLanes indirect (issueOf 1) { vsrc := [4], vdst := [2] },
          mayName indirect (issueOf 1) (3 + (operand indirect (issueOf 1) { vsrc := [4], vdst := [2] } 0 l).toNat)
          ∧ (indirect.thread 0).lostAt (3 + (operand indirect (issueOf 1) { vsrc := [4], vdst := [2] } 0 l).toNat) l = false :=
  ⟨by unfold runsNow; decide +kernel, calm_of (by decide +kernel), by unfold mayName; decide +kernel⟩

theorem witness_vmovxw :
    runsNow { vsrc := [3, 4] } (computedFree { vsrc := [3, 4] } 2 1 false) (issueOf 1) indirect
      ∧ calm indirect (issueOf 1) { vsrc := [3, 4] }
      ∧ ∀ l ∈ activeLanes indirect (issueOf 1) { vsrc := [3, 4] },
          mayName indirect (issueOf 1) (2 + (operand indirect (issueOf 1) { vsrc := [3, 4] } 1 l).toNat) :=
  ⟨by unfold runsNow; decide +kernel, calm_of (by decide +kernel), by unfold mayName; decide +kernel⟩

/-! ### Control flow -/

theorem witness_plain_group : plainGroup fetching (issueOf 1) := plain_of (by decide +kernel) (by decide +kernel) (by decide +kernel)

/-- `BRX s4` with s4 = 0, where the header stands. -/
def jumping : State := { fetching with threads := [(0, warpOf 1 { s := [] })] }

theorem witness_transfer : ∃ F, (Instr.brx { fb with s := 4 }).wellFormed = true ∧ transferTable jumping (issueOf 1) (.brx { fb with s := 4 }) = some F
    ∧ runsNow F.shape (fun _ _ => true) (issueOf 1) jumping ∧ plainGroup jumping (issueOf 1)
    ∧ ∀ l a, acts jumping (issueOf 1) F.g l → F.target l = some a → F.never l = false ∧ goodTarget jumping (issueOf 1) a :=
  ⟨_, by decide +kernel, rfl, by unfold runsNow; decide +kernel, plain_of (by decide +kernel) (by decide +kernel) (by decide +kernel), by
    intro l a _ h
    refine ⟨rfl, ?_⟩
    have h0 : some (BitVec.setWidth 56 (scalar jumping (issueOf 1) 4)) = some (0 : Addr) := by decide +kernel
    obtain rfl : (0 : Addr) = a := Option.some.inj (h0.symm.trans h)
    exact ⟨by decide +kernel, 0xFC05000000030066, by decide +kernel, by decide +kernel⟩⟩

/-- The same with s4 = 4, a misaligned target, and with s4 = 8, where no header stands. -/
def jumpingTo (a : W64) : State := { fetching with threads := [(0, warpOf 1 { s := [(4, a)] })] }

theorem witness_bad_target_misaligned : ∃ F, (Instr.brx { fb with s := 4 }).wellFormed = true
    ∧ transferTable (jumpingTo 4) (issueOf 1) (.brx { fb with s := 4 }) = some F ∧ runsNow F.shape (fun _ _ => true) (issueOf 1) (jumpingTo 4)
    ∧ plainGroup (jumpingTo 4) (issueOf 1) ∧ active (jumpingTo 4) (issueOf 1) F.g.toNat ≠ 0
    ∧ (∀ l, acts (jumpingTo 4) (issueOf 1) F.g l → F.target l = some 4) ∧ (4 : Addr).toNat % 8 ≠ 0 :=
  ⟨_, by decide +kernel, rfl, by unfold runsNow; decide +kernel, plain_of (by decide +kernel) (by decide +kernel) (by decide +kernel), by decide +kernel,
    fun _ _ => show some (BitVec.setWidth 56 (scalar (jumpingTo 4) (issueOf 1) 4)) = some (4 : Addr) by decide +kernel, by decide +kernel⟩

theorem witness_bad_target_no_header : ∃ F, (Instr.brx { fb with s := 4 }).wellFormed = true
    ∧ transferTable (jumpingTo 8) (issueOf 1) (.brx { fb with s := 4 }) = some F ∧ runsNow F.shape (fun _ _ => true) (issueOf 1) (jumpingTo 8)
    ∧ plainGroup (jumpingTo 8) (issueOf 1) ∧ active (jumpingTo 8) (issueOf 1) F.g.toNat ≠ 0
    ∧ (∀ l, acts (jumpingTo 8) (issueOf 1) F.g l → F.target l = some 8)
    ∧ ∃ w : W64, fetch (jumpingTo 8) ((jumpingTo 8).thread 0) 8 = .ok w ∧ w.extractLsb' 58 6 ≠ 63 :=
  ⟨_, by decide +kernel, rfl, by unfold runsNow; decide +kernel, plain_of (by decide +kernel) (by decide +kernel) (by decide +kernel), by decide +kernel,
    fun _ _ => show some (BitVec.setWidth 56 (scalar (jumpingTo 8) (issueOf 1) 4)) = some (8 : Addr) by decide +kernel, 0x1700A00000000000, by decide +kernel, by decide +kernel⟩

/-- A block whose rcv is 0. -/
def noRejoin : State :=
  { threads := [(0, { warpOf 1 {} with regs := { (warpOf 1 {}).regs with lanes := [(0, { atEight with word := 0xFC05000000030006 })] } })]
    ctxs := [(0, { live := true })], cur := some (issueOf 1) }

theorem witness_bad_target_rejoin : ∃ F, (Instr.bra { fb with n := 1 }).wellFormed = true
    ∧ transferTable noRejoin (issueOf 1) (.bra { fb with n := 1 }) = some F ∧ runsNow F.shape (fun _ _ => true) (issueOf 1) noRejoin
    ∧ plainGroup noRejoin (issueOf 1) ∧ active noRejoin (issueOf 1) F.g.toNat ≠ 0
    ∧ (∀ l, acts noRejoin (issueOf 1) F.g l → F.target l = some 0) ∧ ∀ l, acts noRejoin (issueOf 1) F.g l → F.never l = true := by
  have only : ∀ l, acts noRejoin (issueOf 1) 0 l → l = 0 := fun l h => by
    have h1 : active noRejoin (issueOf 1) 0 = 1 := by decide +kernel
    have h2 : (active noRejoin (issueOf 1) 0).testBit l = true := h
    rw [h1, Nat.testBit_one_eq_true_iff_self_eq_zero] at h2
    exact h2
  refine ⟨_, by decide +kernel, rfl, by unfold runsNow; decide +kernel, plain_of (by decide +kernel) (by decide +kernel) (by decide +kernel),
    by decide +kernel, fun l h => ?_, fun l h => ?_⟩
  · obtain rfl := only l h
    decide +kernel
  · obtain rfl := only l h
    decide +kernel

theorem witness_empty_mask : ∃ g sh, (Instr.exit { fb with g := 1 }).wellFormed = true
    ∧ guardedTable scalars (issueOf 2) (.exit { fb with g := 1 }) = some (g, sh) ∧ runsNow sh (fun _ _ => true) (issueOf 2) scalars
    ∧ plainGroup scalars (issueOf 2) ∧ active scalars (issueOf 2) g.toNat = 0 ∧ (scalars.thread 0).engine = .core :=
  ⟨_, _, by decide +kernel, rfl, by unfold runsNow; decide +kernel, plain_of (by decide +kernel) (by decide +kernel) (by decide +kernel),
    by decide +kernel, by decide +kernel⟩

theorem witness_nop : runsNow { engines := ctlEngines } (fun _ _ => true) (issueOf 2) scalars := by unfold runsNow; decide +kernel

theorem plain_scalars : plainGroup scalars (issueOf 2) := plain_of (by decide +kernel) (by decide +kernel) (by decide +kernel)

theorem witness_enrol : runsNow { g := 0, msrc := [2] } (fun _ _ => true) (issueOf 2) scalars := by unfold runsNow; decide +kernel

theorem witness_await : runsNow { g := 0 } (fun _ _ => true) (issueOf 2) scalars ∧ plainGroup scalars (issueOf 2) :=
  ⟨by unfold runsNow; decide +kernel, plain_scalars⟩

/-- A warp of width 1 whose lane waits in a state. -/
def waiting (x : LaneState) (r : Regs) : State :=
  { threads := [(0, { warpOf 1 r with regs := { (warpOf 1 r).regs with lanes := [(0, { atEight with state := x })] } })], ctxs := [(0, { live := true })] }

theorem witness_join_release : let s := waiting (.joining 1) { j := [(1, 1)] }
    1 < 4 ∧ (s.thread 0).live = true ∧ (s.thread 0).episode = none ∧ (s.thread 0).regs.getJ 1 ≠ 0
    ∧ ∀ l, ((s.thread 0).regs.getJ 1).getLsbD l = true → ((s.thread 0).lane l).live = true ∧ ((s.thread 0).lane l).state = .joining 1 := by
  refine ⟨by decide, by decide +kernel, by decide +kernel, by decide +kernel, fun l h => ?_⟩
  have h1 : ((waiting (.joining 1) { j := [(1, 1)] }).thread 0).regs.getJ 1 = 1#64 := by decide +kernel
  rw [h1] at h
  have : l = 0 := by
    by_contra hn
    simp [BitVec.getLsbD_one, hn] at h
  subst this
  decide +kernel

theorem witness_exit : runsNow (controlShape scalars (issueOf 2) fb [] []) (fun _ _ => true) (issueOf 2) scalars ∧ plainGroup scalars (issueOf 2)
    ∧ (scalars.thread 0).engine = .core := ⟨by unfold runsNow; decide +kernel, plain_scalars, by decide +kernel⟩

theorem witness_exit_steward : runsNow (controlShape (sccOf {}) sccIssue fb [] []) (fun _ _ => true) sccIssue (sccOf {})
    ∧ ((sccOf {}).thread 65536).engine = .scc ∧ ((sccOf {}).thread 65536).level = .steward :=
  ⟨by unfold runsNow; decide +kernel, by decide +kernel, by decide +kernel⟩

/-- The machine of `scalars` beside a handler on SCC 0 that holds the record of lane 0. -/
def handled : State :=
  { threads := [(0, warpOf 2 {}), (65536, { stewardOf {} with level := .handler, record := 6 })], ctxs := [(0, { live := true })]
    fl := { traps := [(5, { live := true, thr := 0, ctx := 0, lanes := 1, pc := 8, handler := some 65536 })] }, cur := some sccIssue }

theorem witness_exit_handler : runsNow (controlShape handled sccIssue fb [] []) (fun _ _ => true) sccIssue handled
    ∧ (handled.thread 65536).engine = .scc ∧ (handled.thread 65536).level = .handler
    ∧ (let r := handled.trap ((handled.thread 65536).record - 1)
       let t := handled.thread r.thr
       r.live = true ∧ r.thr ≠ 65536 ∧ t.live = true ∧ t.engine = .core ∧ t.seq = none) :=
  ⟨by unfold runsNow; decide +kernel, by decide +kernel, by decide +kernel, by decide +kernel⟩

/-- A firmware thread on core 1 of die 0. -/
def firmwareAt : State :=
  { threads := [(98305, { stewardOf {} with engine := .harbour, level := .harbour, core := 1 })]
    cur := some { thr := 98305, lanes := 1, pc := 8 } }

theorem witness_exit_firmware : let iss : Issue := { thr := 98305, lanes := 1, pc := 8 }
    runsNow (controlShape firmwareAt iss fb [] []) (fun _ _ => true) iss firmwareAt
      ∧ (firmwareAt.thread 98305).engine = .harbour ∧ (firmwareAt.thread 98305).level = .harbour :=
  ⟨by unfold runsNow; decide +kernel, by decide +kernel, by decide +kernel⟩

theorem witness_yield : runsNow (controlShape scalars (issueOf 2) fb [] []) (fun _ _ => true) (issueOf 2) scalars ∧ plainGroup scalars (issueOf 2)
    ∧ active scalars (issueOf 2) 0 ≠ 0 := ⟨by unfold runsNow; decide +kernel, plain_scalars, by decide +kernel⟩

theorem witness_yield_end : (scalars.thread 0).width ≤ 64 ∧ ∀ l, l < (scalars.thread 0).width → ((scalars.thread 0).lane l).excluded ≤ 1 := by
  decide +kernel

/-- `REP` before a `SADD` in the next word. -/
def repeating : State :=
  { fetching with mem := Tests.fetching.bytesOf 0x100000000 0xFC05000000030066 ++ Tests.fetching.bytesOf 0x100000010 0x1000620A00000000 }

theorem witness_rep : runsNow { engines := ctlEngines } (fun iss s => (s.thread iss.thr).seq.isNone) (issueOf 1) repeating
    ∧ plainGroup repeating (issueOf 1) ∧ repFail repeating (issueOf 1) 0 = none :=
  ⟨by unfold runsNow; decide +kernel, plain_of (by decide +kernel) (by decide +kernel) (by decide +kernel), by decide +kernel⟩

/-- `REP` in the last word of its block. -/
theorem witness_rep_last : let s : State := { threads := [(0, { warpOf 1 {} with regs := { (warpOf 1 {}).regs with
        lanes := [(0, { atEight with word := 0xFC01000000000066 })] } })], ctxs := [(0, { live := true })], cur := some (issueOf 1) }
    runsNow { engines := ctlEngines } (fun iss s => (s.thread iss.thr).seq.isNone) (issueOf 1) s ∧ plainGroup s (issueOf 1)
      ∧ (issueOf 1).lanes ≠ 0 ∧ lastWord s (issueOf 1) :=
  ⟨by unfold runsNow; decide +kernel, plain_of (by decide +kernel) (by decide +kernel) (by decide +kernel), by decide,
    0, by unfold inGroup; decide +kernel, by decide +kernel⟩

/-- `REP` before an `SLI`, and before a `SADD` under a step mask that names a field of no step. -/
def repeatingWord (w : Nat) : State :=
  { fetching with mem := Tests.fetching.bytesOf 0x100000000 0xFC05000000030066 ++ Tests.fetching.bytesOf 0x100000010 w }

theorem witness_rep_refused : runsNow { engines := ctlEngines } (fun iss s => (s.thread iss.thr).seq.isNone) (issueOf 1) (repeatingWord 0x1700A00000000000)
    ∧ plainGroup (repeatingWord 0x1700A00000000000) (issueOf 1) ∧ ¬ lastWord (repeatingWord 0x1700A00000000000) (issueOf 1)
    ∧ ∃ w, fetch (repeatingWord 0x1700A00000000000) ((repeatingWord 0x1700A00000000000).thread 0) ((issueOf 1).pc + 8) = .ok w
        ∧ notRepeated w 0 := by
  refine ⟨by unfold runsNow; decide +kernel, plain_of (by decide +kernel) (by decide +kernel) (by decide +kernel), ?_, 0x1700A00000000000,
    by decide +kernel, .inr (.inr (.inr (.inl (by decide +kernel))))⟩
  rintro ⟨l, hl, h⟩
  obtain rfl : l = 0 := by
    by_contra hn
    simp [inGroup, issueOf, Nat.testBit_one_eq_true_iff_self_eq_zero] at hl
    exact hn hl
  exact absurd h (by decide +kernel)

theorem witness_wait : runsNow { engines := ctlEngines } (fun _ _ => true) (issueOf 2) scalars ∧ plainGroup scalars (issueOf 2) :=
  ⟨by unfold runsNow; decide +kernel, plain_scalars⟩

/-- A running lane of a warp of width 1, held. -/
def holding (h : Hold) : State :=
  { threads := [(0, { warpOf 1 {} with regs := { (warpOf 1 {}).regs with lanes := [(0, { atEight with hold := h })] } })], ctxs := [(0, { live := true })] }

theorem witness_wait_release : let s := holding (.counters 0 0 0 0)
    mayRelease s 0 0 ∧ ((s.thread 0).lane 0).hold = .counters 0 0 0 0 ∧ (s.thread 0).seq = none ∧ withinLimits (s.thread 0) 0 0 0 0 := by
  unfold mayRelease withinLimits; decide +kernel

theorem witness_sleep : runsNow (controlShape scalars (issueOf 2) { fb with off := 500 } [] []) (fun _ _ => true) (issueOf 2) scalars
    ∧ plainGroup scalars (issueOf 2) := ⟨by unfold runsNow; decide +kernel, plain_scalars⟩

theorem witness_sleep_wake : let s := waiting (.sleeping 0) {}
    ((s.thread 0).lane 0).state = .sleeping 0 ∧ (s.thread 0).episode = none ∧ 0 ≤ dtOf s (s.thread 0) := by decide +kernel

theorem witness_barrier : (∃ b, (Instr.bar { fb with cc := 1 }).wellFormed = true ∧ barrierTable (.bar { fb with cc := 1 }) = some ({ fb with cc := 1 }, b))
    ∧ runsNow { g := 0 } (fun _ _ => true) (issueOf 2) scalars ∧ plainGroup scalars (issueOf 2) :=
  ⟨⟨_, by decide +kernel, rfl⟩, by unfold runsNow; decide +kernel, plain_scalars⟩

/-- A workgroup of one warp whose lane has arrived. -/
def arrivedAll : State :=
  { threads := [(0, { warpOf 1 {} with regs := { (warpOf 1 {}).regs with lanes := [(0, { atEight with state := .atBarrier true, arrived := true })] } })]
    ctxs := [(0, { live := true })], wgs := [(0, { live := true, ctx := 0, slots := [0], warps := [0] })] }

theorem witness_phase : wgLanes arrivedAll 0 ≠ [] ∧ (∀ e ∈ wgLanes arrivedAll 0, e.2.arrived = true)
    ∧ ∀ k ∈ (arrivedAll.wg 0).warps, (arrivedAll.thread k).episode = none := by decide +kernel

/-! ### Floating-point instructions -/

theorem plain_pair (a b : W32) : plainGroup (pairOf a b) (issueOf 1) :=
  plain_of (by decide) (by show _ = true; rfl) rfl

theorem witness_rounding : fp32 ∈ formats ∧ (0 : Nat) < 4 ∧ (1 : Nat) ≠ 0 ∧ (3 : Nat) ≠ 0
    ∧ ∃ code flags, roundTo fp32 { mode := 0 } (.fin false 1 3 0) = (code, flags) ∧ ¬flagged flags 2 :=
  ⟨by simp [formats], by decide, by decide, by decide, _, _, rfl, by unfold flagged; decide +kernel⟩

theorem witness_overflow : bf16 ∈ formats ∧ (1 : Nat) ≠ 0
    ∧ ∃ code flags, roundTo bf16 { mode := 0 } (.fin true 1 1 130) = (code, flags) ∧ flagged flags 2 :=
  ⟨by simp [formats], by decide, _, _, rfl, by unfold flagged; decide +kernel⟩

theorem witness_underflow : fp32 ∈ formats ∧ ∃ code flags, roundTo fp32 { mode := 0 } (.fin false 1 3 (-130)) = (code, flags)
    ∧ flagged flags 3 ∧ flagged flags 4 :=
  ⟨by simp [formats], _, _, rfl, by unfold flagged; decide +kernel, by unfold flagged; decide +kernel⟩

theorem witness_flush : bf16 ∈ formats ∧ (1 : Nat) < 2 ^ (bf16.signBit + 1) ∧ (4 : W32).getLsbD 2 = true := by
  refine ⟨by simp [formats], by decide, by decide⟩

theorem witness_draw : fp32 ∈ formats ∧ (5 : Nat) < 2 ^ 24
    ∧ ∃ code flags, roundTo fp32 { mode := 0, sat := false, draw := some 5 } (.fin false 1 3 0) = (code, flags) ∧ flagged flags 4 :=
  ⟨by simp [formats], by decide, _, _, rfl, by unfold flagged; decide +kernel⟩

theorem float_runs {sh : Shape} {s : State} {iss : Issue} (h : runsNow sh (fun _ _ => true) iss s) (hq : quiet s iss = true)
    (hp : plainGroup s iss) (hc : (sourceRegs s iss).fpctl.toNat / 2 ^ 8 % 2 ^ 5 = 0) : floatRuns sh s iss := ⟨h, calm_of hq, hp, hc⟩

theorem witness_float_arithmetic : ∃ F, (Instr.vfadd f234).wellFormed = true ∧ arithmeticTable (.vfadd f234) = some F
    ∧ floatRuns F.shape (pairOf 0x3F800000 0x40000000) (issueOf 1) :=
  ⟨_, by decide +kernel, rfl, float_runs (sh := { vsrc := [3, 4], vdst := [2] }) (by unfold runsNow; decide +kernel) (by decide +kernel) (plain_pair _ _) (by decide +kernel)⟩

theorem witness_float_selection : ∃ F, (Instr.vfmin f234).wellFormed = true ∧ selectTable (.vfmin f234) = some F
    ∧ floatRuns F.shape (pairOf 0x3F800000 0x40000000) (issueOf 1) :=
  ⟨_, by decide +kernel, rfl, float_runs (sh := { vsrc := [3, 4], vdst := [2] }) (by unfold runsNow; decide +kernel) (by decide +kernel) (plain_pair _ _) (by decide +kernel)⟩

/-- One operand in v3. -/
def f23 : FV2 := { fv2 with d := 2, a := 3 }

theorem float_one (a : W32) : floatRuns { vsrc := [3], vdst := [2] } (pairOf a 0) (issueOf 1) :=
  float_runs ⟨rfl, rfl, rfl, rfl, rfl, rfl, by simp [spoilt]⟩ rfl (plain_pair _ _) (show (0 : W32).toNat / 2 ^ 8 % 2 ^ 5 = 0 by decide)

theorem float_wide (a : W32) : floatRuns { vsrc := [3], vdst := [2], wide := true } (pairOf a 0) (issueOf 1) :=
  float_runs ⟨rfl, rfl, rfl, rfl, rfl, rfl, by simp [spoilt]⟩ rfl (plain_pair _ _) (show (0 : W32).toNat / 2 ^ 8 % 2 ^ 5 = 0 by decide)

theorem witness_special : ∃ F, (Instr.vrcp f23).wellFormed = true ∧ specialTable (.vrcp f23) = some F ∧ floatRuns F.shape (pairOf 0x40400000 0) (issueOf 1) :=
  ⟨_, by decide +kernel, rfl, float_one _⟩

theorem witness_transcendental : floatRuns { vsrc := [3], vdst := [2] } (pairOf 0x3F800000 0) (issueOf 1) ∧ f23.cl = 0
    ∧ (sourceRegs (pairOf 0x3F800000 0) (issueOf 1)).fpctl.toNat % 8 = 0
    ∧ ∀ l ∈ activeLanes (pairOf 0x3F800000 0) (issueOf 1) { vsrc := [3], vdst := [2] },
        evaluates 3 (fpOperand fp32 (sourceRegs (pairOf 0x3F800000 0) (issueOf 1)).fpctl 0 0
          (operand (pairOf 0x3F800000 0) (issueOf 1) { vsrc := [3], vdst := [2] } 0 l).toNat) := by
  refine ⟨float_one _, by decide, by decide +kernel, fun l hl => ?_⟩
  have h : activeLanes (pairOf 0x3F800000 0) (issueOf 1) { vsrc := [3], vdst := [2] } = [0] := by decide +kernel
  rw [h] at hl
  obtain rfl : l = 0 := by simpa using hl
  have hv : fpOperand fp32 (sourceRegs (pairOf 0x3F800000 0) (issueOf 1)).fpctl 0 0
      (operand (pairOf 0x3F800000 0) (issueOf 1) { vsrc := [3], vdst := [2] } 0 0).toNat = .fin false 0x800000 (-23) := by decide +kernel
  rw [hv]
  exact ⟨⟨false, _, _, rfl, by decide, fun h => absurd h (by decide)⟩, false, 1, 1, 1, by decide +kernel, by decide⟩

theorem witness_roots : floatRuns { vsrc := [3], vdst := [2] } (pairOf 0x40000000 0) (issueOf 1) ∧ f23.cl = 0
    ∧ (sourceRegs (pairOf 0x40000000 0) (issueOf 1)).fpctl.toNat % 4 = 0
    ∧ ∀ l ∈ activeLanes (pairOf 0x40000000 0) (issueOf 1) { vsrc := [3], vdst := [2] },
        ∃ m e, fpOperand fp32 (sourceRegs (pairOf 0x40000000 0) (issueOf 1)).fpctl 0 0
          (operand (pairOf 0x40000000 0) (issueOf 1) { vsrc := [3], vdst := [2] } 0 l).toNat = .fin false m e ∧ m ≠ 0 := by
  refine ⟨float_one _, by decide, by decide +kernel, fun l hl => ?_⟩
  have h : activeLanes (pairOf 0x40000000 0) (issueOf 1) { vsrc := [3], vdst := [2] } = [0] := by decide +kernel
  rw [h] at hl
  obtain rfl : l = 0 := by simpa using hl
  exact ⟨0x800000, -22, by decide +kernel, by decide⟩

theorem witness_conversion : ∃ F, (Instr.vcvt { f23 with t := 1 }).wellFormed = true ∧ conversionTable (.vcvt { f23 with t := 1 }) = some F
    ∧ floatRuns F.shape (pairOf 0x40400000 0) (issueOf 1) := ⟨_, by decide +kernel, rfl, float_one _⟩

theorem witness_vfcmp : (Instr.vfcmp f234).wellFormed = true ∧ floatRuns { vsrc := [3, 4], mdst := [2] } (pairOf 0x3F800000 0x40000000) (issueOf 1) :=
  ⟨by decide +kernel, float_runs (by unfold runsNow; decide +kernel) (by decide +kernel) (plain_pair _ _) (by decide +kernel)⟩

theorem witness_vfred : (Instr.vfred f23).wellFormed = true ∧ ((pairOf 0x3F800000 0).thread 0).width ∈ [1, 2, 4, 8, 16, 32, 64]
    ∧ floatRuns { vsrc := [3], vdst := [2], wide := true } (pairOf 0x3F800000 0) (issueOf 1) := ⟨by decide +kernel, by decide +kernel, float_wide _⟩

theorem witness_vscl : let sh : Shape := { vsrc := [3], vdst := [2], wide := true }
    (Instr.vscl f23).wellFormed = true ∧ runsNow sh (fun _ _ => true) (issueOf 1) (pairOf 0x3F800000 0)
      ∧ calm (pairOf 0x3F800000 0) (issueOf 1) sh :=
  ⟨by decide +kernel, (float_wide _).1, (float_wide _).2.1⟩

/-- The lane's operand is a number of each kind that `VSCL` distinguishes: an infinity, a zero, another number. -/
theorem witness_vscl_kinds : fpOperand fp32 0 0 0 0x7F800000 = .inf false ∧ fpOperand fp32 0 0 0 0 = .fin false 0 (-149)
    ∧ fpOperand fp32 0 0 0 0x3F800000 = .fin false 0x800000 (-23) := by decide +kernel

theorem witness_vpack : (Instr.vpack f23).wellFormed = true ∧ runsNow { vsrc := [3], vmore := [2], vdst := [2] } (fun _ _ => true) (issueOf 1) (pairOf 1 0)
    ∧ calm (pairOf 1 0) (issueOf 1) { vsrc := [3], vmore := [2], vdst := [2] } :=
  ⟨by decide +kernel, by unfold runsNow; decide +kernel, calm_of (by decide +kernel)⟩

theorem witness_vunpk : (Instr.vunpk f23).wellFormed = true ∧ runsNow { vsrc := [3], vdst := [2] } (fun _ _ => true) (issueOf 1) (pairOf 1 0)
    ∧ calm (pairOf 1 0) (issueOf 1) { vsrc := [3], vdst := [2] } := ⟨by decide +kernel, (float_one _).1, (float_one _).2.1⟩

/-- A zero in v3 with the divide-by-zero trap enabled. -/
def dividing : State := machineOf 1 { fpctl := 0x200 }

theorem witness_enabled_flag : runsNow { vsrc := [3], vdst := [2] } (fun _ _ => true) (issueOf 1) dividing
    ∧ calm dividing (issueOf 1) { vsrc := [3], vdst := [2] } ∧ plainGroup dividing (issueOf 1) ∧ f23.cl = 0
    ∧ (sourceRegs dividing (issueOf 1)).fpctl.getLsbD 9 = true ∧ activeLanes dividing (issueOf 1) { vsrc := [3], vdst := [2] } = [0]
    ∧ ∃ neg e, fpOperand fp32 (sourceRegs dividing (issueOf 1)).fpctl 0 0 (operand dividing (issueOf 1) { vsrc := [3], vdst := [2] } 0 0).toNat = .fin neg 0 e :=
  ⟨by unfold runsNow; decide +kernel, calm_of (by decide +kernel), plain_of (by decide +kernel) (by decide +kernel) (by decide +kernel), by decide,
    by decide +kernel, by decide +kernel, false, -149, by decide +kernel⟩

end Sys2Proof.Tests
end

