-- ==== Sys2Proof/Tests/MemoryWitnesses.lean ====
section
/-! SUPPORT. States and operands that meet the hypotheses of the statements: memory, ordering, rows, runahead and copies. -/

namespace Sys2Proof.Tests

set_option Elab.async false

open Sys2Proof Sys2Proof.Machine Sys2Proof.Safety Sys2Proof.Claims

/-! ### Loads and stores -/

/-- A TLB entry that maps page 0 of context 0 to device memory at 2^32. -/
def pageZero : Tlb := { live := true, cluster := 0, ctx := 0, vpn := 0, base := 0x100000000, flags := 0xCF, expiry := 1000000 }

/-- A warp of one lane whose page 0 is mapped. -/
def mapped (r : Regs) : State := { machineOf 1 r with ca := { tlb := [pageZero] } }

theorem plain_mapped (r : Regs) : plainGroup (mapped r) (issueOf 1) := plain_of (by decide) (by show _ = true; rfl) rfl

def aLoad : Instr := .ld { fm with d := 2, sb := 4, off := 64, sz := 2 }

theorem witness_load : ∃ F, aLoad.wellFormed = true ∧ loadTable (mapped {}) (issueOf 1) aLoad = some F
    ∧ runsNow F.shape (accessReady F.rules fun _ _ => F.acc) (issueOf 1) (mapped {}) ∧ calm (mapped {}) (issueOf 1) F.shape
    ∧ plainGroup (mapped {}) (issueOf 1) ∧ allGood (mapped {}) (issueOf 1) F (some 0) :=
  ⟨_, by decide +kernel, rfl, by unfold runsNow; decide +kernel, calm_of (by decide +kernel), plain_mapped _, by unfold allGood; decide +kernel⟩

def aStore (k : BitVec 2) (o : BitVec 3) : Instr := .st { fm with d := 2, sb := 4, off := 64, sz := 2, o, k }

theorem witness_store : ∃ F, (aStore 0 0).wellFormed = true ∧ storeTable (mapped {}) (issueOf 1) (aStore 0 0) = some F
    ∧ runsNow F.shape (accessReady F.rules fun _ _ => F.acc) (issueOf 1) (mapped {}) ∧ calm (mapped {}) (issueOf 1) F.shape
    ∧ plainGroup (mapped {}) (issueOf 1) ∧ isRel F.k F.o = false ∧ allGood (mapped {}) (issueOf 1) F none :=
  ⟨_, by decide +kernel, rfl, by unfold runsNow; decide +kernel, calm_of (by decide +kernel), plain_mapped _, by decide +kernel,
    by unfold allGood; decide +kernel⟩

theorem witness_store_release : ∃ F, (aStore 2 5).wellFormed = true ∧ storeTable (mapped {}) (issueOf 1) (aStore 2 5) = some F
    ∧ runsNow F.shape (accessReady F.rules fun _ _ => F.acc) (issueOf 1) (mapped {}) ∧ calm (mapped {}) (issueOf 1) F.shape
    ∧ plainGroup (mapped {}) (issueOf 1) ∧ F.acc ≠ [] ∧ isRel F.k F.o = true ∧ ¬ ∀ l, inGroup (issueOf 1) l → (((mapped {}).thread 0).lane l).hold = .passed :=
  ⟨_, by decide +kernel, rfl, by unfold runsNow; decide +kernel, calm_of (by decide +kernel), plain_mapped _, by decide +kernel, by decide +kernel,
    fun h => absurd (h 0 (show (issueOf 1).lanes.testBit 0 = true by decide)) (by decide +kernel)⟩

/-- Two lanes whose page 0 is mapped, the second one's index odd, with what lane's registers hold lost. -/
def uneven (lost : List Nat) : State :=
  { machineOf 2 { v := [(64 * 3 + 1, 1)] } with
    threads := [(0, { warpOf 2 { v := [(64 * 3 + 1, 1)] } with lost })], ca := { tlb := [pageZero] } }

theorem real_of {s : State} {iss : Issue} (h : plainGroup s iss) (hw : (s.thread iss.thr).width ≤ 64) : realLanes s iss :=
  ⟨hw, fun l hl => ⟨(h.1 l hl).1, (h.1 l hl).2.2⟩⟩

theorem real_uneven (l : List Nat) : realLanes (uneven l) (issueOf 2) :=
  real_of (plain_of (by decide) (by show _ = true; rfl) rfl) (show 2 ≤ 64 by decide)

/-- A load indexed by v3: of the two lanes, one is misaligned. -/
def anUnevenLoad : Instr := .ld { fm with d := 2, sb := 4, vx := 3, ix := 1, off := 64, sz := 2 }

theorem witness_load_some_fail : ∃ F, anUnevenLoad.wellFormed = true ∧ loadTable (uneven []) (issueOf 2) anUnevenLoad = some F
    ∧ runsNow F.shape (accessReady F.rules fun _ _ => F.acc) (issueOf 2) (uneven []) ∧ ((uneven []).thread 0).reefUse = []
    ∧ F.acc.map (judge (uneven []) (whoOf ((uneven []).thread 0)) F.rules (some 0)) = [none, some (.trap .align 65)] :=
  ⟨_, by decide +kernel, rfl, by unfold runsNow; decide +kernel, by decide +kernel, by decide +kernel⟩

theorem witness_scalar_load_lost : ∃ F, loadTable (uneven [65536 + 4]) (issueOf 2) (.sld { fs with sd := 9, sa := 4 }) = some F
    ∧ F.whole = true ∧ lostBad (uneven [65536 + 4]) (issueOf 2) F.shape ≠ none := ⟨_, rfl, rfl, by decide +kernel⟩

def anUnevenStore : Instr := .st { fm with d := 2, sb := 4, vx := 3, ix := 1, off := 64, sz := 2 }

theorem witness_store_some_fail : ∃ F, anUnevenStore.wellFormed = true ∧ storeTable (uneven []) (issueOf 2) anUnevenStore = some F
    ∧ runsNow F.shape (accessReady F.rules fun _ _ => F.acc) (issueOf 2) (uneven []) ∧ ((uneven []).thread 0).reefUse = []
    ∧ isRel F.k F.o = false ∧ F.acc.map (judge (uneven []) (whoOf ((uneven []).thread 0)) F.rules none) = [none, some (.trap .align 65)] :=
  ⟨_, by decide +kernel, rfl, by unfold runsNow; decide +kernel, by decide +kernel, by decide +kernel, by decide +kernel⟩

/-- An access of four bytes at `a`. -/
def anAccess (a : Nat) (bad : Bool) : LaneAccess := { lane := 0, addr := a, pieces := [{ lane := 0, dst := .v 2 0, bit := 8 * a, width := 32 }], bad }

theorem witness_judged : let who := whoOf ((mapped {}).thread 0)
    let r : Rules := { align := 4 }
    (anAccess 66 false).addr % r.align ≠ 0
      ∧ judge (mapped {}) who r none (anAccess lagoonBase false) = some (.trap .badAddr (BitVec.ofNat 64 lagoonBase))
      ∧ (∃ m, judge (mapped {}) who r none (anAccess 0x10000 false) = some (.miss m))
      ∧ judge (mapped {}) who { r with allowed := fun _ => false } none (anAccess 64 false) = some (.trap .memType 64)
      ∧ judge (mapped {}) who r none (anAccess 64 true) = some (.trap .poison 0)
      ∧ judge { mapped {} with poison := [0x100000040] } who r (some 0) (anAccess 64 false) = some (.trap .poison 64)
      ∧ judge (mapped {}) who r (some 0) (anAccess 64 false) = none :=
  ⟨by decide, by decide +kernel, ⟨_, rfl⟩, by decide +kernel, by decide +kernel, by decide +kernel, by decide +kernel⟩

/-- A machine with one operation, 1, and one request of it, 2. -/
def sent (o : Op) (r : Req) : State :=
  { threads := [(0, warpOf 1 {})]
    ctxs := [(0, { live := true })]
    fl := { next := 3, ops := [(1, { o with live := true, ctx := 0 })], reqs := [(2, { r with live := true, op := 1, ctx := 0, key := 0x100000000 })] } }

theorem witness_load_performs : let s := sent { cls := .l } {}
    (s.req 2).kind = .load ∧ mayPerform s 2 = true := by decide +kernel

theorem witness_load_lands : let s := sent { cls := .l, elems := [{ dst := .v 2 0 }], dsts := [.v 2 0] } { done := true }
    (s.op 1).live = true ∧ (s.op 1).cls = .l ∧ (s.op 1).reef = none ∧ answered s 1 = true ∧ gated s 0 = false ∧ (s.thread 0).episode = none
      ∧ (s.thread 0).reefUse = [] ∧ (s.thread 0).seq = none ∧ (s.op 1).thr < backKey 0
      ∧ (∀ e ∈ resultsOf (s.op 1), ∀ d l, e.1 = .v d l → l < 64) ∧ (s.op 1).struck = [] := by
  refine ⟨by decide +kernel, by decide +kernel, by decide +kernel, by decide +kernel, by decide +kernel, by decide +kernel, by decide +kernel,
    by decide +kernel, by decide +kernel, fun e he d l h => ?_, by decide +kernel⟩
  simp [sent, resultsOf, State.op, look] at he
  obtain ⟨rfl, -⟩ := he
  cases h
  decide

/-- The same load of a poisoned place. -/
def poisonedLoad : State :=
  { sent { cls := .l, elems := [{ dst := .v 2 0, bit := 0 }], dsts := [.v 2 0] } {} with poison := [0x100000000] }

theorem witness_load_poisoned : (poisonedLoad.req 2).kind = .load ∧ mayPerform poisonedLoad 2 = true
    ∧ (poisonedLoad.op (poisonedLoad.req 2).op).reef = none
    ∧ poisoned poisonedLoad (poisonedLoad.req 2).space (forward poisonedLoad (poisonedLoad.req 2).space (poisonedLoad.req 2).key)
        (poisonedLoad.req 2).size = true := by decide +kernel

theorem witness_load_lands_poisoned : let s := sent { cls := .l, struck := [(0, 0)] } { done := true }
    (s.op 1).live = true ∧ (s.op 1).cls = .l ∧ (s.op 1).reef = none ∧ answered s 1 = true ∧ gated s 0 = false ∧ (s.thread 0).live = true
      ∧ (s.thread 0).episode = none ∧ (s.thread 0).reefUse = [] ∧ (s.thread 0).seq = none ∧ (s.op 1).thr < backKey 0
      ∧ (s.op 1).struck = [(0, 0)] ∧ resultsOf (s.op 1) = [] ∧ 0 < (s.thread 0).width ∧ ((s.thread 0).lane 0).live = true
      ∧ ((s.thread 0).lane 0).state = .running ∧ (s.thread 0).width ≤ 64 := by decide +kernel

theorem witness_store_performs : let s := sent { cls := .s } { kind := .store, mask := 255, data := 7 }
    (s.req 2).kind = .store ∧ (s.req 2).space ≠ .mmio ∧ mayPerform s 2 = true := by decide +kernel

theorem witness_discard : let s := sent { cls := .s } { kind := .discard, mask := allBits 32 }
    (s.req 2).kind = .discard ∧ discardLine s 2 ≠ [] ∧ ∀ m ∈ discardLine s 2, mayPerform s m = true ∧ (s.req m).kind = .discard
      ∧ (s.req m).space ≠ .mmio ∧ (s.req m).mask = allBits (s.req m).size ∧ (s.req m).data = 0 := by decide +kernel

theorem witness_store_returns : let s := sent { cls := .s } { kind := .store, done := true }
    (s.op 1).live = true ∧ (s.op 1).cls = .s ∧ (s.op 1).reef = none ∧ (s.op 1).struck = [] ∧ storeReturned s 1 = true ∧ (s.op 1).thr < backKey 0
      ∧ (s.thread 0).live = true := by decide +kernel

/-! ### Atomics, hints, regions, fences -/

def anAtomic (k : BitVec 2) (o : BitVec 3) : Instr := .atomr { fm with d := 2, sb := 4, off := 64, sz := 2, k, o }

theorem witness_atomic : ∃ F, (anAtomic 0 0).wellFormed = true ∧ atomTable (anAtomic 0 0) = some F
    ∧ runsNow F.shape (accessReady F.rules fun _ _ => F.acc (mapped {}) (issueOf 1)) (issueOf 1) (mapped {}) ∧ calm (mapped {}) (issueOf 1) F.shape
    ∧ plainGroup (mapped {}) (issueOf 1) ∧ ¬ fenceBefore (mapped {}) (issueOf 1) F.f.g.toNat F.f.k.toNat F.f.o.toNat
    ∧ ∀ a ∈ F.acc (mapped {}) (issueOf 1), judge (mapped {}) (whoOf ((mapped {}).thread 0)) F.rules (some 0) a = none :=
  ⟨_, by decide +kernel, rfl, by unfold runsNow; decide +kernel, calm_of (by decide +kernel), plain_mapped _,
    fun h => absurd h.2.1 (by decide +kernel), by decide +kernel⟩

theorem witness_atomic_release : ∃ F, (anAtomic 2 5).wellFormed = true ∧ atomTable (anAtomic 2 5) = some F
    ∧ runsNow F.shape (accessReady F.rules fun _ _ => F.acc (mapped {}) (issueOf 1)) (issueOf 1) (mapped {}) ∧ calm (mapped {}) (issueOf 1) F.shape
    ∧ plainGroup (mapped {}) (issueOf 1) ∧ fenceBefore (mapped {}) (issueOf 1) F.f.g.toNat F.f.k.toNat F.f.o.toNat :=
  ⟨_, by decide +kernel, rfl, by unfold runsNow; decide +kernel, calm_of (by decide +kernel), plain_mapped _,
    by decide +kernel, by decide +kernel, fun h => absurd (h 0 (show (issueOf 1).lanes.testBit 0 = true by decide)) (by decide +kernel)⟩

/-- An atomic indexed by v3: of the two lanes, one is misaligned. -/
def anUnevenAtomic : Instr := .atomr { fm with d := 2, sb := 4, vx := 3, ix := 1, off := 64, sz := 2 }

theorem witness_atomic_some_fail : ∃ F, anUnevenAtomic.wellFormed = true ∧ atomTable anUnevenAtomic = some F
    ∧ runsNow F.shape (accessReady F.rules fun _ _ => F.acc (uneven []) (issueOf 2)) (issueOf 2) (uneven [])
    ∧ ((uneven []).thread 0).reefUse = [] ∧ ¬ fenceBefore (uneven []) (issueOf 2) F.f.g.toNat F.f.k.toNat F.f.o.toNat
    ∧ (F.acc (uneven []) (issueOf 2)).map (judge (uneven []) (whoOf ((uneven []).thread 0)) F.rules (some 0)) = [none, some (.trap .align 65)] :=
  ⟨_, by decide +kernel, rfl, by unfold runsNow; decide +kernel, by decide +kernel, fun h => absurd h.2.1 (by decide +kernel), by decide +kernel⟩

/-- An atomic in flight on the word at 2^32. -/
def atomSent (a : Atom) (half : Bool) : State := sent { cls := .l } { kind := .atomic, size := 4, atoms := [a], half }

theorem witness_atomic_performs : let s := atomSent { aop := 0, x := 5 } false
    (s.req 2).kind = .atomic ∧ (s.req 2).half = false ∧ mayPerform s 2 = true ∧ parksHere s 2 = none
      ∧ mergeAtoms (s.req 2).atoms = [{ aop := 0, x := 5 }]
      ∧ poisoned s (s.req 2).space (forward s (s.req 2).space (s.req 2).key) (s.req 2).size = false := by decide +kernel

theorem witness_compare_performs : let s := atomSent { aop := 16, x := 5 } false
    (s.req 2).kind = .atomic ∧ (s.req 2).half = false ∧ mayPerform s 2 = true ∧ parksHere s 2 = none
      ∧ mergeAtoms (s.req 2).atoms = [{ aop := 16, x := 5 }]
      ∧ poisoned s (s.req 2).space (forward s (s.req 2).space (s.req 2).key) (s.req 2).size = false := by decide +kernel

theorem witness_bf16_performs : let s := atomSent { aop := 10, x := 0x3F803F80 } false
    (s.req 2).kind = .atomic ∧ (s.req 2).half = false ∧ mayPerform s 2 = true ∧ parksHere s 2 = none
      ∧ mergeAtoms (s.req 2).atoms = [{ aop := 10, x := 0x3F803F80 }]
      ∧ poisoned s (s.req 2).space (forward s (s.req 2).space (s.req 2).key) (s.req 2).size = false := by decide +kernel

theorem witness_atomic_poisoned : let s := { atomSent { aop := 0, x := 5 } false with poison := [0x100000000] }
    (s.req 2).kind = .atomic ∧ (s.req 2).half = false ∧ mayPerform s 2 = true ∧ mergeAtoms (s.req 2).atoms = [{ aop := 0, x := 5 }]
      ∧ poisoned s (s.req 2).space (forward s (s.req 2).space (s.req 2).key) (s.req 2).size = true := by decide +kernel

theorem witness_high_half : let s := atomSent { aop := 10, x := 0x3F803F80 } true
    (s.req 2).live = true ∧ (s.req 2).kind = .atomic ∧ (s.req 2).half = true ∧ (s.req 2).inbound = false ∧ pageHeld s (s.req 2).space (s.req 2).key = false
      ∧ (s.req 2).atoms = [{ aop := 10, x := 0x3F803F80 }]
      ∧ poisoned s (s.req 2).space (forward s (s.req 2).space (s.req 2).key + 2) 2 = false := by decide +kernel

theorem witness_compare_parks : let s := atomSent { aop := 16, x := 5, canW := false } false
    (s.req 2).kind = .atomic ∧ (s.req 2).half = false ∧ mayPerform s 2 = true ∧ parksHere s 2 = some { aop := 16, x := 5, canW := false }
      ∧ (s.thread (s.req 2).thr).live = true ∧ (s.thread 0).episode = none ∧ 0 < (s.thread 0).width := by decide +kernel

theorem witness_pref : (Instr.pref { fm with sb := 4 }).wellFormed = true ∧ hintTable (.pref { fm with sb := 4 }) = some { fm with sb := 4 }
    ∧ runsNow (hintShape { fm with sb := 4 }) (fun _ _ => true) (issueOf 1) (mapped {}) ∧ calm (mapped {}) (issueOf 1) (hintShape { fm with sb := 4 })
    ∧ ({ fm with sb := 4 } : FM).h ≠ 3 :=
  ⟨by decide +kernel, rfl, by unfold runsNow; decide +kernel, calm_of (by decide +kernel), by decide +kernel⟩

theorem witness_cache_flush : (Instr.flush { fm with sb := 4 }).wellFormed = true ∧ hintTable (.flush { fm with sb := 4 }) = some { fm with sb := 4 }
    ∧ runsNow (hintShape { fm with sb := 4 }) (fun _ _ => true) (issueOf 1) (mapped {}) ∧ calm (mapped {}) (issueOf 1) (hintShape { fm with sb := 4 })
    ∧ (64 : Nat) / 256 = fmAddr (mapped {}) (issueOf 1) (hintShape { fm with sb := 4 }) { fm with sb := 4 } 0 / 256 :=
  ⟨by decide +kernel, rfl, by unfold runsNow; decide +kernel, calm_of (by decide +kernel), by decide +kernel⟩

theorem witness_l1_eviction : (64 : Nat) / 256 = 0 % 2 ^ 56 / 256 := by decide

/-- Tables of context 0 that map page 0 to device memory: one entry in each of the four levels. -/
def tables : State :=
  let entry := fun (a v : Nat) => Tests.fetching.bytesOf a v
  { machineOf 1 {} with
    mem := entry 0x100000000 0x100010001 ++ entry 0x100010000 0x100020001 ++ entry 0x100020000 0x100030001 ++ entry 0x100030000 0x1000400CF
    ctxs := [(0, { live := true, xroot := 0x100000000 })] }

theorem witness_region_map : runsNow { undef := false, ssrc := [10, 11], late := true } (fun _ _ => true) (issueOf 1) (machineOf 1 {})
    ∧ plainGroup (machineOf 1 {}) (issueOf 1) ∧ (issueOf 1).lanes ≠ 0
    ∧ ((machineOf 1 {}).thread 0).lostScalar 10 = false ∧ ((machineOf 1 {}).thread 0).lostScalar 11 = false :=
  ⟨by unfold runsNow; decide +kernel, plain_of (by decide +kernel) (by decide +kernel) (by decide +kernel), by decide +kernel,
    by decide +kernel, by decide +kernel⟩

/-- A workgroup with 64 KiB of the Lagoon of cluster 0, and with regions. -/
def regions (l : List Region) (r : Regs) : State :=
  { mapped r with atolls := [(0, { live := true, clusters := 1 })], wgs := [(0, { live := true, ctx := 0, slots := [0], warps := [0], bytes := 65536, regions := l })] }

theorem witness_region_map_fails : lmapFail ((machineOf 1 {}).wg 0) 1 0 1 = some (.align, 1) := by decide +kernel

theorem witness_region_map_adds : lmapFail ((regions [] {}).wg 0) lagoonBase 0 1 = none := by decide +kernel

theorem witness_region_unmap_fails : runsNow { undef := false, ssrc := [10], cls := .s } (fun _ _ => true) (issueOf 1) (machineOf 1 {})
    ∧ plainGroup (machineOf 1 {}) (issueOf 1)
    ∧ ((machineOf 1 {}).wg 0).regions.find? (fun r => r.live && !r.closing && r.lagoon == 0) = none :=
  ⟨by unfold runsNow; decide +kernel, plain_of (by decide +kernel) (by decide +kernel) (by decide +kernel), by decide +kernel⟩

/-- A region of one granule with a dirty block. -/
def oneRegion : Region := { live := true, lagoon := lagoonBase, global := 0, count := 1, filled := [0], dirty := [0] }

theorem witness_region_unmap : let s := regions [oneRegion] { s := [(10, BitVec.ofNat 64 lagoonBase)] }
    runsNow { undef := false, ssrc := [10], cls := .s } (fun _ _ => true) (issueOf 1) s ∧ plainGroup s (issueOf 1)
    ∧ (s.wg 0).regions.find? (fun r => r.live && !r.closing && r.lagoon == lagoonBase) = some oneRegion
    ∧ backVerdict s (whoOf (s.thread 0)) oneRegion = none :=
  ⟨by unfold runsNow; decide +kernel, plain_of (by decide +kernel) (by decide +kernel) (by decide +kernel), by decide +kernel, by decide +kernel⟩

theorem witness_region_fill : let r : Region := { live := true, lagoon := lagoonBase, global := 0, count := 1 }
    let s := regions [r] {}
    (s.wg 0).regions[0]? = some r ∧ 0 < r.count ∧ 0 ∉ r.filled ∧ engineBad s (mapUnit s 0) false (r.global + 0 * 65536) = none
      ∧ fillClear s (mapUnit s 0) (r.global + 0 * 65536) = true := by decide +kernel

theorem witness_fence : runsNow { engines := ctlEngines } (fun _ _ => true) (issueOf 2) scalars ∧ plainGroup scalars (issueOf 2) :=
  ⟨by unfold runsNow; decide +kernel, plain_scalars⟩

theorem witness_fence_release : let s := holding (.fence .full 5 0 .move)
    mayRelease s 0 0 ∧ ((s.thread 0).lane 0).hold = .fence .full 5 0 .move ∧ fenceHolds s 0 .full 5 0 = true ∧ (s.thread 0).seq = none := by
  unfold mayRelease; decide +kernel

theorem witness_gwct : runsNow { engines := ctlEngines, sdst := [7] } storesReturned (issueOf 2) scalars := by unfold runsNow; decide +kernel

theorem witness_twait : runsNow { engines := ctlEngines, ssrc := [9] } (fun _ _ => true) (issueOf 2) scalars ∧ plainGroup scalars (issueOf 2) :=
  ⟨by unfold runsNow; decide +kernel, plain_scalars⟩

theorem witness_twait_release : let s := holding (.until 0)
    mayRelease s 0 0 ∧ ((s.thread 0).lane 0).hold = .until 0 ∧ 0 ≤ dtOf s (s.thread 0) ∧ (s.thread 0).seq = none := by
  unfold mayRelease; decide +kernel

theorem witness_tlb_walk : ∃ p, (tables.ctx 0).live = true ∧ inLagoon 0 = false
    ∧ tlbFind tables { ctx := 0, cluster := 0, die := dieOfCluster 0 } 0 = none
    ∧ pageOf tables { ctx := 0, cluster := 0, die := dieOfCluster 0 } { va := 0 } 0 false = .ok p :=
  ⟨_, by decide +kernel, by decide +kernel, by decide +kernel, rfl⟩

/-! ### Rows and runahead -/

/-- The warp with row-table entry 3 of its context in a state. -/
def rowed (x : RowState) (r : Regs) : State :=
  { mapped r with ctxs := [(0, { live := true, rows := [(3, { state := x, va := 0, pa := 0x100000000, w := true, level := 4, expiry := 100 })] })] }

theorem plain_rowed (x : RowState) (r : Regs) : plainGroup (rowed x r) (issueOf 1) := plain_of (by decide) (by show _ = true; rfl) rfl

/-- s20 in the Lagoon window. -/
def inWindow : Regs := { s := [(20, BitVec.ofNat 64 lagoonBase)] }

theorem witness_ropen : let f : FY := { fy with sd := 12, sa := 20 }
    runsNow { ssrc := [20], sdst := [12], cls := .l, late := true } (fun _ _ => true) (issueOf 1) (mapped {}) ∧ plainGroup (mapped {}) (issueOf 1)
    ∧ inLagoon (openVa f (mapped {}) (issueOf 1)) = false
    ∧ ∃ p, translate (mapped {}) (whoOf ((mapped {}).thread 0)) .read (openVa f (mapped {}) (issueOf 1)) = .ok p ∧ p.space = .dev
      ∧ ((mapped {}).thread 0).lostScalar 20 = false :=
  ⟨by unfold runsNow; decide +kernel, plain_mapped _, by decide +kernel, _, rfl, rfl, by decide +kernel⟩

theorem witness_ropen_lagoon : let f : FY := { fy with sd := 12, sa := 20 }
    runsNow { ssrc := [20], sdst := [12], cls := .l, late := true } (fun _ _ => true) (issueOf 1) (mapped inWindow) ∧ plainGroup (mapped inWindow) (issueOf 1)
    ∧ inLagoon (openVa f (mapped inWindow) (issueOf 1)) = true :=
  ⟨by unfold runsNow; decide +kernel, plain_mapped _, by decide +kernel⟩

/-- A page of host memory. -/
def hostMapped : State := { machineOf 1 {} with ca := { tlb := [{ pageZero with space := .host }] } }

theorem witness_ropen_host : ∃ p, translate hostMapped (whoOf (hostMapped.thread 0)) .read (openVa { fy with sd := 12, sa := 20 } hostMapped (issueOf 1)) = .ok p
    ∧ p.space ≠ .dev := ⟨_, rfl, by decide⟩

theorem witness_handle : isHandle (rowed .held { s := [(12, 3)] }) (issueOf 1) 12 3 := by unfold isHandle; decide +kernel

theorem witness_no_handle : noHandle (rowed .held { s := [(12, 64)] }) (issueOf 1) 12 := by
  rintro ⟨h, h1, h2, -⟩
  have : (scalar (rowed .held { s := [(12, 64)] }) (issueOf 1) 12).toNat = 64 := by decide +kernel
  omega

theorem witness_rrenew : runsNow { ssrc := [12], sdst := [13], cls := .l } (fun _ _ => true) (issueOf 1) (rowed .held { s := [(12, 3)] })
    ∧ plainGroup (rowed .held { s := [(12, 3)] }) (issueOf 1) ∧ (issueOf 1).lanes ≠ 0 :=
  ⟨by unfold runsNow; decide +kernel, plain_rowed _ _, by decide⟩

theorem witness_rrel : runsNow { ssrc := [12], cls := .s } (fun _ _ => true) (issueOf 1) (rowed .held { s := [(12, 3)] })
    ∧ plainGroup (rowed .held { s := [(12, 3)] }) (issueOf 1) := ⟨by unfold runsNow; decide +kernel, plain_rowed _ _⟩

/-- A request to the base die for an open or a renewal. -/
def rowSent (act : RowAct) (c : Ctx) : State :=
  { sent { cls := .l, rowAct := some act, dsts := [.s 12] } { kind := .row } with ctxs := [(0, c)] }

theorem witness_row_open : let s := rowSent (.open_ true 4) { live := true, rowqTotal := 4, rowqPch := 4 }
    (s.req 2).kind = .row ∧ mayPerform s 2 = true ∧ (s.op (s.req 2).op).rowAct = some (.open_ true 4) := by decide +kernel

theorem witness_row_renew : let s := rowSent (.renew 3) { live := true, rows := [(3, { state := .held, pa := 0x100000000, expiry := 100 })] }
    (s.req 2).kind = .row ∧ mayPerform s 2 = true ∧ (s.op (s.req 2).op).rowAct = some (.renew 3) := by decide +kernel

theorem witness_row_lapse : let s := { rowed .held {} with sys := { dt := 100 } }
    (look {} (s.ctx 0).rows 3).state = .held ∧ (look {} (s.ctx 0).rows 3).expiry ≤ baseTime s (look {} (s.ctx 0).rows 3).pa := by decide +kernel

theorem witness_row_close : let s : State := { sys := { closing := [(0x100000000, 0)] } }
    s.sys.closing.find? (fun e => e.1 / 1024 == 0x100000000 / 1024) = some (0x100000000, 0) ∧ blockQuiet s 0x100000000 0 = true := by decide +kernel

theorem witness_refresh : let s : State := {}
    rowOpenIn s (subOf 0) = false ∧ rowOpenIn s (partner (subOf 0)) = false := by decide +kernel

theorem witness_row_access : let f : FM := { fm with d := 8, sb := 12, sz := 2 }
    let s := rowed .held { s := [(12, 3)] }
    (Instr.ldrow f).wellFormed = true ∧ rowTable (.ldrow f) = some (f, { loadShape f with late := false }, false)
    ∧ runsNow { loadShape f with late := false } (rowReady f { loadShape f with late := false } false) (issueOf 1) s
    ∧ calm s (issueOf 1) { loadShape f with late := false } ∧ plainGroup s (issueOf 1)
    ∧ isHandle s (issueOf 1) 12 3
    ∧ ∀ x ∈ rowAccesses s (issueOf 1) { loadShape f with late := false } f (rowNow s 0 3), x.q % 4 = 0 ∧ 0 ≤ x.q ∧ x.q + (f.n.toNat + 1) * 4 ≤ 1024
        ∧ rowJudge s (whoOf (s.thread 0)) 0 3 f (rowNow s 0 3) false x.a = none :=
  ⟨by decide +kernel, rfl, by unfold runsNow; decide +kernel, calm_of (by decide +kernel), plain_rowed _ _, by unfold isHandle; decide +kernel, by decide +kernel⟩

theorem witness_row_access_stale : let f : FM := { fm with d := 9, sb := 12, sz := 2 }
    let s := rowed .stale { s := [(12, 3)] }
    (Instr.strow f).wellFormed = true ∧ rowTable (.strow f) = some (f, { storeShape f with late := false }, true)
    ∧ runsNow { storeShape f with late := false } (rowReady f { storeShape f with late := false } true) (issueOf 1) s
    ∧ calm s (issueOf 1) { storeShape f with late := false } ∧ plainGroup s (issueOf 1)
    ∧ isHandle s (issueOf 1) 12 3
    ∧ ∀ x ∈ rowAccesses s (issueOf 1) { storeShape f with late := false } f (rowNow s 0 3), x.q % 4 = 0 ∧ 0 ≤ x.q ∧ x.q + (f.n.toNat + 1) * 4 ≤ 1024
        ∧ rowJudge s (whoOf (s.thread 0)) 0 3 f (rowNow s 0 3) true x.a = none :=
  ⟨by decide +kernel, rfl, by unfold runsNow; decide +kernel, calm_of (by decide +kernel), plain_rowed _ _, by unfold isHandle; decide +kernel, by decide +kernel⟩

/-- Two lanes at a row handle, the second one's index odd. -/
def unevenRow (x : RowState) (w : Bool) : State :=
  let r : Regs := { s := [(12, 3)], v := [(64 * 3 + 1, 1)] }
  { machineOf 2 r with
    ca := { tlb := [pageZero] }
    ctxs := [(0, { live := true, rows := [(3, { state := x, va := 0, pa := 0x100000000, w, level := 4, expiry := 100 })] })] }

theorem real_uneven_row (x : RowState) (w : Bool) : realLanes (unevenRow x w) (issueOf 2) :=
  real_of (plain_of (by decide) (by show _ = true; rfl) rfl) (show 2 ≤ 64 by decide)

theorem witness_row_some_fail : let f : FM := { fm with d := 8, sb := 12, vx := 3, ix := 1, sz := 2 }
    let sh : Shape := { loadShape f with late := false }
    let s := unevenRow .held true
    (Instr.ldrow f).wellFormed = true ∧ rowTable (.ldrow f) = some (f, sh, false) ∧ runsNow sh (rowReady f sh false) (issueOf 2) s
      ∧ (s.thread 0).reefUse = [] ∧ isHandle s (issueOf 2) 12 3
      ∧ (rowAccesses s (issueOf 2) sh f (rowNow s 0 3)).map (fun x => x.q % 4) = [0, 1] :=
  ⟨by decide +kernel, rfl, by unfold runsNow; decide +kernel, by decide +kernel, by unfold isHandle; decide +kernel, by decide +kernel⟩

theorem witness_row_some_fail_stale : let f : FM := { fm with d := 8, sb := 12, vx := 3, ix := 1, sz := 2 }
    let sh : Shape := { storeShape f with late := false }
    let s := unevenRow .stale true
    (Instr.strow f).wellFormed = true ∧ rowTable (.strow f) = some (f, sh, true) ∧ runsNow sh (rowReady f sh true) (issueOf 2) s
      ∧ (s.thread 0).reefUse = [] ∧ isHandle s (issueOf 2) 12 3 ∧ (rowNow s 0 3).state ≠ .held
      ∧ (rowAccesses s (issueOf 2) sh f (rowNow s 0 3)).map (fun x => x.q % 4) = [0, 1] :=
  ⟨by decide +kernel, rfl, by unfold runsNow; decide +kernel, by decide +kernel, by unfold isHandle; decide +kernel, by decide +kernel, by decide +kernel⟩

theorem witness_row_not_writable : let f : FM := { fm with d := 8, sb := 12, sz := 2 }
    let s := unevenRow .held false
    isHandle s (issueOf 2) 12 3 ∧ (rowNow s 0 3).state = .held ∧ (rowNow s 0 3).w = false
      ∧ (rowAccesses s (issueOf 2) { storeShape f with late := false } f (rowNow s 0 3)).map (fun x => x.q % 4) = [0, 0] := by
  unfold isHandle; decide +kernel

theorem witness_rstat : fy.id = 0 ∧ runsNow { sdst := [5] } (fun iss s => rowsQuiet s iss.thr) (issueOf 1) (mapped {}) :=
  ⟨by decide, by unfold runsNow; decide +kernel⟩

theorem witness_rstat_handle : ({ fy with sd := 6, sa := 12, id := 1 } : FY).id ≠ 0
    ∧ runsNow { ssrc := [12], sdst := [6] } (fun _ _ => true) (issueOf 1) (rowed .held { s := [(12, 3)] })
    ∧ plainGroup (rowed .held { s := [(12, 3)] }) (issueOf 1) := ⟨by decide, by unfold runsNow; decide +kernel, plain_rowed _ _⟩

theorem witness_ractl : runsNow { sdst := [3] } (fun _ _ => true) (issueOf 1) (mapped {}) := by unfold runsNow; decide +kernel

/-- A warp whose lane stands at a load of v2, outstanding in DRAM, and whose block allows runahead. -/
def stalled : State :=
  let s := sent { cls := .l, dram := true, elems := [{ dst := .v 2 0 }], dsts := [.v 2 0] } {}
  { s with
    ca := { tlb := [pageZero] }
    mem := Tests.fetching.bytesOf 0x100000000 0xFC05000000030066 ++ Tests.fetching.bytesOf 0x100000008 0x3000040200A00000
           ++ Tests.fetching.bytesOf 0x100000010 0x3000040200A00000 }

theorem witness_run_ahead : mayRunAhead stalled 0 1 = true := by decide +kernel

/-- A warp in an episode that has nothing to issue. -/
def ahead : State :=
  { threads := [(0, { warpOf 1 {} with episode := some { trigger := 9, shadow := (warpOf 1 {}).regs, groups := 3, lanesIn := 1 } })]
    ctxs := [(0, { live := true })], cores := [(0, { ckpt := some 0 })] }

theorem witness_episode_over : episodeOver ahead 0 = true
    ∧ (ahead.thread 0).episode = some { trigger := 9, shadow := (warpOf 1 {}).regs, groups := 3, lanesIn := 1 } := by decide +kernel

/-! ### Copies and sync words -/

theorem witness_copy : (Instr.copy { fs with sa := 8 }).wellFormed = true ∧ copyTable (.copy { fs with sa := 8 }) = some ({ fs with sa := 8 }, false)
    ∧ runsNow { engines := ctlEngines, ssrc := [8, 9, 10, 11], cls := .c, late := true } (fun iss s => copyRoom s (s.thread iss.thr).cluster) (issueOf 1) (mapped {})
    ∧ plainGroup (mapped {}) (issueOf 1) ∧ ∀ n, n < 4 → ((mapped {}).thread 0).lostScalar (8 + n) = false :=
  ⟨by decide +kernel, rfl, by unfold runsNow; decide +kernel, plain_mapped _, by decide +kernel⟩

/-- Copy 1 of 16 bytes within page 0, of the group of lane 0. -/
def aCopy : Copy := { live := true, lanes := 1, pc := 8, ctx := 0, dst := 0x200, src := 0x100, len := 16 }

/-- A machine with that copy. -/
def copying (c : Copy) : State := { mapped {} with fl := { next := 2, copies := [(1, c)] } }

theorem copy_conditions (c : Copy) (h : c.lanes = 1) (ht : c.thr = 0) :
    (∀ l, c.lanes.testBit l = true → l < ((copying c).thread c.thr).width ∧ l < 64)
    ∧ ∀ m d, (m, d) ∈ (copying c).fl.copies → m < 1 → d.live = true → d.accepted = false → d.thr ≠ c.thr := by
  constructor
  · intro l hb
    rw [h] at hb
    obtain rfl : l = 0 := by by_contra hn; simp [Nat.testBit_one_eq_true_iff_self_eq_zero, hn] at hb
    rw [ht]
    exact ⟨show 0 < 1 by decide, by decide⟩
  · intro m d hm hlt
    simp [copying] at hm
    omega

theorem witness_copy_accept : let s := copying aCopy
    (s.copy 1).live = true ∧ (s.copy 1).accepted = false ∧ (s.copy 1).owner = .thread ∧ copyRoom s (s.copy 1).cluster = true
      ∧ (s.thread (s.copy 1).thr).live = true ∧ (s.thread 0).episode = none ∧ (s.thread 0).seq = none ∧ (s.copy 1).lanes ≠ 0
      ∧ copyBad s (s.copy 1) = none := by decide +kernel

theorem witness_copy_trap : let s := copying { aCopy with sync := 1 }
    (s.copy 1).live = true ∧ copyRoom s (s.copy 1).cluster = true ∧ copyBad s (s.copy 1) = some (.trap .align 1) := by decide +kernel

/-- The copy accepted, and at the head of its queue. -/
def accepted (c : Copy) : State := { copying { c with accepted := true } with clusters := [(0, { gated := false, queue := [1] })] }

theorem witness_copy_reads : ((accepted aCopy).copy 1).mayRead (accepted aCopy) 0 = true := by decide +kernel

/-- The copy with its bytes read. -/
def readCopy : Copy := { aCopy with got := List.range 16 }

theorem witness_copy_writes : ((accepted readCopy).copy 1).mayWrite (accepted readCopy) 0 = true ∧ ((accepted readCopy).copy 1).overlaps = false
    ∧ ((accepted readCopy).copy 1).spoiled = [] := by decide +kernel

/-- The copy with its bytes written. -/
def writtenCopy : Copy := { readCopy with moved := [{ nums := List.range 16 }] }

theorem witness_copy_counts : let s := accepted writtenCopy
    let c := s.copy 1
    c.live = true ∧ c.accepted = true ∧ c.abandoned = false ∧ (2 : Nat) < 2 ^ 48 ∧ c.piece 2 ≠ [] ∧ 2 ∉ c.pieces ∧ syncServed s c = true
      ∧ ∀ j ∈ c.piece 2, c.countable s j = true := by decide +kernel

theorem witness_copy_faults : let s := accepted { aCopy with src := 0x20000 }
    let c := s.copy 1
    c.runs = true ∧ 0 < c.total ∧ syncServed s c = true ∧ ∃ m, c.stopAt s 0 = some (.miss m) :=
  ⟨by decide +kernel, by decide +kernel, by decide +kernel, _, rfl⟩

theorem witness_copy_completes : let s := accepted { writtenCopy with pieces := [2], counted := 16 }
    let c := s.copy 1
    c.live = true ∧ c.accepted = true ∧ c.abandoned = false ∧ c.counted = c.total ∧ syncServed s c = true ∧ c.owner = .thread := by decide +kernel

/-- The warp with 64 KiB of Lagoon, s20 at its base. -/
def synced : State := { regions [] inWindow with threads := [(0, warpOf 1 inWindow)] }

theorem witness_syncinit : runsNow (syncShape [20, 0] [] .s) (syncReady { fs with sa := 20 }) (issueOf 1) synced ∧ plainGroup synced (issueOf 1)
    ∧ syncVerdict { fs with sa := 20 } none (issueOf 1) synced = none
    ∧ (synced.thread 0).lostScalar 20 = false ∧ (synced.thread 0).lostScalar 0 = false :=
  ⟨by unfold runsNow; decide +kernel, plain_of (by decide +kernel) (by decide +kernel) (by decide +kernel), by decide +kernel,
    by decide +kernel, by decide +kernel⟩

theorem witness_syncinit_traps : syncVerdict { fs with sa := 21 } none (issueOf 1) synced = some (.trap .badAddr 0) := by decide +kernel

theorem witness_syncinit_performs : let s := { sent { cls := .s } {} with
                                              fl := { next := 3, ops := [(1, { live := true, cls := .s })]
                                                      reqs := [(2, { live := true, op := 1, kind := .syncInit, space := .lagoon, key := syncKey lagoonBase, size := 16 })] } }
    (s.req 2).kind = .syncInit ∧ mayPerform s 2 = true ∧ (s.req 2).key = syncKey lagoonBase := by decide +kernel

theorem witness_syncwait : runsNow (syncShape [20, 9] [9] .none) (syncReady { fs with sd := 9, sa := 20, sb := 9 }) (issueOf 1) synced
    ∧ plainGroup synced (issueOf 1) ∧ syncVerdict { fs with sd := 9, sa := 20, sb := 9 } none (issueOf 1) synced = none
    ∧ (synced.thread 0).lostScalar 20 = false ∧ (synced.thread 0).lostScalar 9 = false :=
  ⟨by unfold runsNow; decide +kernel, plain_of (by decide +kernel) (by decide +kernel) (by decide +kernel), by decide +kernel,
    by decide +kernel, by decide +kernel⟩

theorem witness_syncwait_release : let s := { holding (.sync 9 lagoonBase 1) with wgs := (regions [] {}).wgs }
    mayRelease s 0 0 ∧ ((s.thread 0).lane 0).hold = .sync 9 lagoonBase 1 ∧ unfilled s lagoonBase = none ∧ (syncFields s lagoonBase).2.2.1 ≠ 1 := by
  unfold mayRelease; decide +kernel

theorem witness_syncrd : runsNow (syncShape [20] [10] .l) (syncReady { fs with sd := 10, sa := 20, i := 1 }) (issueOf 1) synced
    ∧ plainGroup synced (issueOf 1) ∧ syncVerdict { fs with sd := 10, sa := 20, i := 1 } (some 0) (issueOf 1) synced = none ∧ (synced.thread 0).lostScalar 20 = false :=
  ⟨by unfold runsNow; decide +kernel, plain_of (by decide +kernel) (by decide +kernel) (by decide +kernel), by decide +kernel,
    by decide +kernel⟩

end Sys2Proof.Tests
end

