-- ==== Sys2Proof/Tests/UnitWitnesses.lean ====
section
/-! SUPPORT. States and operands that meet the hypotheses of the statements: access engines, Reef arrays and Tide. -/

namespace Sys2Proof.Tests

set_option Elab.async false

open Sys2Proof Sys2Proof.Machine Sys2Proof.Safety Sys2Proof.Claims

/-! ### Access threads -/

/-- An access thread beside the warp in slot 0 of core 0. -/
def accessOf (r : Regs) (loops : List Loop) : Thread :=
  { live := true, engine := .access, ctx := 0, core := 0, slot := 0, regs := { r with em := 1, lanes := lanesAt 1 }, loops }

/-- Its issue. -/
def accessIssue : Issue := { thr := 32768, lanes := 1, pc := 8 }

/-- A machine with both, and page 0 mapped. -/
def accessing (r : Regs) (loops : List Loop) : State :=
  { threads := [(0, warpOf 1 {}), (32768, accessOf r loops)]
    ctxs := [(0, { live := true, rows := [(3, { state := .held, va := 0, pa := 0x100000000, w := true, level := 4, expiry := 100 })] })]
    ca := { tlb := [pageZero] }, cur := some accessIssue }

theorem plain_accessing (r : Regs) (l : List Loop) : plainGroup (accessing r l) accessIssue := plain_of (by decide) (by show _ = true; rfl) rfl

theorem witness_qld : let f : FM := { fm with d := 1020, sb := 10, vx := 1, off := 64, sz := 2 }
    let s := accessing {} []
    runsNow { engines := [.access], ssrc := [10] }
        (fun iss s => portRoom f iss s && accessReady (pushRules f) (fun iss s => qldAccesses f iss s 0) iss s) accessIssue s
      ∧ accessIssue.thr ≠ accompanied (s.thread 32768) ∧ ∀ a ∈ qldAccesses f accessIssue s 0, judge s (whoOf (s.thread 32768)) (pushRules f) none a = none :=
  ⟨by unfold runsNow; decide +kernel, by decide +kernel, by decide +kernel⟩

theorem witness_qldrow : let f : FM := { fm with d := 1021, sb := 12, vx := 1, sz := 2 }
    let s := accessing { s := [(12, 3)] } []
    runsNow { engines := [.access], ssrc := [12] } (portRoom f) accessIssue s ∧ plainGroup s accessIssue ∧ accessIssue.lanes = 1
      ∧ accessIssue.thr ≠ accompanied (s.thread 32768) ∧ isHandle s accessIssue 12 3
      ∧ ∀ x ∈ qldrowAccesses f accessIssue s (rowNow s 0 3) 0, x.q % 4 = 0 ∧ 0 ≤ x.q ∧ x.q + 4 ≤ 1024 ∧ (rowNow s 0 3).state = .held :=
  ⟨by unfold runsNow; decide +kernel, plain_accessing _ _, by decide +kernel, by decide +kernel, by unfold isHandle; decide +kernel, by decide +kernel⟩

theorem witness_qldrow_traps : noHandle (accessing {} []) accessIssue 12 := by
  rintro ⟨h, h1, h2, h3⟩
  have : (scalar (accessing {} []) accessIssue 12).toNat = 0 := by decide +kernel
  obtain rfl : h = 0 := by omega
  exact h3 (by decide +kernel)

/-- An entry awaited at port 0 whose load is done. -/
def filling : State :=
  { threads := [(0, { warpOf 1 {} with queues := [[{ id := 1 }], [], [], []] }), (32768, accessOf {} [])]
    ctxs := [(0, { live := true })]
    fl := { next := 3, ops := [(1, { live := true, thr := 32768, cls := .q, elems := [{ dst := .q 0 1 0 }] })], reqs := [(2, { live := true, op := 1, done := true })] } }

theorem witness_entry_fills : (filling.op 1).live = true ∧ (filling.op 1).cls = .q ∧ (∀ e ∈ filling.fl.reqs, e.2.op = 1 → e.2.done = true)
    ∧ ((filling.thread (accompanied (filling.thread (filling.op 1).thr))).queue 0)[0]? = some { id := 1 } := by decide +kernel

/-- The warp with a filled entry at port 2. -/
def dropping : State :=
  { accessing {} [] with
    threads := [(0, { warpOf 1 {} with queues := [[], [], [{ filled := true }], []] }), (32768, accessOf {} [])], cur := some (issueOf 1) }

theorem witness_qdrop : runsNow { undef := noPorts dropping }
      (fun iss s => (s.thread (accessKey (s.thread iss.thr).core (s.thread iss.thr).slot)).ended
        || (decide (1 ≤ ((s.thread iss.thr).queue 2).length) && (((s.thread iss.thr).queue 2).take 1).all fun e => e.filled)) (issueOf 1) dropping := by
  unfold runsNow; decide +kernel

/-- The warp with entries at its ports, and its access thread. -/
def ported (queues : List (List Entry)) (ended : Bool) : State :=
  { accessing {} [] with
    threads := [(0, { warpOf 1 {} with queues }), (32768, { accessOf {} [] with ended })], cur := some (issueOf 1) }

theorem plain_ported (q : List (List Entry)) (e : Bool) : plainGroup (ported q e) (issueOf 1) := plain_of (by decide) (by show _ = true; rfl) rfl

theorem clean_calm {s : State} {iss : Issue} {sh : Shape} (hr : (s.thread iss.thr).reefUse = []) (hl : (s.thread iss.thr).lost = [])
    (hq : ∀ q ∈ (s.thread iss.thr).queues, ∀ e ∈ q, e.poison = 0) : calm s iss sh := by
  refine ⟨hr, fun i l => ?_, fun r _ l => by simp [Thread.lostAt, hl], fun _ r _ => by simp [Thread.lostScalar, hl]⟩
  unfold poisonedField
  dsimp only
  split
  · next e he =>
    unfold popEntry at he
    dsimp only at he
    split at he
    · next p _ =>
      have hm := List.mem_of_getElem? he
      unfold Thread.queue at hm
      rw [List.getD_eq_getElem?_getD] at hm
      cases hp : (s.thread iss.thr).queues[p]? with
      | none => simp [hp] at hm
      | some q =>
        rw [hp] at hm
        simp [hq q (List.mem_of_getElem? hp) e hm, has]
    · cases he
  · simp [Thread.lostAt, hl]

/-- `VADD v2, q0, v4`. -/
def popping : FV2 := { fv2 with d := 2, a := 1020, b := 4 }

theorem witness_port_reads : let s := ported [[{ filled := true }], [], [], []] false
    hasPorts s (s.thread 0) = true ∧ ([1020, 4] : List Nat)[0]? = some (1020 + 0)
      ∧ ((s.thread 0).queue 0)[fieldsAt (([1020, 4] : List Nat).take 0) 0]? = some { filled := true } := by decide +kernel

theorem witness_port_pops : let s := ported [[{ filled := true }], [], [], []] false
    ∃ F, (Instr.vadd popping).wellFormed = true ∧ laneTable (.vadd popping) = some F ∧ portTable s (issueOf 1) (.vadd popping) = some F.shape
      ∧ hasPorts s (s.thread 0) = true ∧ runsNow F.shape (fun _ _ => true) (issueOf 1) s ∧ plainGroup s (issueOf 1)
      ∧ calm s (issueOf 1) F.shape ∧ (sourceRegs s (issueOf 1)).fpctl.toNat / 2 ^ 8 % 2 ^ 5 = 0 ∧ 0 < (s.thread 0).width := by
  exact ⟨_, by decide +kernel, rfl, rfl, by decide +kernel, by unfold runsNow; decide +kernel, plain_ported _ _,
    clean_calm (by decide +kernel) (by decide +kernel) (by decide +kernel), by decide +kernel, by decide +kernel⟩

theorem witness_port_underrun : let s := ported [[], [], [], []] true
    ∃ F, portTable s (issueOf 1) (.vadd popping) = some (LaneForm.shape F) ∧ hasPorts s (s.thread 0) = true ∧ s.cur = some (issueOf 1)
      ∧ decodeTrap s (issueOf 1) F.shape = none ∧ (s.thread 0).episode = none
      ∧ (s.thread (accessKey (s.thread 0).core (s.thread 0).slot)).ended = true
      ∧ ((s.thread 0).queue 0).length < fieldsAt F.shape.vsrc 0 ∧ plainGroup s (issueOf 1) ∧ (issueOf 1).lanes ≠ 0 :=
  ⟨_, rfl, by decide +kernel, by decide +kernel, by decide +kernel, by decide +kernel, by decide +kernel, by decide +kernel, plain_ported _ _, by decide⟩

theorem witness_port_waits : let s := ported [[{}], [], [], []] false
    hasPorts s (s.thread 0) = true ∧ (s.thread (accessKey (s.thread 0).core (s.thread 0).slot)).ended = false
      ∧ ∃ e ∈ ((s.thread 0).queue 0).take (fieldsAt [1020, 4] 0), e.filled = false :=
  ⟨by decide +kernel, by decide +kernel, {}, by decide +kernel, rfl⟩

theorem witness_port_poisoned : let s := ported [[{ filled := true, poison := 1 }], [], [], []] false
    ∃ F, (Instr.vadd popping).wellFormed = true ∧ laneTable (.vadd popping) = some F ∧ runsNow F.shape (fun _ _ => true) (issueOf 1) s
      ∧ (s.thread 0).reefUse = [] ∧ realLanes s (issueOf 1) ∧ acts s (issueOf 1) F.g 0 ∧ poisonedLane s (issueOf 1) F.shape 0 = true :=
  ⟨_, by decide +kernel, rfl, by unfold runsNow; decide +kernel, by decide +kernel, real_of (plain_ported _ _) (show 1 ≤ 64 by decide),
    by unfold acts; decide +kernel, by decide +kernel⟩

theorem witness_aeloop : runsNow { engines := [.access], ssrc := [] } (fun _ _ => true) accessIssue (accessing {} []) ∧ plainGroup (accessing {} []) accessIssue
    ∧ accessIssue.lanes ≠ 0 := ⟨by unfold runsNow; decide +kernel, plain_accessing _ _, by decide⟩

theorem witness_aeend : runsNow { engines := [.access] } (fun _ _ => true) accessIssue (accessing {} [{ count := 2, sd := 10, sa := 11, back := 8 }])
    ∧ plainGroup (accessing {} [{ count := 2, sd := 10, sa := 11, back := 8 }]) accessIssue := ⟨by unfold runsNow; decide +kernel, plain_accessing _ _⟩

/-! ### Reef arrays -/

/-- A warp of 64 lanes whose page 0 is mapped. -/
def wide (r : Regs) : State := { machineOf 64 r with ca := { tlb := [pageZero] } }

theorem plain_wide (r : Regs) : plainGroup (wide r) (issueOf 64) := plain_of (by decide) (by show _ = true; rfl) rfl

/-- The slot load of 64 rows of 64 bytes at s8 = 0, scales in v42. -/
def tileLoad : FT := { ft with sa := 42, slot := 1, sx := 8 }

theorem witness_slot_load : (Instr.rloadbI8 tileLoad).wellFormed = true ∧ slotLoadTable (.rloadbI8 tileLoad) = some (tileLoad, 5)
    ∧ runsNow (slotLoadShape (wide {}) tileLoad 5) (loadReady tileLoad 5) (issueOf 64) (wide {})
    ∧ calm (wide {}) (issueOf 64) (slotLoadShape (wide {}) tileLoad 5) ∧ plainGroup (wide {}) (issueOf 64)
    ∧ active (wide {}) (issueOf 64) 0 ≠ 0 ∧ loadVerdict tileLoad 5 (wide {}) (issueOf 64) = none :=
  ⟨by decide +kernel, rfl, by unfold runsNow; decide +kernel, calm_of (by decide +kernel), plain_wide _, by decide +kernel, by decide +kernel⟩

theorem witness_slot_load_traps : (Instr.rloadbBf16 { tileLoad with sx := 9 }).wellFormed = true
    ∧ runsNow (slotLoadShape (wide { s := [(9, 1)] }) { tileLoad with sx := 9 } 6) (loadReady { tileLoad with sx := 9 } 6) (issueOf 64) (wide { s := [(9, 1)] })
    ∧ plainGroup (wide { s := [(9, 1)] }) (issueOf 64) ∧ loadVerdict { tileLoad with sx := 9 } 6 (wide { s := [(9, 1)] }) (issueOf 64) = some (.trap .align 1) :=
  ⟨by decide +kernel, by unfold runsNow; decide +kernel, plain_wide _, by decide +kernel⟩

/-- The instruction guarded by an empty mask. -/
theorem witness_slot_load_empty : active (wide {}) (issueOf 64) (1 : BitVec 3).toNat = 0
    ∧ runsNow (slotLoadShape (wide {}) { tileLoad with g := 1 } 5) (loadReady { tileLoad with g := 1 } 5) (issueOf 64) (wide {}) :=
  ⟨by decide +kernel, by unfold runsNow; decide +kernel⟩

/-- Operation 1 of a Reef array, in the queue of core 0 where `queued` holds. -/
def reefing (r : ReefOp) (queued : Bool) : State :=
  { threads := [(0, warpOf 64 {})], ctxs := [(0, { live := true })], cores := [(0, { queue := if queued then [1] else [] })]
    fl := { next := 2, ops := [(1, { live := true, cls := .t, reef := some r })] } }

theorem witness_tile_arrives : let s := reefing { kind := .loadB, fmt := 5 } false
    (s.op 1).live = true ∧ (s.op 1).reef = some { kind := .loadB, fmt := 5 } ∧ (s.op 1).poison = 0 ∧ answered s 1 = true ∧ gated s (s.op 1).thr = false
      ∧ (s.thread 0).live = true ∧ (s.thread 0).episode = none ∧ (s.thread 0).seq = none ∧ queueRoom s 0 = true ∧ loadsAhead s 0 1 = false := by decide +kernel

theorem witness_slot_write : let r : ReefOp := { kind := .loadB, fmt := 5, accepted := true }
    ((reefing r true).op 1).reef = some r ∧ r.kind = .loadB ∧ writeMay (reefing r true) 1 = true ∧ r.clash = false ∧ ownerStays (reefing r true) r.core :=
  ⟨by decide +kernel, rfl, by decide +kernel, rfl, fun o h => absurd (h : ((reefing _ true).core 0).owner = some o) (by decide +revert +kernel)⟩

theorem witness_codebook_write : let r : ReefOp := { kind := .code, fmt := 7, accepted := true }
    ((reefing r true).op 1).reef = some r ∧ r.kind = .code ∧ writeMay (reefing r true) 1 = true := by decide +kernel

/-- `RMAC.i8 v64, v100, v104, #2, #0`. -/
def aMac : FT := { ft with acc := 64, a := 100, sa := 104, slot := 2 }

theorem witness_multiplication : (Instr.rmacI8 aMac).wellFormed = true ∧ macTable (.rmacI8 aMac) = some (aMac, 0, false)
    ∧ runsNow (macShape aMac 0 false (wide {})) (macReady aMac false) (issueOf 64) (wide {}) ∧ ((wide {}).thread 0).reefUse = []
    ∧ plainGroup (wide {}) (issueOf 64) ∧ active (wide {}) (issueOf 64) 0 ≠ 0 ∧ macStop aMac 0 false (wide {}) 0 = none :=
  ⟨by decide +kernel, rfl, by unfold runsNow; decide +kernel, by decide +kernel, plain_wide _, by decide +kernel, by decide +kernel⟩

theorem witness_pair_multiplication_traps : (Instr.rmacpI8 aMac).wellFormed = true ∧ macTable (.rmacpI8 aMac) = some (aMac, 0, true)
    ∧ runsNow (macShape aMac 0 true (wide {})) (macReady aMac true) (issueOf 64) (wide {}) ∧ macStop aMac 0 true (wide {}) 0 = some (.trap .pairLess 5) :=
  ⟨by decide +kernel, rfl, by unfold runsNow; decide +kernel, by decide +kernel⟩

theorem witness_serial_phase : let r : ReefOp := { kind := .mac, accepted := true }
    nextSerial (reefing r true) 0 = some 1 ∧ ((reefing r true).op 1).reef = some r
      ∧ ∀ c ∈ r.arrays, nextSerial (reefing r true) c = some 1 ∧ serialMay (reefing r true) c 1 = true := by decide +kernel

theorem witness_accumulator_write : let r : ReefOp := { kind := .mac, accepted := true, begun := true }
    let s := reefing r true
    (s.op 1).live = true ∧ (s.op 1).reef = some r ∧ r.isMac = true ∧ r.begun = true ∧ r.clash = false ∧ r.spoilt = []
      ∧ (∀ c ∈ r.arrays, 1 ∈ (s.core c).queue ∧ coreFrozen s c = false ∧ ∀ e ∈ Machine.before s c 1, (reefOf s e).isMac = false)
      ∧ (s.thread (s.op 1).thr).live = true ∧ (s.thread 0).episode = none := by decide +kernel

theorem witness_integer_tile : let o : ReefOp := {}
    let t : Slot := { tag := 6 }
    o.fmt = 0 ∧ t.tag = 6 ∧ t.bad = [] := by decide

theorem witness_float_tile : let o : ReefOp := { fmt := 1 }
    let t : Slot := { tag := 2 }
    o.fmt < 4 ∧ t.tag < 8 ∧ t.bad = [] ∧ ¬(o.fmt = 0 ∧ (t.tag = 6 ∨ t.tag = 0)) ∧ (t.tag = 0 → t.store = []) := by decide

theorem witness_float_tile_special : ¬(tileB { tag := 2, store := [(0, 0x7F)] } 0 0).isNum ∧ (tileA { fmt := 1 } 0 0).isNum := by
  constructor
  · have : valueOf e4m3 0x7F = .nan true := by decide +kernel
    simp [tileB, look, this, Result.of, Result.isNum]
  · have : valueOf e4m3 0 = .fin false 0 (-9) := by decide +kernel
    simp [tileA, tileByte, look, this, Result.of, Result.isNum]

theorem witness_reef_empty : ∃ sh, (Instr.rfence { ft with g := 1 }).wellFormed = true ∧ reefTable (wide {}) (.rfence { ft with g := 1 }) = some ({ ft with g := 1 }, sh)
    ∧ runsNow sh (fun _ _ => true) (issueOf 64) (wide {}) ∧ ((wide {}).thread 0).reefUse = [] ∧ active (wide {}) (issueOf 64) (1 : BitVec 3).toNat = 0 :=
  ⟨_, by decide +kernel, rfl, by unfold runsNow; decide +kernel, by decide +kernel, by decide +kernel⟩

theorem witness_rfence : runsNow (reefShape (wide {}) ft) (fun _ _ => true) (issueOf 64) (wide {}) ∧ plainGroup (wide {}) (issueOf 64)
    ∧ active (wide {}) (issueOf 64) 0 ≠ 0 := ⟨by unfold runsNow; decide +kernel, plain_wide _, by decide +kernel⟩

theorem witness_rfence_release : let s := holding (.written 0 0)
    mayRelease s 0 0 ∧ ((s.thread 0).lane 0).hold = .written 0 0 ∧ (s.thread 0).seq = none ∧ vectorsWritten s 0 0 = true
      ∧ 0 ≤ tickOf s (s.thread 0) := by
  unfold mayRelease; decide +kernel

/-- `RDRAIN.i32 v64, [s16]` with the tile at 0, rows 256 bytes apart. -/
def aDrain : FT := { ft with acc := 64, sx := 16 }

/-- Its operands: the tile at 0x1000. -/
def draining : State := wide { s := [(16, 0x1000), (17, 256)] }

theorem witness_rdrain :
    runsNow (drainShape draining aDrain)
      (fun iss s => active s iss aDrain.g.toNat == 0
        || (!ownedByOther s (s.thread iss.thr) (s.thread iss.thr).core
            && ((drainVerdict s (s.thread iss.thr) (drainOf aDrain s iss) (drainNow aDrain s iss).1).isSome
                || tileFilled s (rangesOf (drainNow aDrain s iss).1)))) (issueOf 64) draining
      ∧ (draining.thread 0).lost = [] ∧ (draining.thread 0).reefUse = [] ∧ plainGroup draining (issueOf 64) ∧ active draining (issueOf 64) 0 ≠ 0
      ∧ drainVerdict draining (draining.thread 0) (drainOf aDrain draining (issueOf 64)) (drainNow aDrain draining (issueOf 64)).1 = none
      ∧ (drainNow aDrain draining (issueOf 64)).1 ≠ [] :=
  ⟨by unfold runsNow; decide +kernel, by decide +kernel, by decide +kernel, plain_wide _, by decide +kernel, by decide +kernel, by decide +kernel⟩

theorem witness_rdrain_traps :
    drainVerdict (wide { s := [(16, 2)] }) ((wide { s := [(16, 2)] }).thread 0) (drainOf aDrain (wide { s := [(16, 2)] }) (issueOf 64))
      (drainNow aDrain (wide { s := [(16, 2)] }) (issueOf 64)).1 = some (.trap .align 2) := by decide +kernel

/-- A 64-wide warp of launch 1, whose rectangle is cores 0 to 3, granted. -/
def pairing (b : Bind) : State :=
  { wide {} with
    threads := [(0, { warpOf 64 {} with launch := 1 })]
    cores := if b = .none then [] else [(0, { bind := b })] }

theorem witness_rpair : let f : FT := { ft with m := 1 }
    runsNow (reefShape (pairing .none) f) (fun iss s => active s iss f.g.toNat == 0
      || (!ownedByOther s (s.thread iss.thr) (s.thread iss.thr).core && (has f.m.toNat 0 || !pairBusy s (s.thread iss.thr).core))) (issueOf 64) (pairing .none)
      ∧ plainGroup (pairing .none) (issueOf 64) ∧ active (pairing .none) (issueOf 64) 0 ≠ 0 ∧ ((pairing .none).thread 0).reefUse = [] :=
  ⟨by unfold runsNow; decide +kernel, plain_of (by decide +kernel) (by decide +kernel) (by decide +kernel), by decide +kernel, by decide +kernel⟩

theorem witness_rpair_binds : ((pairing .follower).core 0).bind = .follower ∧ ((pairing .leader).core 0).bind = .leader
    ∧ pairFails (pairing .none) ((pairing .none).thread 0) = some 2 := by decide +kernel

theorem witness_reef_status : let f : FT := { ft with sx := 5, m := 4 }
    runsNow { reefShape (wide {}) f with sdst := [5] }
        (fun iss s => active s iss f.g.toNat == 0 || (opsOf s iss.thr).all fun o => o.2.reef.isNone && !o.2.drain) (issueOf 64) (wide {})
      ∧ active (wide {}) (issueOf 64) 0 ≠ 0 ∧ ((wide {}).thread 0).reefUse = [] := ⟨by unfold runsNow; decide +kernel, by decide +kernel, by decide +kernel⟩

/-- The same warp where its launch's rectangle, cores 0 and 1, is granted. -/
def granted : State :=
  { pairing .none with
    ctxs := [(0, { live := true, launches := [(1, { live := true, number := 1, open_ := true, ops := [0, 0, 0, 0x0102000000000001] })] })] }

theorem witness_rpair_granted : pairFails granted (granted.thread 0) = none ∧ (granted.core 0).bind = .none := by decide +kernel

/-! ### Tide -/

theorem witness_beat : runsNow { engines := ctlEngines } periodsServed (issueOf 2) scalars ∧ (scalars.ctx (scalars.thread 0).ctx).live = true :=
  ⟨by unfold runsNow; decide +kernel, by decide +kernel⟩

/-- A firmware thread on core 0 of the Harbour of die 0. -/
def harbourOf (r : Regs) : State :=
  { threads := [(98304, { live := true, engine := .harbour, level := .harbour, regs := { r with em := 1, lanes := lanesAt 1 } })]
    cur := some { thr := 98304, lanes := 1, pc := 8 } }

/-- Its issue. -/
def harbourIssue : Issue := { thr := 98304, lanes := 1, pc := 8 }

theorem witness_beat_harbour : runsNow { engines := ctlEngines } periodsServed harbourIssue (harbourOf {})
    ∧ ((harbourOf {}).thread 98304).engine = .harbour := ⟨by unfold runsNow; decide +kernel, by decide +kernel⟩

theorem witness_tset : runsNow { engines := ctlEngines, level := .steward, ssrc := [5] } periodsServed sccIssue (sccOf {})
    ∧ ((sccOf {}).thread 65536).engine ≠ .harbour := ⟨by unfold runsNow; decide +kernel, by decide +kernel⟩

theorem witness_tread : runsNow { engines := ctlEngines, sdst := [7] } tideCurrent (issueOf 2) scalars := by unfold runsNow; decide +kernel

theorem witness_pclass : runsNow { engines := ctlEngines } (fun _ _ => true) (issueOf 2) scalars := by unfold runsNow; decide +kernel

/-- One context, 0, of atoll 0. -/
def tiding (x : Tide) (a : Atoll) (y : Sys) : State :=
  { ctxs := [(0, { live := true, tide := x })], atolls := [(0, { a with live := true })], sys := y }

theorem only_context {x : Tide} {a : Atoll} {y : Sys} {n : Nat} (h : ofAtoll (tiding x a y) 0 n) : n = 0 := by
  by_contra hn
  have : ((tiding x a y).ctx n).live = false := by simp [tiding, State.ctx, look, Ne.symm hn]
  simp [ofAtoll, this] at h

theorem witness_period_end : let s := tiding {} {} { dt := 100000 }
    s.wf = true ∧ (∃ n, ofAtoll s 0 n ∧ nextEnd (s.atoll 0) (s.ctx n).tide = 64000)
      ∧ (∀ n, ofAtoll s 0 n → 64000 ≤ nextEnd (s.atoll 0) (s.ctx n).tide) ∧ 64000 ≤ s.sys.dt
      ∧ ∀ n, ofAtoll s 0 n → nextEnd (s.atoll 0) (s.ctx n).tide = 64000 → (s.ctx n).tide.step = none := by
  refine ⟨by decide +kernel, ⟨0, ⟨by decide +kernel, by decide +kernel⟩, by decide +kernel⟩, fun n h => ?_, by decide +kernel, fun n h _ => ?_⟩
  · rw [only_context h]; decide +kernel
  · rw [only_context h]; decide +kernel

theorem witness_job_minimum : let s := tiding { step := some { at_ := 64000, own := 7, job := 3 } } { ports := 1 } { dt := 65000 }
    awaiting s 0 3 = some (64000, [0]) ∧ s.sys.dt ≤ 64000 + 2000 ∧ membersReady s 3 64000 = true ∧ 5 ≤ localMinimum s (membersAt s 3 64000) ∧ hasPort s 0 = true := by decide +kernel

theorem witness_merge_deadline : let s := tiding { step := some { at_ := 64000, own := 7, job := 3 } } {} { dt := 66000 }
    awaiting s 0 3 = some (64000, [0]) ∧ 64000 + 2000 ≤ s.sys.dt := by decide +kernel

theorem witness_tide_update : let y : Step := { at_ := 64000, own := 7, merged := some 7 }
    let s := tiding { step := some y } {} { dt := 68000 }
    s.wf = true ∧ ofAtoll s 0 0 ∧ (s.ctx 0).tide.step = some y
      ∧ ∀ m x, ofAtoll s 0 m → (s.ctx m).tide.step = some x → x.at_ + 4000 ≤ s.sys.dt ∧ x.merged ≠ none := by
  refine ⟨by decide +kernel, ⟨by decide +kernel, by decide +kernel⟩, by decide +kernel, fun m x h hx => ?_⟩
  rw [only_context h] at hx
  have h0 : ((tiding { step := some { at_ := 64000, own := 7, merged := some 7 } } {} { dt := 68000 }).ctx 0).tide.step =
      some { at_ := 64000, own := 7, merged := some 7 } := by decide +kernel
  obtain rfl := Option.some.inj (h0.symm.trans hx)
  exact ⟨by decide, by decide⟩

theorem witness_slew : let s : State := { atolls := [(0, { live := true, clusters := 1, slew := 1 })], clusters := [(0, { gated := false, ballast := 2 })], sys := { dt := 5000 } }
    pendingChanges s 0 = [.ballast 0] ∧ (s.atoll 0).slewFrom + (1000 * (Change.ballast 0).cost + (s.atoll 0).slew - 1) / (s.atoll 0).slew ≤ s.sys.dt := by
  decide +kernel

theorem witness_relock : let s : State := { clusters := [(0, { relock := true })] }
    (s.cluster 0).relock = true := by decide

theorem witness_controller : let x : Machine.Step := { pos := 45, int := 0, dmax := 45, imax := 65535, held := true, enable := true }
    x.pos ≤ x.dmax ∧ -x.imax ≤ x.int ∧ x.int ≤ x.imax ∧ x.held = true ∧ x.first = false ∧ x.enable = true ∧ x.out.flags.testBit 3 = true := by decide +kernel

theorem witness_allocator : let xs : List Claim := [⟨0, 0, 4, 8⟩, ⟨1, 1, 4, 32⟩, ⟨2, 3, 4, 8⟩]
    (xs.map Claim.ctx).Nodup ∧ (∀ x ∈ xs, x.floor ≤ x.want ∧ x.cls < 4) ∧ (xs.map Claim.floor).sum ≤ 24
      ∧ ∃ x ∈ xs, grantOf (divide 24 xs) x < x.want := by decide +kernel

end Sys2Proof.Tests
end

