-- ==== Sys2Proof/Tests/SystemWitnesses.lean ====
section
/-! SUPPORT. States and operands that meet the hypotheses of the statements: launches, mailboxes, placement, traps, faults, the
host, registers, preemption, power, errors, commands, updates and resets. -/

namespace Sys2Proof.Tests

set_option Elab.async false

open Sys2Proof Sys2Proof.Machine Sys2Proof.Safety Sys2Proof.Claims

/-! ### Launches -/

/-- The operands of the placement that chapter 15 traces, in s8 to s13, with an entry at 0x1000. -/
def launchOps : Regs := { s := [(8, 0x1000), (10, 0x0000000200000003), (11, 0x0202000400000001), (12, 0x0030000010210020)] }

/-- A steward with them on atoll 0, which has clusters 0 to 15. -/
def launching (r : Regs) : State := { sccOf r with atolls := [(0, { live := true, clusters := 0xFFFF })] }

theorem plain_scc (r : Regs) : plainGroup (sccOf r) sccIssue := plain_of (by decide) (by show _ = true; rfl) rfl

theorem witness_launch : let f : FY := { fy with sd := 2, sa := 8 }
    let s := launching launchOps
    runsNow (stewardShape (launchReads f) [2]) (launchMay f) sccIssue s
      ∧ ¬ ∃ c, launchFails (fun i => (scalar s sccIssue (8 + i)).toNat) (atollOf s 0).clusters c := by
  refine ⟨by unfold runsNow; decide +kernel, ?_⟩
  rintro ⟨c, h⟩
  simp only [launchFails] at h
  have ha : ¬ shapeBad (scalar (launching launchOps) sccIssue (8 + 4)).toNat := by unfold shapeBad; decide +kernel
  have hb : ¬ rectBad (scalar (launching launchOps) sccIssue (8 + 3)).toNat (atollOf (launching launchOps) 0).clusters := by
    simp only [rectBad, not_not]
    refine ⟨by decide +kernel, by decide +kernel, by decide +kernel, by decide +kernel, by decide +kernel, by decide +kernel, ?_⟩
    intro i j hi hj
    have hi : i < 2 := hi
    have hj : j < 2 := hj
    interval_cases i <;> interval_cases j <;> decide +kernel
  have hc : ¬ (extentBad ((scalar (launching launchOps) sccIssue (8 + 2)).toNat % 2 ^ 32)
      ∨ extentBad ((scalar (launching launchOps) sccIssue (8 + 2)).toNat / 2 ^ 32)
      ∨ extentBad ((scalar (launching launchOps) sccIssue (8 + 3)).toNat % 2 ^ 32)) := by unfold extentBad; decide +kernel
  have hd : ¬ 131072 < ((scalar (launching launchOps) sccIssue (8 + 4)).toNat / 2 ^ 20 % 32)
      * ((scalar (launching launchOps) sccIssue (8 + 4)).toNat % 2 ^ 8)
      * ((scalar (launching launchOps) sccIssue (8 + 4)).toNat / 2 ^ 8 % 2 ^ 11) := by decide +kernel
  have he : ¬ ((scalar (launching launchOps) sccIssue (8 + 0)).toNat % 2 ^ 56 = 0 ∨ entryBad (scalar (launching launchOps) sccIssue (8 + 0)).toNat
      ∨ entryBad (scalar (launching launchOps) sccIssue (8 + 1)).toNat) := by unfold entryBad; decide +kernel
  rcases h with h | h | h | h | h
  · exact ha h.2
  · exact hb h.2.2
  · exact hc h.2.2.2
  · exact hd h.2.2.2.2
  · exact he h.2.2.2.2.2

theorem witness_launch_refused : let f : FY := { fy with sd := 2, sa := 8 }
    runsNow (stewardShape (launchReads f) [2]) (launchMay f) sccIssue (launching {})
      ∧ launchFails (fun i => (scalar (launching {}) sccIssue (8 + i)).toNat) (atollOf (launching {}) 0).clusters (-1) :=
  ⟨by unfold runsNow; decide +kernel, Or.inl ⟨rfl, by unfold shapeBad; decide +kernel⟩⟩

/-- The context with a launch in entry 1. -/
def withLaunch (e : Launch) (h : Hold) (r : Regs) : State :=
  { threads := [(65536, { stewardOf r with regs := { r with em := 1, lanes := [(0, { atEight with hold := h })] } })]
    ctxs := [(0, { live := true, steward := some 65536, lastLaunch := 1, nextLaunch := 2, launches := [(1, { e with live := true, number := 1 })] })]
    cur := some sccIssue }

theorem witness_lwait_values : let c := (withLaunch { done := true } .none {}).ctx 0
    1 ≠ 0 ∧ (look {} c.launches 1).live = true ∧ (look {} c.launches 1).number = 1 ∧ ¬ ((0 : Nat) ≠ 0) := by decide +kernel

theorem witness_lwait : runsNow (stewardShape [2] [3]) (fun _ _ => true) sccIssue (withLaunch { done := true } .none { s := [(2, 1)] })
    ∧ plainGroup (withLaunch { done := true } .none { s := [(2, 1)] }) sccIssue
    ∧ lwaitResult (dueCtx (withLaunch { done := true } .none { s := [(2, 1)] }) 0) 1 = some (1, true) :=
  ⟨by unfold runsNow; decide +kernel, plain_of (by decide +kernel) (by decide +kernel) (by decide +kernel), by decide +kernel⟩

theorem witness_lwait_holds : runsNow (stewardShape [2] [3]) (fun _ _ => true) sccIssue (withLaunch { open_ := true, total := 1 } .none { s := [(2, 1)] })
    ∧ lwaitResult (dueCtx (withLaunch { open_ := true, total := 1 } .none { s := [(2, 1)] }) 0) 1 = none :=
  ⟨by unfold runsNow; decide +kernel, by decide +kernel⟩

theorem witness_lwait_release : let s := withLaunch { done := true } (.launch 3 1) {}
    mayRelease s 65536 0 ∧ ((s.thread 65536).lane 0).hold = .launch 3 1 ∧ (s.thread 65536).seq = none ∧ 0 < (s.thread 65536).width
      ∧ lwaitResult (dueCtx s 0) 1 = some (1, true) := by unfold mayRelease; decide +kernel

/-! ### Mailboxes and events -/

/-- The steward, held, with one message of kind 0x80 in inbound ring 0. -/
def mailed (c : Ctx) (h : Hold) (r : Regs) : State :=
  { threads := [(65536, { stewardOf r with regs := { r with em := 1, lanes := [(0, { atEight with hold := h })] } })]
    ctxs := [(0, { c with live := true, steward := some 65536 })], cur := some sccIssue }

/-- A ring with one deliverable message. -/
def oneMessage : Ring := { pi := 1, ready := 1, kept := [(0, 0x8000000000000007)] }

theorem plain_mailed (c : Ctx) (r : Regs) : plainGroup (mailed c .none r) sccIssue := plain_of (by decide) (by show _ = true; rfl) rfl

theorem witness_mbrecv : let s := mailed { inb := [(0, oneMessage)] } .none {}
    runsNow (stewardShape [] ((List.range 9).map (16 + ·))) (fun _ _ => true) sccIssue s ∧ plainGroup s sccIssue
      ∧ ((s.ctx 0).inRing 0).oldest = some [7, 0, 0, 0, 0, 0, 0, 0] ∧ field ([7, 0, 0, 0, 0, 0, 0, 0].getD 0 (0 : W64)) 63 56 ≠ 1 :=
  ⟨by unfold runsNow; decide +kernel, plain_mailed _ _, by decide +kernel, by decide +kernel⟩

/-- The steward with a RESUME for ring entry 5 in inbound ring 0, and a warp whose lane is parked on the fault there. -/
def resumedBy (action : W64) : State :=
  { threads := [(0, { warpOf 1 {} with regs := { (warpOf 1 {}).regs with lanes := [(0, { atEight with state := .parked 1 })] } }), (65536, stewardOf {})]
    ctxs := [(0, { live := true, steward := some 65536
                   inb := [(0, { pi := 1, ready := 1, kept := [(0, 0x0100000000000005)] ++ if action = 0 then [] else [(1, action)] })] })]
    fl := { next := 2, faults := [(1, { live := true, ctx := 0, who := .lanes 0 1, index := some 5 })] }
    cur := some sccIssue }

theorem witness_mbrecv_resume : let s := resumedBy 0
    runsNow (stewardShape [] ((List.range 9).map (16 + ·))) (fun _ _ => true) sccIssue s ∧ plainGroup s sccIssue ∧ s.wf = true
      ∧ ((s.ctx 0).inRing 0).oldest = some [0x0100000000000005, 0, 0, 0, 0, 0, 0, 0]
      ∧ field ([0x0100000000000005, 0, 0, 0, 0, 0, 0, 0].getD 0 (0 : W64)) 63 56 = 1
      ∧ (1, ({ live := true, ctx := 0, who := .lanes 0 1, index := some 5 } : FaultRec)) ∈ s.fl.faults
      ∧ field ([0x0100000000000005, 0, 0, 0, 0, 0, 0, 0].getD 0 (0 : W64)) 31 0 = 5
      ∧ (∀ j h, (j, h) ∈ s.fl.faults → j = 1) ∧ (0 : Nat) ≠ sccIssue.thr ∧ (s.thread 0).seq = none ∧ 1 < 2 ^ 64
      ∧ (s.thread 0).width ≤ 64 ∧ (s.thread 0).live = true :=
  ⟨by unfold runsNow; decide +kernel, plain_of (by decide) (by show _ = true; rfl) rfl, by decide +kernel, by decide +kernel, by decide +kernel,
    by decide +kernel, by decide +kernel, fun j h hm => by simp [resumedBy] at hm; exact hm.1, by decide +kernel, by decide +kernel, by decide,
    by decide +kernel, by decide +kernel⟩

theorem witness_mbrecv_resume_ignored : ((((resumedBy 3).ctx 0).inRing 0).oldest) = some [0x0100000000000005, 3, 0, 0, 0, 0, 0, 0]
    ∧ field ([0x0100000000000005, 3, 0, 0, 0, 0, 0, 0].getD 1 (0 : W64)) 1 0 = 3 := by decide +kernel

theorem witness_mbrecv_empty : ((((mailed {} .none {}).ctx 0).inRing 0).oldest) = none := by decide +kernel

theorem witness_mbrecv_delivery : let s := mailed { inb := [(0, oneMessage)] } (.mailbox 16 0) {}
    mayRelease s 65536 0 ∧ ((s.thread 65536).lane 0).hold = .mailbox 16 0 ∧ 0 < (s.thread 65536).width
      ∧ ((s.ctx (s.thread 65536).ctx).inRing 0).oldest = some [7, 0, 0, 0, 0, 0, 0, 0] := by unfold mayRelease; decide +kernel

theorem witness_mbsend : let s := mailed {} .passed {}
    runsNow (stewardShape ((List.range 8).map (24 + ·)) [0]) (fun iss s => !allPassed s iss || has 0 8 || sendRoom s (s.thread iss.thr).ctx 0) sccIssue s
      ∧ plainGroup s sccIssue ∧ allPassed s sccIssue = true ∧ sendRoom s 0 0 = true :=
  ⟨by unfold runsNow; decide +kernel, plain_of (by decide +kernel) (by decide +kernel) (by decide +kernel), by decide +kernel, by decide +kernel⟩

theorem witness_mbsend_fence : let s := mailed {} .none {}
    runsNow (stewardShape ((List.range 8).map (24 + ·)) [0]) (fun iss s => !allPassed s iss || has 0 8 || sendRoom s (s.thread iss.thr).ctx 0) sccIssue s
      ∧ allPassed s sccIssue = false := ⟨by unfold runsNow; decide +kernel, by decide +kernel⟩

theorem witness_mbsend_full : let s := mailed { outb := [(0, { pi := 64 })] } .passed {}
    runsNow (stewardShape ((List.range 8).map (24 + ·)) [0]) (fun iss s => !allPassed s iss || has 0x100 8 || sendRoom s (s.thread iss.thr).ctx 0) sccIssue s
      ∧ allPassed s sccIssue = true ∧ sendRoom s 0 0 = false := ⟨by unfold runsNow; decide +kernel, by decide +kernel, by decide +kernel⟩

theorem witness_evwait : let s := mailed { events := [{ kind := 2 }] } .none {}
    runsNow (stewardShape [] [30, 31]) (fun _ _ => true) sccIssue s ∧ plainGroup s sccIssue
      ∧ (dueCtx s 0).events.find? (fun r => (0x0F : Nat).testBit r.kind) = some { kind := 2 } :=
  ⟨by unfold runsNow; decide +kernel, plain_mailed _ _, by decide +kernel⟩

theorem witness_evwait_holds : let s := mailed { events := [{ kind := 4 }] } .none {}
    runsNow (stewardShape [] [30, 31]) (fun _ _ => true) sccIssue s ∧ (dueCtx s 0).events.find? (fun r => (0x0F : Nat).testBit r.kind) = none :=
  ⟨by unfold runsNow; decide +kernel, by decide +kernel⟩

theorem witness_evwait_release : let s := mailed { events := [{ kind := 2 }] } (.event 30 15) {}
    mayRelease s 65536 0 ∧ ((s.thread 65536).lane 0).hold = .event 30 15 ∧ (s.thread 65536).seq = none ∧ 0 < (s.thread 65536).width
      ∧ (dueCtx s 0).events.find? (fun r => (15 : Nat).testBit r.kind) = some { kind := 2 } := by unfold mayRelease; decide +kernel

theorem witness_post : (({} : Ctx).events.length < 32) ∧ 32 ≤ ({ events := List.replicate 32 {} } : Ctx).events.length := by decide

/-! ### Placement -/

/-- A context with the traced launch, entered under number 1 by its steward. -/
def placing : State :=
  { launching {} with
    threads := [(65536, stewardOf {})]
    ctxs := [(0, { live := true, steward := some 65536, lastLaunch := 1, nextLaunch := 2
                   launches := [(1, { live := true, number := 1, open_ := true, total := 6, by_ := 65536
                                      ops := [0x1000, 0, 0x0000000200000003, 0x0202000400000001, 0x0030000010210020, 0, 0] })] })]
    clusters := (List.range 16).map fun n => (n, { gated := false }), cur := none }

theorem witness_placement : ∃ e core, let v := run [seatContexts 0] placing
    nextTurn v 0 = some 0 ∧ placeable v 0 = some (e, core) ∧ e.init = false ∧ (v.wg (freeWgKey v core)).live = false :=
  ⟨_, _, by decide +kernel, rfl, by decide +kernel, by decide +kernel⟩

/-- A workgroup of that launch, placed on core 4 and not started. -/
def placed : State := { placing with wgs := [(1024, { live := true, ctx := 0, launch := 1, core := 4, slots := [0, 1] })] }

theorem witness_warp_start : let w := placed.wg 1024
    w.live = true ∧ w.started = false ∧ w.init = none ∧ launchReleased placed w.ctx ((placed.ctx w.ctx).launch w.launch) = true
      ∧ (placed.cluster (clusterOf w.core)).gated = false ∧ w.slots.Nodup ∧ (∀ x ∈ w.slots, x < 32) ∧ w.core < 768 := by decide +kernel

/-- A workgroup of one warp whose lanes have exited. -/
def ending : State :=
  { placing with
    threads := [(0, { warpOf 1 {} with launch := 1, wg := 7, regs := { (warpOf 1 {}).regs with em := 0, lanes := [(0, { atEight with state := .exited })] } })]
    wgs := [(7, { live := true, ctx := 0, launch := 1, slots := [0], warps := [0], started := true })] }

theorem witness_slot_release : let t := ending.thread 0
    let w := ending.wg t.wg
    releasableSlot ending 0 = true ∧ w.live = true ∧ w.warps.filter (· != 0) = [] ∧ w.regions = [] ∧ w.started = true
      ∧ opsOf ending (backKey t.wg) = [] ∧ releaseStopped ending t.wg = false ∧ 0 ≠ accessKey t.core t.slot := by decide +kernel

theorem witness_slot_release_more : let s := { ending with wgs := [(7, { live := true, ctx := 0, launch := 1, slots := [0, 1], warps := [0, 1], started := true })] }
    releasableSlot s 0 = true ∧ (s.wg (s.thread 0).wg).live = true ∧ (s.wg (s.thread 0).wg).warps.filter (· != 0) ≠ [] := by decide +kernel

/-! ### Traps, returns, faults -/

theorem witness_trap : runsNow { engines := ctlEngines } (fun _ _ => true) (issueOf 2) scalars ∧ plainGroup scalars (issueOf 2) ∧ (issueOf 2).lanes ≠ 0 :=
  ⟨by unfold runsNow; decide +kernel, plain_scalars, by decide⟩

/-- A warp with lane 0 stopped for record 1, the record, and a context. -/
def trapped (c : Ctx) (r : Trap) (x : Lane) : State :=
  { threads := [(0, { warpOf 1 {} with regs := { (warpOf 1 {}).regs with lanes := [(0, { x with live := true, state := .stopped (.record 1), word := 0xFC05000000030066 })] } })]
    ctxs := [(0, { c with live := true })], fl := { next := 2, traps := [(1, { r with live := true, ctx := 0, lanes := 1 })] } }

theorem witness_delivery : let s := trapped { trapvec := 0x1000 } {} {}
    deliverable s 1 = true ∧ (s.ctx (s.trap 1).ctx).trapvec ≠ 0 ∧ (s.thread (sccKey (s.trap 1).cluster 0)).live = false := by decide +kernel

theorem witness_delivery_no_vector : let s := trapped {} {} {}
    deliverable s 1 = true ∧ (s.ctx (s.trap 1).ctx).trapvec = 0 ∧ (s.thread (s.trap 1).thr).live = true ∧ (s.thread 0).seq = none
      ∧ 0 < (s.thread 0).width ∧ (s.thread 0).engine = .core := by decide +kernel

theorem witness_record_words : let r : Trap := { cause := .fpe, agent := 3, core := 767, slot := 31, seq := 9 }
    (r.cause, 9) ∈ causeCodes ∧ r.agent < 8 ∧ r.core < 1024 ∧ r.slot < 32 ∧ r.seq < 2 ^ 32 := by decide

/-- That warp with its handler, in slot 1 of the SCC, at an `ERET`. -/
def handledBy (x : Lane) : State :=
  let s := trapped { trapvec := 0x1000 } {} x
  { s with
    threads := s.threads ++ [(65537, { live := true, engine := .scc, level := .handler, ctx := 0, slot := 1, record := 2, regs := { em := 1, lanes := lanesAt 1 } })]
    fl := { s.fl with traps := [(1, { live := true, ctx := 0, lanes := 1, handler := some 65537 })] }
    ca := { tlb := [pageZero] }
    cur := some { thr := 65537, lanes := 1, pc := 8 } }

/-- Its issue. -/
def handlerIssue : Issue := { thr := 65537, lanes := 1, pc := 8 }

theorem witness_eret : runsNow { engines := ctlEngines, level := .handler } (fun _ _ => true) handlerIssue (handledBy { pc := 8 })
    ∧ ((handledBy { pc := 8 }).thread 65537).record = 1 + 1 ∧ ((handledBy { pc := 8 }).trap 1).live = true
    ∧ ((handledBy { pc := 8 }).thread ((handledBy { pc := 8 }).trap 1).thr).live = true ∧ ((handledBy { pc := 8 }).trap 1).thr ≠ handlerIssue.thr
    ∧ badResume (handledBy { pc := 8 }) 1 false = none ∧ badResume (handledBy { pc := 8 }) 1 true = none ∧ ((handledBy { pc := 8 }).thread 0).seq = none :=
  ⟨by unfold runsNow; decide +kernel, by decide +kernel, by decide +kernel, by decide +kernel, by decide +kernel, by decide +kernel, by decide +kernel,
    by decide +kernel⟩

theorem witness_eret_bad : let s := handledBy { pc := 12, rewritten := true }
    runsNow { engines := ctlEngines, level := .handler } (fun _ _ => true) handlerIssue s ∧ plainGroup s handlerIssue ∧ handlerIssue.lanes = 1
      ∧ (s.thread 65537).record = 1 + 1 ∧ (s.trap 1).thr ≠ handlerIssue.thr ∧ 0 < (s.thread 0).width ∧ resumes (s.thread 0) (s.trap 1) 0
      ∧ ((s.thread 0).lane 0).rewritten = true ∧ ((s.thread 0).lane 0).pc.toNat % 8 ≠ 0
      ∧ ∀ m, m < (s.thread 0).width → m ≠ 0 → resumes (s.thread 0) (s.trap 1) m → ((s.thread 0).lane m).rewritten = false :=
  ⟨by unfold runsNow; decide +kernel, plain_of (by decide +kernel) (by decide +kernel) (by decide +kernel), by decide, by decide +kernel, by decide +kernel,
    by decide +kernel, Or.inl (by decide +kernel), by decide +kernel, by decide +kernel, fun m hm hn => absurd (show m < 1 from hm) (by omega)⟩

theorem witness_eret_no_header : ∃ w : W64, fetch (handledBy { pc := 16, rewritten := true }) ((handledBy { pc := 16, rewritten := true }).thread 0) 16 = .ok w
    ∧ w.extractLsb' 58 6 ≠ 63 := ⟨0, by decide +kernel, by decide⟩

theorem witness_fault_parks : 0 < ((scalars.thread 0).width) ∧ (0 : Nat) < 64 ∧ (scalars.thread 0).seq = none ∧ ({} : Miss).home = false
    ∧ ({} : Miss).stage2 = false ∧ ({ stage2 := true } : Miss).stage2 = true ∧ hostAssisted scalars (scalars.ctx 0).atoll 0 = false := by decide +kernel

theorem witness_fault_host_assisted : hostAssisted { scalars with sys := { atollmode := [(0, 1)] } } 0 0 = true := by decide +kernel

/-- A lane parked on fault 1. -/
def parkedFault (m : Miss) : State :=
  { threads := [(0, { warpOf 1 {} with regs := { (warpOf 1 {}).regs with lanes := [(0, { atEight with state := .parked 1 })] } })]
    ctxs := [(0, { live := true })], fl := { next := 2, faults := [(1, { live := true, ctx := 0, miss := m, who := .lanes 0 1 })] } }

theorem witness_fault_waits : (({ scalars with dies := [(0, { restart := true })] } : State).die 0).restart = true := by decide

/-- A fault that waits for its context's ring, which lies in page 0. -/
def ringFault : State :=
  { ctxs := [(0, { live := true, frwait := [1] })], ca := { tlb := [pageZero] }
    fl := { next := 2, faults := [(1, { live := true, ctx := 0, who := .lanes 0 1 })] } }

theorem witness_ring_entry : ∃ p, (ringFault.ctx 0).frwait = [1]
    ∧ ((ringFault.ctx 0).frpi + 2 ^ 32 - (ringFault.ctx 0).frci) % 2 ^ 32 < 2 ^ (ringFault.ctx 0).fsize ∧ (ringFault.fault 1).live = true
    ∧ translate ringFault { ctx := 0, cluster := (ringFault.ctx 0).home, die := dieOfCluster (ringFault.ctx 0).home } .write
        ((ringFault.ctx 0).fring + 32 * ((ringFault.ctx 0).frpi % 2 ^ 32 % 2 ^ (ringFault.ctx 0).fsize)) = .ok p ∧ p.space = .dev :=
  ⟨_, by decide +kernel, by decide +kernel, by decide +kernel, rfl, by decide +kernel⟩

theorem witness_entry_words : let f : FaultRec := { agent := 4, ctx := 63, core := 767, slot := 31 }
    f.miss.access < 4 ∧ f.miss.reason < 16 ∧ f.agent < 5 ∧ f.miss.level < 8 ∧ f.ctx < 64 ∧ f.core < 1024 ∧ f.slot < 32 := by decide

theorem witness_second_stage : let s := parkedFault { stage2 := true }
    (s.fault 1).live = true ∧ (s.fault 1).miss.stage2 = true ∧ (s.fault 1).miss.home = false ∧ hostAssisted s (s.ctx (s.fault 1).ctx).atoll 0 = false
      ∧ (s.die (s.fault 1).die).restart = false ∧ (s.die (s.fault 1).die).handover = false ∧ (s.fault 1).who = .lanes 0 1 ∧ (s.thread 0).seq = none
      ∧ (s.fault 1).miss.row = none ∧ 1 < 2 ^ 64 ∧ (s.thread 0).width ≤ 64 ∧ (s.thread 0).live = true ∧ parkedOn s 0 1 1 0 := by
  unfold parkedOn; decide +kernel

theorem witness_home_fault : let s := parkedFault { home := true }
    (s.fault 1).live = true ∧ (s.fault 1).miss.home = true ∧ (s.fault 1).who = .lanes 0 1 ∧ (s.thread 0).seq = none ∧ (s.fault 1).miss.row = none
      ∧ (s.thread 0).width ≤ 64 ∧ (s.thread 0).live = true ∧ parkedOn s 0 1 1 0 := by unfold parkedOn; decide +kernel

/-! ### The host and the fabric -/

/-- A context alone. -/
def hosted (c : Ctx) : State := { ctxs := [(0, { c with live := true })] }

theorem witness_inpi : ((hosted {}).ctx 0).live = true ∧ (0 : Nat) < 4 ∧ indexOk 1 (((hosted {}).ctx 0).inRing 0).pi 64
    ∧ indexOk 1 (((hosted {}).ctx 0).inRing 0).ci 64 ∧ ¬ indexOk 65 (((hosted {}).ctx 0).inRing 0).pi 64 ∧ ((hosted {}).ctx 0).events.length < 32 := by
  unfold indexOk; decide +kernel

theorem witness_outci : let s := hosted { outb := [(3, { pi := 64 })], notices := [[7]] }
    let r := (s.ctx 0).outRing 3
    (s.ctx 0).live = true ∧ indexOk 1 r.ci ((r.pi + 2 ^ 32 - r.ci) % 2 ^ 32) ∧ ¬ indexOk 65 r.ci ((r.pi + 2 ^ 32 - r.ci) % 2 ^ 32)
      ∧ (s.ctx 0).notices = [[7]] ∧ r.pi < 2 ^ 32 ∧ (r.pi + 2 ^ 32 - 1 % 2 ^ 32) % 2 ^ 32 < 64 := by unfold indexOk; decide +kernel

theorem witness_outci_plain : let s := hosted { outb := [(0, { pi := 64 })] }
    (s.ctx 0).notices = [] ∧ indexOk 1 ((s.ctx 0).outRing 0).ci 64 := by unfold indexOk; decide +kernel

theorem witness_frci : let s := hosted { frpi := 2 }
    (s.ctx 0).live = true ∧ (s.ctx 0).frwait = [] ∧ indexOk 1 (s.ctx 0).frci 2 ∧ ¬ indexOk 3 (s.ctx 0).frci 2 := by unfold indexOk; decide +kernel

theorem witness_svrci : let y : Sys := { svrpi := 2 }
    indexOk 1 y.svrci ((y.svrpi + 2 ^ 32 - y.svrci) % 2 ^ 32) ∧ ¬ indexOk 3 y.svrci ((y.svrpi + 2 ^ 32 - y.svrci) % 2 ^ 32) ∧ y.waiting = [] := by
  unfold indexOk; decide

theorem witness_istat : (4 : Nat) < 5 ∧ ((hosted { istat := 16 }).ctx 0).istat.testBit 4 = true ∧ ((hosted { istat := 16 }).ctx 0).imask.testBit 4 = false := by
  decide +kernel

theorem witness_register_write : (∃ n c, (n, c) ∈ (hosted {}).ctxs ∧ c.live = true ∧ c.active = true ∧ c.atoll = 0)
    ∧ indexOk 1 ({} : Sys).svcpi 64 ∧ indexOk 1 ({} : Sys).svcci 64 ∧ ¬ indexOk 65 ({} : Sys).svcpi 64 :=
  ⟨⟨0, { live := true }, by simp [hosted], rfl, rfl, rfl⟩, by unfold indexOk; decide, by unfold indexOk; decide, by unfold indexOk; decide⟩

theorem witness_bar0 : (0 : Nat) < 16 ∧ 0x3FF8 < 0x10000 ∧ 0x3FF8 % 8 = 0 ∧ ctxAt (hosted {}) 0 0 = some 0 ∧ 0x3FF8 < 0x4000 ∧ ((hosted {}).ctx 0).frwait = [] := by
  decide +kernel

theorem witness_ring_slot : (0 : Nat) < 16 ∧ 1 ≤ 3 ∧ 3 ≤ 8 ∧ ctxAt (hosted {}) 0 0 = some 0 ∧ 0x3FFD + 3 ≤ 0x4000 ∧ 0x7FFD + 3 ≤ 0x8000
    ∧ 0x8000 ≤ 0x8004 ∧ 0x8004 + 4 ≤ 0x10000 ∧ ((hosted {}).ctx 0).frwait = [] := by decide +kernel

theorem witness_adl : ({} : State).wf = true ∧ (3 : Nat) < 4 ∧ (7 : Nat) < 8 := by decide +kernel

/-- A function of atoll 0, which owns every channel group. -/
def barState : State := { atolls := [(0, { live := true, groups := 2 ^ 48 - 1 })], sys := { fncfg := [(1, 1)] } }

theorem owned_bar (pa : Nat) : ownedBy barState 0 pa = true := by
  have h : channelAt barState pa = Config.channelOf (pa / 1024) % 1536 := by
    unfold channelAt
    rw [show (1536 : Nat) = 1535 + 1 from rfl, channelFrom, if_neg (by simp [retired, barState, look])]
    rfl
  have hg : (barState.atoll 0).groups = 2 ^ 48 - 1 := by decide +kernel
  unfold ownedBy
  rw [h, hg]
  simp only [has, Nat.testBit_two_pow_sub_one, decide_eq_true_eq]
  omega

theorem witness_bar2 : (look 0 barState.sys.fncfg 1).toNat % 2 = 1 ∧ ownedBy barState 0 8 = true ∧ (11 : Nat) < 2 ^ 36 ∧ 1 ≤ 5 ∧ 11 % 8 + 5 ≤ 8
    ∧ pageHeld barState .dev 8 = false ∧ (look 0 barState.sys.fncfg 2).toNat % 2 = 0 :=
  ⟨by decide +kernel, owned_bar 8, by decide, by decide, by decide, by decide +kernel, by decide +kernel⟩

/-- A ring whose first message names a payload of 16 bytes, or of none. -/
def payloadRing (n : W64) : Ring := { pi := 1, kept := [(0, 0x0001000000000000), (5, 0x100), (6, 0x200), (7, n)] }

theorem witness_payload : let s := hosted { inb := [(0, payloadRing 16)] }
    let r := (s.ctx 0).inRing 0
    (s.ctx 0).live = true ∧ r.fetch = none ∧ r.ready ≠ r.pi ∧ r.wantsPayload r.ready = true ∧ workerAway s 0 = false ∧ (s.ctx 0).save = .none
      ∧ 1 ≤ (look 0 r.kept 7).toNat % 2 ^ 32 ∧ (look 0 r.kept 7).toNat % 2 ^ 32 ≤ 65536 := by decide +kernel

theorem witness_payload_length : ¬ (1 ≤ (0 : W64).toNat % 2 ^ 32 ∧ (0 : W64).toNat % 2 ^ 32 ≤ 65536) ∧ (payloadRing 0).wantsPayload (payloadRing 0).ready = true := by
  decide +kernel

theorem witness_peer_ack : let s := sent { cls := .s } { kind := .store, space := .peer, done := true, acked := false }
    (s.req 2).live = true ∧ (s.req 2).space = .peer ∧ (s.req 2).done = true ∧ (s.req 2).acked = false ∧ (s.req 2).kind ≠ .load ∧ (s.req 2).copy = none := by
  decide +kernel

theorem witness_peer_high_half : let s : State :=
      { fl := { next := 3, reqs := [(2, { live := true, kind := .atomic, half := true, inbound := true, thr := peerAgent 3, key := 0x100, atoms := [{ aop := 10 }] })] } }
    (s.req 2).live = true ∧ (s.req 2).kind = .atomic ∧ (s.req 2).half = true ∧ (s.req 2).inbound = true ∧ (s.req 2).space = .dev
      ∧ pageHeld s .dev (s.req 2).key = false ∧ (s.req 2).atoms = [{ aop := 10 }] ∧ poisoned s .dev (forward s .dev (s.req 2).key + 2) 2 = false := by
  decide +kernel

theorem witness_peer_refuses : let s := sent { cls := .l } { space := .peer }
    (s.req 2).space = .peer ∧ mayPerform s 2 = true ∧ (s.req 2).op ≠ 0 ∧ (s.thread (s.req 2).thr).live = true := by decide +kernel

/-- A device that serves context 0 to peers, with page 0 of it mapped. -/
def homeOf : State := { ctxs := [(0, { live := true })], ca := { tlb := [pageZero] }, sys := { owners := [(3, 0, 0x10000)] } }

theorem witness_peer_home : let q : PeerRequest := { source := 3, write := true, atom := none, gen := 0, pa := 0x100, mask := 255, data := 7, home := some 0 }
    ∃ p, translate homeOf (homeWho homeOf 0) (peerAccess q) (q.pa % 2 ^ 40) = .ok p ∧ p.space = .dev ∧ pageHeld homeOf .dev p.key = false
      ∧ peerParks homeOf q p.key p.canW = false ∧ homeOf.fl.reqs = [] :=
  ⟨_, rfl, by decide +kernel, by decide +kernel, by decide +kernel, by decide +kernel⟩

theorem witness_peer_home_faults : ∃ m, translate { homeOf with ca := {} } (homeWho { homeOf with ca := {} } 0) .read 0x100 = .error m := ⟨_, rfl⟩

theorem witness_peer_request : let s : State := { sys := { owners := [(3, 0, 0x10000)] } }
    (∃ o ∈ s.sys.owners, o.1 = 3 ∧ o.2.1 ≤ 0x100 ∧ 0x100 ≤ o.2.2) ∧ ¬ (∃ o ∈ s.sys.owners, o.1 = 4 ∧ o.2.1 ≤ 0x100 ∧ 0x100 ≤ o.2.2)
      ∧ pageHeld s .dev 0x100 = false ∧ s.fl.reqs = [] ∧ ¬ ((true = true ∨ (none : Option Atom) ≠ none) ∧ 0 % 256 ≠ s.sys.mapGen % 256) := by decide +kernel

end Sys2Proof.Tests
end

