-- ==== Sys2Proof/Tests/ServiceWitnesses.lean ====
section
/-! SUPPORT. States and operands that meet the hypotheses of the statements: registers, debug, freezes, pre-emption, power,
migration and errors. -/

namespace Sys2Proof.Tests

set_option Elab.async false

open Sys2Proof Sys2Proof.Machine Sys2Proof.Safety Sys2Proof.Claims

/-! ### Special registers, the debug window, freezes and HALT -/

theorem witness_csrr : let f : FY := { fy with sd := 3, id := 0x010 }
    runsNow { engines := csrEngines f.id.toNat, sdst := [f.sd.toNat] } (fun iss s => !tideCsr f.id.toNat || tideCurrent iss s) (issueOf 2) scalars ∧ (scalars.thread 0).engine ≠ .harbour :=
  ⟨by unfold runsNow; decide +kernel, by decide +kernel⟩

theorem witness_csrr_context : let f : FY := { fy with sd := 3, id := 0x18B }
    runsNow { engines := csrEngines f.id.toNat, sdst := [f.sd.toNat] } (fun iss s => !tideCsr f.id.toNat || tideCurrent iss s) sccIssue (sccOf {}) ∧ ((sccOf {}).thread 65536).engine ≠ .harbour :=
  ⟨by unfold runsNow; decide +kernel, by decide +kernel⟩

theorem witness_csrr_harbour : let f : FY := { fy with sd := 3, id := 0x180 }
    runsNow { engines := csrEngines f.id.toNat, sdst := [f.sd.toNat] } (fun iss s => !tideCsr f.id.toNat || tideCurrent iss s) harbourIssue (harbourOf {})
      ∧ ((harbourOf {}).thread 98304).engine = .harbour :=
  ⟨by unfold runsNow; decide +kernel, by decide +kernel⟩

theorem witness_csrw_warp : let f : FY := { fy with sa := 4, id := 0x011 }
    runsNow { engines := csrEngines f.id.toNat, level := if warpCsr f.id.toNat then .kernel else .steward, ssrc := [f.sa.toNat] }
      (fun iss s => !tideCsr f.id.toNat || periodsServed iss s) (issueOf 2) scalars := by unfold runsNow; decide +kernel

theorem witness_csrw_context : let f : FY := { fy with sa := 4, id := 0x106 }
    runsNow { engines := csrEngines f.id.toNat, level := if warpCsr f.id.toNat then .kernel else .steward, ssrc := [f.sa.toNat] }
      (fun iss s => !tideCsr f.id.toNat || periodsServed iss s) sccIssue (sccOf {})
      ∧ ¬ ofWarp f.id.toNat ∧ ((sccOf {}).thread 65536).engine ≠ .harbour := by unfold runsNow ofWarp; decide +kernel

theorem witness_csrw_harbour : let f : FY := { fy with sa := 4, id := 0x106 }
    runsNow { engines := csrEngines f.id.toNat, level := if warpCsr f.id.toNat then .kernel else .steward, ssrc := [f.sa.toNat] }
      (fun iss s => !tideCsr f.id.toNat || periodsServed iss s) harbourIssue (harbourOf {})
      ∧ ¬ ofWarp f.id.toNat ∧ ((harbourOf {}).thread 98304).engine = .harbour := by unfold runsNow ofWarp; decide +kernel

theorem witness_cntrd : runsNow { engines := ctlEngines, sdst := [3] } (fun _ _ => true) (issueOf 2) scalars
    ∧ (∀ i, (look {} (scalars.ctx (scalars.thread 0).ctx).counters i).count < 2 ^ 48) ∧ (scalars.thread 0).engine ≠ .harbour := by
  refine ⟨by unfold runsNow; decide +kernel, fun i => ?_, by decide +kernel⟩
  have h : (scalars.ctx (scalars.thread 0).ctx).counters = [] := by decide +kernel
  rw [h]; exact (by decide : ({} : Counter).count < 2 ^ 48)

theorem witness_cntcfg : runsNow (windowShape [2] []) (fun _ _ => true) sccIssue (sccOf {}) ∧ ((sccOf {}).thread 65536).engine = .scc :=
  ⟨by unfold runsNow; decide +kernel, by decide +kernel⟩

theorem witness_tlbi : runsNow (windowShape [2] [3]) (fun _ _ => true) sccIssue (sccOf {}) ∧ ((sccOf {}).thread sccIssue.thr).live = true
    ∧ sccIssue.thr < 2 ^ 60 := ⟨by unfold runsNow; decide +kernel, by decide +kernel, by decide⟩

/-- The handler's target: lane 0 of the trapped warp. -/
def ofTrapped : Aim := { thr := 0, lane := 0, scc := false }

theorem witness_may_aim : mayAim (handledBy {}) handlerIssue ofTrapped 0x450 = true
    ∧ aimOf ((handledBy {}).thread 65537) (scalar (handledBy {}) handlerIssue 4) = some ofTrapped := ⟨by decide +kernel, by decide +kernel⟩

theorem witness_dbgrd : runsNow (windowShape [4] [10]) (fun _ _ => true) handlerIssue (handledBy {})
    ∧ ((handledBy {}).thread (ofTrapped.owner 0x450)).episode = none ∧ ((handledBy {}).thread (ofTrapped.owner 0x450)).inUse 0x450 = false :=
  ⟨by unfold runsNow; decide +kernel, by decide +kernel, by decide +kernel⟩

theorem witness_dbgrd_repcnt : let t := (handledBy {}).thread 0
    t.cntL < 64 ∧ t.cntS < 64 ∧ t.cntC < 64 ∧ t.cntT < 64 ∧ t.seq = none ∧ t.repcnt < 2 ^ 64 ∧ t.lgw < 2 ^ 64 := by decide +kernel

theorem witness_dbgwr : runsNow (windowShape [4, 10] []) (fun _ _ => true) handlerIssue (handledBy {})
    ∧ aimOf ((handledBy {}).thread 65537) (scalar (handledBy {}) handlerIssue 4) = some ofTrapped ∧ mayAim (handledBy {}) handlerIssue ofTrapped 0x458 = true
    ∧ ofTrapped.owner 0x458 ≠ handlerIssue.thr ∧ ((handledBy {}).thread (ofTrapped.owner 0x458)).episode = none
    ∧ ((handledBy {}).thread (ofTrapped.owner 0x458)).reefUse = [] :=
  ⟨by unfold runsNow; decide +kernel, by decide +kernel, by decide +kernel, by decide, by decide +kernel, by decide +kernel⟩

theorem witness_dbgwr_denied : runsNow (windowShape [4, 10] []) (fun _ _ => true) sccIssue (sccOf {})
    ∧ ∀ a, aimOf ((sccOf {}).thread 65536) (scalar (sccOf {}) sccIssue 4) = some a → mayAim (sccOf {}) sccIssue a 0x458 = false := by
  refine ⟨by unfold runsNow; decide +kernel, fun a h => ?_⟩
  have : aimOf ((sccOf {}).thread 65536) (scalar (sccOf {}) sccIssue 4) = some ofTrapped := by decide +kernel
  rw [this] at h; cases h; decide +kernel

theorem witness_freeze : runsNow (windowShape [2] [8]) (fun _ _ => true) sccIssue (sccOf {}) ∧ plainGroup (sccOf {}) sccIssue
    ∧ ((sccOf {}).thread 65536).engine = .scc ∧ ((sccOf {}).cluster ((sccOf {}).thread 65536).cluster).relock = false
    ∧ ((sccOf {}).cluster ((sccOf {}).thread 65536).cluster).stretch = false :=
  ⟨by unfold runsNow; decide +kernel, plain_scc _, by decide +kernel, by decide +kernel, by decide +kernel⟩

/-- The state with an open launch, number 1, of context 0, and its cut. -/
def cutting (h : Hold) (x : Cut) : State := { withLaunch { open_ := true, total := 1 } h {} with sys := { cuts := [x] } }

theorem placed_launches (h : Hold) (x : Cut) : launchesPlaced ((cutting h x).ctx 0) := by
  refine ⟨rfl, fun i hi => ?_⟩
  by_cases h1 : i = 1
  · subst h1; exact ⟨rfl, rfl, by show 1 < 2 ^ 32; decide⟩
  · exact absurd hi (by simp [cutting, withLaunch, State.ctx, look, Ne.symm h1])

theorem witness_freeze_cut : let s := cutting .none { launch := 1 }
    s.sys.cuts[0]? = some { launch := 1 } ∧ ({ launch := 1 } : Cut).at_ ≤ s.sys.dt ∧ s.wf = true ∧ launchesPlaced (s.ctx 0) ∧ cutNames { launch := 1 } ((s.ctx 0).launch 1) := by
  refine ⟨by decide +kernel, by decide +kernel, by decide +kernel, placed_launches _ _, by unfold cutNames; decide +kernel⟩

/-- The same state with the launch frozen, and a core that it froze, whose warp is in an episode. -/
def thawing : State :=
  { threads := [(0, { warpOf 1 {} with episode := some { trigger := 9, shadow := (warpOf 1 {}).regs, groups := 3, lanesIn := 1 } }), (65536, stewardOf {})]
    ctxs := [(0, { live := true, steward := some 65536, lastLaunch := 1, nextLaunch := 2
                   launches := [(1, { open_ := true, total := 1, live := true, number := 1, frozen := true })] })]
    cores := [(0, { ckpt := some 0, freezes := [1] })], sys := { cuts := [{ launch := 1, thaw := true }] } }

theorem witness_freeze_cut_thaw : thawing.sys.cuts[0]? = some { launch := 1, thaw := true } ∧ 0 ≤ thawing.sys.dt ∧ thawing.wf = true
    ∧ launchesPlaced (thawing.ctx 0) ∧ cutNames { launch := 1, thaw := true } ((thawing.ctx 0).launch 1) ∧ coreFrozen thawing 0 = true
    ∧ (thawing.thread 0).episode ≠ none := by
  refine ⟨by decide +kernel, by decide, by decide +kernel, ⟨rfl, fun i hi => ?_⟩, by unfold cutNames; decide +kernel, by decide +kernel, by decide +kernel⟩
  by_cases h1 : i = 1
  · subst h1; exact ⟨rfl, rfl, by show 1 < 2 ^ 32; decide⟩
  · exact absurd hi (by simp [thawing, State.ctx, look, Ne.symm h1])

theorem witness_thaws : ∃ v : State, thaws { launch := 1, thaw := true } thawing v 0 :=
  ⟨{}, Or.inl (by decide +kernel), by decide +kernel, 1, by unfold cutNames; decide +kernel, by decide +kernel⟩

theorem witness_freeze_cut_held : let s := cutting (.cut 8 1) { launch := 1, id := 1 }
    ((s.thread 65536).lane 0).hold = .cut 8 1 ∧ (s.thread 65536).seq = none ∧ 0 < (s.thread 65536).width
      ∧ ∀ j sd', ((s.thread j).lane 0).hold = .cut sd' 1 → j = 65536 := by
  refine ⟨by decide +kernel, by decide +kernel, by decide +kernel, fun j sd' hj => ?_⟩
  by_contra hn
  exact absurd hj (by simp [cutting, withLaunch, State.thread, look, Ne.symm hn, Thread.lane])

theorem witness_core_frozen : let s : State := { cores := [(0, { freezes := [1] })]
                                                 ctxs := [(0, { live := true, launches := [(1, { live := true, number := 1, open_ := true, frozen := true })] })] }
    coreFrozen s 0 = true := by decide +kernel

theorem witness_halt : let f : FY := { fy with imm := 5 }
    f.imm.toNat % 256 ≠ 0 ∧ runsNow { engines := ctlEngines, level := .harbour } (fun _ _ => true) harbourIssue (harbourOf {})
      ∧ plainGroup (harbourOf {}) harbourIssue :=
  ⟨by decide +kernel, by unfold runsNow; decide +kernel, plain_of (by decide +kernel) (by decide +kernel) (by decide +kernel)⟩
/-! ### Scheduling and pre-emption -/

/-- Nine contexts of atoll 0 with live stewards, the first `k` of them active; context 8 takes a form. -/
def nine (k : Nat) (f : Ctx → Ctx) (start : Option Nat) : State :=
  { threads := (List.range 9).map fun n => (65536 + 8 * n, { stewardOf {} with ctx := n, core := n })
    ctxs := ((List.range 8).map fun n => (n, crowd n k)) ++ [(8, f (crowd 8 k))]
    atolls := [(0, { live := true, rotation := start })], sys := { dt := 10000000 } }
where
  /-- Context `n` of the nine. -/
  crowd (n k : Nat) : Ctx := { live := true, steward := some (65536 + 8 * n), home := n, active := decide (n < k), slice := 1000, image := 0x100000 }

theorem nine_class (k : Nat) (start : Option Nat) (n : Nat) : ((nine k id start).ctx n).tide.cls ≤ 3 := by
  have h : ∀ m : Sparse Ctx, (∀ e ∈ m, e.2.tide.cls ≤ 3) → (look {} m n).tide.cls ≤ 3 := by
    intro m hm
    induction m with
    | nil => exact (by decide : ({} : Ctx).tide.cls ≤ 3)
    | cons e m ih =>
      obtain ⟨i, c⟩ := e
      rw [look]
      split
      · exact hm (i, c) (by simp)
      · exact ih fun e he => hm e (by simp [he])
  refine h _ fun e he => ?_
  simp only [nine, List.mem_append, List.mem_map, List.mem_singleton] at he
  rcases he with ⟨i, _, rfl⟩ | rfl <;> exact (by decide : ({} : Tide).cls ≤ 3)

theorem witness_few_contexts : let s := tiding {} {} {}
    s.wf = true ∧ (runnables s 0).length ≤ 8 ∧ ((ctxsOf s 0).filter fun n => (s.ctx n).save != .saved).length ≤ 8
      ∧ ∀ n, ofAtoll s 0 n → (s.ctx n).save ≠ .saved ∧ (s.ctx n).save ≠ .restoring :=
  ⟨by decide +kernel, by decide +kernel, by decide +kernel, fun n h => by rw [only_context h]; decide +kernel⟩

theorem witness_slice_end : let s := nine 8 id (some 0)
    s.wf = true ∧ run [seatContexts 0] s = s ∧ (s.atoll 0).rotation = some 0 ∧ sliceOver s 0 0 = true ∧ Machine.waiting s 0 = [8]
      ∧ 8 ≤ activeCount s 0 ∧ (∀ n, ofAtoll s 0 n → (s.ctx n).tide.cls ≤ 3) ∧ (∃ n, ofAtoll s 0 n ∧ mayLeave s n = true) :=
  ⟨by decide +kernel, by decide +kernel, by decide +kernel, by decide +kernel, by decide +kernel, by decide +kernel, fun n _ => nine_class _ _ n,
    ⟨0, ⟨by decide +kernel, by decide +kernel⟩, by decide +kernel⟩⟩

theorem witness_free_place : let s := nine 7 id (some 0)
    s.wf = true ∧ run [seatContexts 0] s = s ∧ activeCount s 0 < 8 ∧ Machine.waiting s 0 = [7, 8] ∧ (s.ctx 7).save ≠ .saved
      ∧ (s.ctx 7).waitFrom = (s.ctx 8).waitFrom ∧ (s.ctx 7).tide.cls = (s.ctx 8).tide.cls := by decide +kernel

/-- Two contexts of atoll 0, one active and one saved, its image sealed or not. -/
def oneSaved (valid : Byte) : State :=
  { threads := [(65536, stewardOf {})]
    ctxs := [(0, { live := true, active := true, steward := some 65536 }), (8, { live := true, active := false, home := 8, save := .saved, saveTo := 0x100000 })]
    mem := if valid = 0 then [] else [(0x100010, valid)] }

theorem witness_free_place_saved : let s := oneSaved 1
    s.wf = true ∧ run [seatContexts 0] s = s ∧ activeCount s 0 < 8 ∧ Machine.waiting s 0 = [8] ∧ (s.ctx 8).save = .saved
      ∧ (s.ctx 8).steward = none ∧ (imageWord s (s.ctx 8).saveTo 16).toNat % 2 = 1 ∧ hostAssisted s 0 5 = false
      ∧ handlerWaits s (s.ctx 8).home = false ∧ freeSccSlot s 8 7 = some 0 := by decide +kernel

theorem witness_free_place_unsealed : (imageWord (oneSaved 0) ((oneSaved 0).ctx 8).saveTo 16).toNat % 2 = 0 := by decide +kernel

theorem witness_no_reopening : noReopening (oneSaved 1) ((oneSaved 1).ctx 8).saveTo :=
  (by decide +kernel : ∀ h, h < 64 → (imageWord (oneSaved 1) 0x100000 (0xE00 + 32 * h)).toNat % 256 ≠ 1)

/-- A warp with three groups of one lane, the last starved, and its launch with forward progress. -/
def starved : State :=
  { threads := [(0, { warpOf 3 {} with launch := 1, regs := { em := 7, lanes := [(0, atEight), (1, { atEight with pc := 16 }), (2, { atEight with pc := 24, starve := 256 })] } })]
    ctxs := [(0, { live := true, launches := [(1, { live := true, number := 1, open_ := true, ops := [0, 0, 0, 0, 0x10000000] })] })]
    clusters := [(0, { gated := false })] }

theorem witness_starvation : let s := starved
    ∃ gs f, coreBlocked s 0 = false ∧ oldest s ((readyWarps s 0 [(0, 8), (0, 16), (0, 24)]).map Prod.fst) = some 0
      ∧ (readyWarps s 0 [(0, 8), (0, 16), (0, 24)]).find? (fun w => w.1 == 0) = some (0, gs) ∧ forwardProgress s 0 = true
      ∧ forced (readyBeside (sortGroups Group.before gs)) = some f :=
  ⟨_, _, by decide +kernel, by decide +kernel, rfl, by decide +kernel, rfl⟩

theorem witness_preemption_request : let s := hosted { save := .chosen }
    (s.ctx 0).live = true ∧ (s.ctx 0).save = .chosen ∧ (∀ k, (s.thread k).ctx = 0 → (s.thread k).episode = none) ∧ s.wf = true :=
  ⟨by decide +kernel, by decide +kernel, fun _ _ => rfl, by decide +kernel⟩

/-- A context, 0, with its steward, one held row and a save to 1 MiB. -/
def saving (x : Save) (rows : Sparse Row) (t : Option Nat) : State :=
  { threads := [(65536, stewardOf {})]
    ctxs := [(0, { live := true, steward := some 65536, save := x, saveTo := 0x100000, saveDl := 100, rows, saveCmd := t })] }

theorem saving_boundary (x : Save) (rows : Sparse Row) (t : Option Nat) : atBoundary (saving x rows t) 0 := by
  intro k hk
  have : k = 65536 := by simpa [saving, State.ctx, look] using hk.symm
  subst this
  exact ⟨rfl, rfl, rfl, Or.inl rfl⟩

theorem witness_context_save : let s := saving (.asked 0) [(3, { state := .held, pa := 0x400 })] none
    s.wf = true ∧ tidy (s.ctx 0) ∧ (s.ctx 0).save = .asked 0 ∧ s.wgs = [] ∧ (∀ k t, (k, t) ∈ s.threads → t.ctx = 0 → t.level ≠ .handler)
      ∧ atBoundary s 0 ∧ (s.ctx 0).saveTo ≠ 0 ∧ s.sys.dt < 0 + 1000 * (s.ctx 0).saveDl ∧ (look {} (s.ctx 0).rows 3).state = .held := by
  refine ⟨by decide +kernel, by unfold tidy; decide +kernel, by decide +kernel, rfl, fun k t hk _ => ?_, saving_boundary _ _ _, by decide +kernel,
    by decide +kernel, by decide +kernel⟩
  have : t = stewardOf {} := by simp [saving] at hk; exact hk.2
  rw [this]; decide

theorem witness_image_written : let s := saving (.writing 0) [] (some 5)
    s.wf = true ∧ tidy (s.ctx 0) ∧ (s.ctx 0).save = .writing 0 ∧ hostAssisted s (s.ctx 0).atoll 5 = false
      ∧ (opsOf s 65536 = [] ∧ (s.thread 65536).cntC = 0) ∧ s.fl.copies = [] ∧ s.sys.closing = [] ∧ s.sys.migrations = []
      ∧ s.sys.dt < 0 + 1000 * (s.die (dieOfCluster (s.ctx 0).home)).saveto := by
  unfold tidy; decide +kernel

theorem witness_save_deadline : let s := { saving (.asked 0) [] (some 5) with sys := { dt := 100000 } }
    s.wf = true ∧ tidy (s.ctx 0) ∧ (s.ctx 0).save = .asked 0 ∧ 0 + 1000 * (s.ctx 0).saveDl ≤ s.sys.dt ∧ (s.ctx 0).live = true := by
  unfold tidy; decide +kernel

theorem witness_save_watchdog : let s := { saving (.writing 0) [] (some 5) with sys := { dt := 100000000000 } }
    s.wf = true ∧ tidy (s.ctx 0) ∧ (s.ctx 0).save = .writing 0 ∧ 0 + 1000 * (s.die (dieOfCluster (s.ctx 0).home)).saveto ≤ s.sys.dt
      ∧ (s.ctx 0).live = true := by unfold tidy; decide +kernel
/-! ### Power -/

/-- Cluster 5 in a state, at device time `dt`. -/
def clustered (c : Cluster) (dt : Nat) : State := { clusters := [(5, c)], sys := { dt } }

theorem clustered_class (c : Cluster) (dt n : Nat) : ((clustered c dt).ctx n).tide.cls ≤ 3 := (by decide : ({} : Tide).cls ≤ 3)

theorem clustered_idle (c : Cluster) (dt : Nat) : isIdle (clustered c dt) 5 := ⟨fun _ _ h => absurd h (by simp [clustered]), fun _ _ => rfl⟩

theorem witness_sag_clear : ((clustered { stretch := true } 0).cluster 5).stretch = true := by decide

theorem witness_throttle_up : let s := clustered { throt := 14 } 10000
    s.wf = true ∧ (∀ n, (s.ctx n).tide.cls ≤ 3) ∧ (∃ t ∈ [80, 95], (s.die (dieOfCluster 5)).thot ≤ t) ∧ (s.cluster 5).throt < 15 ∧ (s.cluster 5).throtAt + 10000 ≤ s.sys.dt :=
  ⟨by decide +kernel, clustered_class _ _, by decide +kernel, by decide +kernel, by decide +kernel⟩

theorem witness_throttle_down : let s := clustered { throt := 1 } 100000
    s.wf = true ∧ (∀ n, (s.ctx n).tide.cls ≤ 3) ∧ (∀ t ∈ [90, 80], t < (s.die (dieOfCluster 5)).thot ∧ t ≤ (s.die (dieOfCluster 5)).tlow) ∧ 0 < (s.cluster 5).throt
      ∧ (s.cluster 5).throtAt + 100000 ≤ s.sys.dt :=
  ⟨by decide +kernel, clustered_class _ _, by decide +kernel, by decide +kernel, by decide +kernel⟩

theorem witness_throttle_stays : let s := clustered {} 0
    ((∀ t ∈ [80, 92], t < (s.die (dieOfCluster 5)).thot) → ∃ t ∈ [80, 92], (s.die (dieOfCluster 5)).tlow < t)
      ∧ ((∃ t ∈ [80, 92], (s.die (dieOfCluster 5)).thot ≤ t) → (s.cluster 5).throt = 15) := by decide +kernel

theorem witness_tcrit : (({} : State).die 3).tcrit ≤ 115 ∧ 100 < (({} : State).die 3).tcrit
    ∧ (({ dies := [(3, { fw := { state := 3 } })] } : State).die 3).handover = true := by decide

theorem witness_gate : let s := clustered { gated := false, idleFrom := some 0 } 10000
    (s.cluster 5).gated = false ∧ isIdle s 5 ∧ (s.cluster 5).idleFrom = some 0 ∧ 0 + 10000 ≤ s.sys.dt :=
  ⟨by decide +kernel, clustered_idle _ _, by decide +kernel, by decide +kernel⟩

theorem witness_gate_begins : let s := clustered { gated := false } 10000
    (s.cluster 5).gated = false ∧ isIdle s 5 ∧ (s.cluster 5).idleFrom = none := ⟨by decide +kernel, clustered_idle _ _, by decide +kernel⟩

theorem witness_ungate : let s := clustered { wake := 10000 } 10000
    (s.cluster 5).gated = true ∧ (s.cluster 5).wake ≠ 0 ∧ (s.cluster 5).wake ≤ s.sys.dt := by decide +kernel

/-- Atoll 0 alone, in a package. -/
def tokened (a : Atoll) (y : Sys) : State := { atolls := [(0, { a with live := true })], sys := y }

theorem witness_token_interval : let s := tokened {} { dt := 64000 }
    s.sys.intervalEnd ≤ s.sys.dt ∧ (s.die 0).restart = false ∧ tokensByHost s = false := by decide +kernel

theorem witness_token_interval_host : let s := tokened {} { dt := 64000, atollmode := [(0, 8)] }
    s.sys.intervalEnd ≤ s.sys.dt ∧ (s.die 0).restart = false ∧ tokensByHost s = true := by decide +kernel

theorem witness_token_fallback : let s := tokened {} { dry := 10, nextBudget := 500 }
    tokensByHost s = false ∧ 10 ≤ s.sys.dry ∧ s.sys.granted = false ∧ s.sys.nextBudget ≠ 336 := by decide +kernel

theorem witness_token_share : let s := tokened { clusters := 0xFFFF } {}
    s.wf = true ∧ (s.atoll 0).live = true ∧ ∀ i, (s.atoll i).live = true → i < 8 ∧ (s.atoll i).clusters < 2 ^ 48 := by
  refine ⟨by decide +kernel, by decide +kernel, fun i hi => ?_⟩
  by_cases h : i = 0
  · subst h; decide +kernel
  · exact absurd hi (by simp [tokened, State.atoll, look, Ne.symm h])

/-! ### Maintenance -/

/-- A channel number is one of 1,536, whatever the map. -/
theorem channel_bound (s : State) (pa : Nat) : channelAt s pa < 1536 := by
  have h1 : ∀ line k, channelTry line k < 1536 := by
    intro line k
    simp only [channelTry]
    split <;> omega
  have h2 : ∀ line fuel k, channelFrom s line fuel k < 1536 := by
    intro line fuel
    induction fuel with
    | zero => exact fun k => h1 _ _
    | succ f ih => intro k; simp only [channelFrom]; split <;> [exact ih _; exact h1 _ _]
  exact h2 _ _ _

/-- Tables of context 0 with their root at 16 × b × 64 KiB that map page 0 to the frame four further. -/
def movable (b : Nat) : State :=
  let at_ := fun i => 0x100000 * b + 65536 * i
  { mem := [(at_ 0, 1), (at_ 0 + 2, BitVec.ofNat 8 (16 * b + 1)), (at_ 1, 1), (at_ 1 + 2, BitVec.ofNat 8 (16 * b + 2)),
            (at_ 2, 1), (at_ 2 + 2, BitVec.ofNat 8 (16 * b + 3)), (at_ 3, 0xCF), (at_ 3 + 2, BitVec.ofNat 8 (16 * b + 4))]
    ctxs := [(0, { live := true, xroot := at_ 0 })], atolls := [(0, { live := true, groups := 0xFFFFFFFFFFFF })] }

theorem all_owned {s : State} (h : s.atolls = (movable 0).atolls) (pa : Nat) : ownedBy s 0 pa = true := by
  have hg : ∀ n, n < 48 → has (0xFFFFFFFFFFFF : Nat) n = true := by decide +kernel
  have ha : (s.atoll 0).groups = 0xFFFFFFFFFFFF := by rw [State.atoll, h]; rfl
  rw [ownedBy, ha]
  exact hg _ (by have := channel_bound s pa; omega)

theorem movable_empty (b new : Nat) (h2 : new + 65536 ≤ 0x100000 * b ∨ 0x100000 * b + 0x50000 ≤ new) :
    ((movable b).mem.any fun e => decide (new ≤ e.1) && decide (e.1 < new + 65536)) = false := by
  rw [List.any_eq_false]
  intro e he
  have : 0x100000 * b ≤ e.1 ∧ e.1 < 0x100000 * b + 0x40000 := by
    simp only [movable, List.mem_cons, List.not_mem_nil, or_false] at he
    rcases he with h | h | h | h | h | h | h | h <;> subst h <;> constructor <;> simp <;> omega
  simp only [Bool.and_eq_true, decide_eq_true_eq]
  omega

theorem movable_takes {s : State} (b new : Nat) (hm : s.mem = (movable b).mem) (ha : s.atolls = (movable 0).atolls) (hs : s.sys.migrations = [])
    (hc : s.sys.channels = [])
    (h0 : new % 65536 = 0) (h1 : new + 65536 ≤ harbourBase) (h2 : new + 65536 ≤ 0x100000 * b ∨ 0x100000 * b + 0x50000 ≤ new) :
    takesPage s 0 new (0x100000 * b + 65536 * 4) 65536 = true := by
  have hn : meets new (0x100000 * b + 65536 * 4) 65536 = false := by
    simp only [meets, Bool.and_eq_false_iff, decide_eq_false_iff_not]; omega
  have ho : (List.range (65536 / 1024)).all (fun i => ownedBy s 0 (new + 1024 * i)
      && look .serving s.sys.channels (channelAt s (new + 1024 * i)) == .serving) = true :=
    List.all_eq_true.mpr fun i _ => by rw [all_owned ha, hc]; rfl
  rw [takesPage, hn, ho, hm, movable_empty b new h2, hs]
  simp [h0, h1]

theorem witness_page_migration : ∃ b x new, chooseMove (movable b) 0 false = some (x, new) ∧ ((movable b).migration 0).live = false := by
  have hb : ∀ b, b < 3 → b ≠ 0 → leafOf (movable b) 0 0 = some { old := 0x100000 * b + 65536 * 4, size := 65536, leafAt := 0x100000 * b + 65536 * 3 } := by
    intro b h h'
    interval_cases b
    · exact absurd rfl h'
    · decide +kernel
    · decide +kernel
  have go : ∀ b, b < 3 → b ≠ 0 → (freshFrame (movable b) 65536 + 65536 ≤ 0x100000 * b ∨ 0x100000 * b + 0x50000 ≤ freshFrame (movable b) 65536) →
      ∃ x new, chooseMove (movable b) 0 false = some (x, new) := by
    intro b h h' hf
    refine ⟨{ old := 0x100000 * b + 65536 * 4, size := 65536, leafAt := 0x100000 * b + 65536 * 3 }, freshFrame (movable b) 65536, ?_⟩
    have hl := hb b h h'
    have ht := movable_takes (s := movable b) b (freshFrame (movable b) 65536) rfl rfl rfl rfl (by simp [freshFrame]) (by simp only [freshFrame, harbourBase]; omega) hf
    have hlive : ((movable b).ctx 0).live = true := rfl
    have hh : hostAssisted (movable b) 0 1 = false := by simp [hostAssisted, movable, look, has]
    have hs : ∀ o n, sharers (movable b) o n = 0 := fun o n => by simp [sharers, movable, distinct]
    have hat : ((movable b).ctx 0).atoll = 0 := rfl
    have hp : ∀ o n, pinned (movable b) o n = false := fun o n => rfl
    have hi : ∀ o n, inMove (movable b) o n = false := fun o n => rfl
    simp only [chooseMove, Nat.zero_div, Nat.zero_mod, Nat.zero_mul, hlive, hl, hat, hh, hp, hi, ht, hs]
    rfl
  have he : freshFrame (movable 2) 65536 = freshFrame (movable 1) 65536 := rfl
  by_cases hf : freshFrame (movable 1) 65536 + 65536 ≤ 0x100000 * 1 ∨ 0x100000 * 1 + 0x50000 ≤ freshFrame (movable 1) 65536
  · obtain ⟨x, new, h⟩ := go 1 (by decide) (by decide) hf
    exact ⟨1, x, new, h, rfl⟩
  · obtain ⟨x, new, h⟩ := go 2 (by decide) (by decide) (by omega)
    exact ⟨2, x, new, h, rfl⟩

/-- A state with one move under way. -/
def moving (m : Migration) : State := { mem := [(0x30000, 0xCF), (0x30002, 4)], sys := { migrations := [(0, { m with live := true })] } }

/-- From frame 0x40000 to frame 0x80000. -/
def aMove : Migration := { old := 0x40000, new := 0x80000, leafAt := 0x30000, dirty := [0x401] }

theorem sound_aMove : soundMove aMove := by unfold soundMove; decide

theorem witness_migration_round : let m := { aMove with dirty := (List.range 64).map (0x400 + ·) }
    ((moving m).migration 0).live = true ∧ m.optimistic = false ∧ m.written = false ∧ m.held = false ∧ soundMove m ∧ 64 ≤ m.dirty.length ∧ m.rounds < 8 := by
  unfold soundMove; decide +kernel

theorem witness_migration_hold : aMove.dirty.length < 64 ∧ pinned (moving aMove) aMove.old aMove.size = false ∧ ((moving aMove).migration 0).live = true := by
  decide +kernel

theorem witness_migration_pinned : let s : State := { moving aMove with sys := { (moving aMove).sys with closing := [(0x40400, 0)] } }
    pinned s aMove.old aMove.size = true := by decide +kernel

theorem witness_migration_leaf : let m := { aMove with held := true, cmd := some 4, live := true }
    (moving m).migration 0 = m ∧ m.optimistic = false ∧ m.written = false ∧ soundMove m ∧ mapsOld (moving m) m
      ∧ (∀ i, i < m.size → (m.new + i < forward (moving m) .dev m.leafAt ∨ forward (moving m) .dev m.leafAt + 8 ≤ m.new + i))
      ∧ ∀ i, i < m.size → (m.old + i < forward (moving m) .dev m.leafAt ∨ forward (moving m) .dev m.leafAt + 8 ≤ m.old + i) := by
  have hf : forward (moving { aMove with held := true, cmd := some 4, live := true }) .dev 0x30000 = 0x30000 := by decide +kernel
  refine ⟨by decide +kernel, rfl, rfl, by unfold soundMove; decide, by unfold mapsOld; decide +kernel, fun i _ => ?_, fun i _ => ?_⟩
  · show 0x80000 + i < forward _ .dev 0x30000 ∨ forward _ .dev 0x30000 + 8 ≤ 0x80000 + i; rw [hf]; omega
  · show 0x40000 + i < forward _ .dev 0x30000 ∨ forward _ .dev 0x30000 + 8 ≤ 0x40000 + i; rw [hf]; omega

theorem witness_optimistic_leaf : let m := { aMove with optimistic := true, dirty := [], live := true }
    (moving m).migration 0 = m ∧ m.written = false ∧ pinned (moving m) m.old m.size = false ∧ versionOf (moving m) m = m.version ∧ mapsOld (moving m) m
      ∧ m.new % 2 ^ 16 = 0 ∧ m.new < 2 ^ 48 := by unfold mapsOld; decide +kernel

theorem witness_optimistic_abandoned : let m := { aMove with optimistic := true, version := 1 }
    pinned (moving m) m.old m.size = false ∧ versionOf (moving m) m ≠ m.version := by decide +kernel

theorem witness_old_frame_free : let s := moving { aMove with written := true }
    (s.migration 0).live = true ∧ (s.migration 0).written = true ∧ (s.migration 0).until_ ≤ s.sys.dt ∧ soundMove (s.migration 0) := by
  unfold soundMove; decide +kernel

theorem witness_old_frame_waits : let s := moving { aMove with written := true, until_ := 5 }
    (s.migration 0).live = true ∧ (s.migration 0).written = true ∧ s.sys.dt < (s.migration 0).until_ := by decide +kernel

theorem witness_moves_apart (m : Migration) : movesApart (moving m) 0 := by
  refine ⟨by simp [moving, sparseWf, wfFrom], fun p e h _ hp => ?_⟩
  simp [moving] at h
  exact absurd h.1 hp

theorem witness_channels : look Channel.serving ({} : Sys).channels 7 = .serving
    ∧ look Channel.serving ({ channels := [(7, .draining)] } : Sys).channels 7 = .draining
    ∧ look Channel.serving ({ channels := [(7, .moving)] } : Sys).channels 7 = .moving := by decide

theorem witness_channel_move : let s : State := { sys := { channels := [(7, .draining)] } }
    s.sys.closing = [] ∧ (∀ c h, (look {} (s.ctx c).rows h).state ≠ .held) ∧ s.wf = true ∧ s.ctxs = [] ∧ s.sys.migrations = [] ∧ ¬ hasPageOn s 7 :=
  ⟨rfl, fun _ _ => by simp [State.ctx, look], by decide +kernel, rfl, rfl, fun ⟨_, _, h, _⟩ => by simp at h⟩

theorem witness_channel_stays : ∃ n, hasPageOn (movable 1) n := by
  refine ⟨channelAt (movable 1) (0x100000 * 1 + 65536 * 4 + 1024 * 0), 0, _, List.mem_singleton.mpr rfl, rfl, (0x100000 * 1 + 65536 * 4, 65536), ?_, 0, by decide, rfl⟩
  decide +kernel

theorem witness_self_refresh : (11 : Nat) ∉ ({} : Sys).selfRef ∧ stackBusy {} 11 = false ∧ (11 : Nat) ∈ ({ selfRef := [11] } : Sys).selfRef := by decide

theorem witness_scrub : atRowBuffer (rowed .held {}) 0 = false ∧ atRowBuffer { sys := { closing := [(0x40000, 0)] } } 0x40010 = true := by decide +kernel

theorem witness_checkpoint_lost : let s := ahead
    ∃ k e, (s.core 0).ckpt = some k ∧ (s.thread k).episode = some e := ⟨_, _, rfl, rfl⟩

theorem witness_pair_mismatch : ({} : State).wf = true ∧ ∀ t, (({} : State).die 3).mismatchAt = some t → t + 1000000000 < ({} : State).sys.dt :=
  ⟨by decide +kernel, fun t h => by simp [State.die, look] at h⟩

theorem witness_pair_mismatch_again : let s : State := { dies := [(3, { mismatchAt := some 5 })], sys := { dt := 1000000005 } }
    (s.die 3).mismatchAt = some 5 ∧ s.sys.dt ≤ 5 + 1000000000 := by decide +kernel

theorem witness_pair_restart : let s : State := { dies := [(3, { restart := true })], fl := { faults := [(1, { live := true, die := 3, miss := { stage2 := true } })] } }
    (s.die 3).restart = true ∧ waitsFor { live := true, die := 3, miss := { stage2 := true } } 3 ∧ s.sys.asks = []
      ∧ hostAssisted s 0 0 = false := by unfold waitsFor; decide +kernel

theorem witness_pair_restart_host : let s : State := { sys := { atollmode := [(0, 1)] } }
    hostAssisted s 0 0 = true ∧ (s.die 3).handover = false := by decide +kernel

theorem witness_pair_restart_quiet : let s : State := { dies := [(3, { restart := true })] }
    (s.die 3).restart = true ∧ s.fl.faults = [] := by decide

theorem witness_die_message : (1 : Nat) < 4 ∧ (3 : Nat) < 4 ∧ (1 : Nat) ≠ 3 := by decide

theorem witness_liveness : let s : State := { sys := { dt := 10000000 } }
    (s.die 3).kickAt + 1000 * (s.die 3).kickto ≤ s.dtAt 3 ∧ (s.die 3).kicked = false ∧ sleepsOn s 3 0 :=
  ⟨by decide +kernel, by decide +kernel, fun mask h => by simp [State.thread, look, Thread.lane] at h⟩

theorem witness_liveness_again : let s : State := { dies := [(3, { kicked := true })], sys := { dt := 10000000 } }
    (s.die 3).kickAt + 1000 * (s.die 3).kickto ≤ s.dtAt 3 ∧ (s.die 3).kicked = true := by decide +kernel

theorem witness_tthresh : (90 < 95 ∧ 95 < 115 ∧ 115 ≤ 115) ∧ (0x735F5A % 2 ^ 8 = 90 ∧ 0x735F5A / 2 ^ 8 % 2 ^ 8 = 95 ∧ 0x735F5A / 2 ^ 16 % 2 ^ 8 = 115) := by decide

theorem witness_htimer : let s : State := { dies := [(3, { htimer := [(4, 50)] })], sys := { dt := 50 } }
    look 0 (s.die 3).htimer 4 ≠ 0 ∧ look 0 (s.die 3).htimer 4 ≤ s.dtAt 3 ∧ 4 ∉ (s.die 3).rung ∧ sleepsOn s 3 4 :=
  ⟨by decide +kernel, by decide +kernel, by decide +kernel, fun mask h => by simp [State.thread, look, Thread.lane] at h⟩

theorem witness_interrupt_wakes : let s := { harbourOf {} with threads := [(98304, { live := true, engine := .harbour, level := .harbour
                                                                                     regs := { em := 1, lanes := [(0, { atEight with hold := .halt 8 })] } })] }
    let k := harbourKey 0 0
    ((s.thread k).lane 0).hold = .halt 8 ∧ (8 : Nat).testBit 3 = true ∧ (s.thread k).seq = none ∧ 0 < (s.thread k).width ∧ (s.thread k).die = 0
      ∧ (s.thread k).core % 8 = 0 := by decide +kernel

theorem witness_sensor : sensorDie 0x170 = some 0 ∧ sensorDie 0x163 = some 3 ∧ (({} : State).die 3).handover = false := by decide +kernel

end Sys2Proof.Tests
end

