-- ==== Sys2Proof/Tests/CommandWitnesses.lean ====
section
/-! SUPPORT. States and operands that meet the hypotheses of the statements: commands, updates, attestation, resets and
decoding. -/

namespace Sys2Proof.Tests

set_option Elab.async false

open Sys2Proof Sys2Proof.Machine Sys2Proof.Safety Sys2Proof.Claims

/-! ### Commands -/

/-- A state with one command on the ring. -/
def commanded (c : Cmd) (s : State) : State :=
  { s with sys := { s.sys with svcpi := 1, svcci := 0, cmds := (c.zipIdx.map fun w => (w.2, w.1)).filter fun w => w.2 != 0 } }

/-- A command can be taken: everything that `commandTaken` asks for. -/
def takes (s : State) (c : Cmd) : Bool :=
  !s.sys.recovery && !(s.die 0).handover && decide (s.sys.deferred = []) && decide (s.sys.nextCmd = some c) && c.wellFormed
    && c.names.all fun x => !x.busy s

theorem taken_of {s : State} {c : Cmd} (h : takes s c = true) : commandTaken s c := by
  simp only [takes, Bool.and_eq_true, Bool.not_eq_true', decide_eq_true_eq, List.all_eq_true] at h
  obtain ⟨⟨⟨⟨⟨h1, h2⟩, h3⟩, h4⟩, h5⟩, h6⟩ := h
  exact ⟨h1, h2, h3, h4, h5, h6⟩

/-- ATOLL_CREATE of atoll 1 with cluster 0 and group 0, period 64 µs and slew 1. -/
def createAtoll : Cmd := [0x00010001, 1, 1, 0, 1, 0, 0x10040, 0]

theorem witness_unknown_command : let c : Cmd := [0x00010003, 0, 0, 0, 0, 0, 0, 0]
    let s := commanded c {}
    s.sys.recovery = false ∧ (s.die 0).handover = false ∧ s.sys.nextCmd = some c ∧ c.wellFormed = false ∧ c.op ∉ [0x01, 0x02] := by decide +kernel

theorem not_owned {c : Cmd} {s : State} (h : s.atolls = []) : ¬ ownedByAnother s c := by
  rintro ⟨a, ha, -⟩
  simp [State.atoll, h, look] at ha

theorem witness_atoll_create : commandTaken (commanded createAtoll {}) createAtoll ∧ createAtoll.op = 0x01 ∧ (commanded createAtoll {}).wf = true
    ∧ ((commanded createAtoll {}).atoll (bits createAtoll 1 2 0)).live = false ∧ ¬ ownedByAnother (commanded createAtoll {}) createAtoll
    ∧ ¬ (createAtoll.word 2 = 0 ∨ bits createAtoll 6 10 0 < 16 ∨ 1024 < bits createAtoll 6 10 0 ∨ bits createAtoll 6 23 16 = 0) :=
  ⟨taken_of (by decide +kernel), by decide +kernel, by decide +kernel, by decide +kernel, not_owned rfl, by decide +kernel⟩

theorem witness_atoll_create_again : let s := commanded createAtoll { atolls := [(1, { live := true })] }
    commandTaken s createAtoll ∧ (s.atoll (bits createAtoll 1 2 0)).live = true := ⟨taken_of (by decide +kernel), by decide +kernel⟩

theorem witness_atoll_create_owned : let s := commanded createAtoll { atolls := [(0, { live := true, clusters := 1 })] }
    commandTaken s createAtoll ∧ (s.atoll (bits createAtoll 1 2 0)).live = false ∧ ownedByAnother s createAtoll :=
  ⟨taken_of (by decide +kernel), by decide +kernel, ⟨0, by decide +kernel, 0, by decide +kernel⟩⟩

theorem witness_atoll_create_bad : let c : Cmd := [0x00010001, 1, 0, 0, 0, 0, 0x10040, 0]
    commandTaken (commanded c {}) c ∧ ((commanded c {}).atoll (bits c 1 2 0)).live = false ∧ ¬ ownedByAnother (commanded c {}) c ∧ c.word 2 = 0 :=
  ⟨taken_of (by decide +kernel), by decide +kernel, not_owned rfl, by decide +kernel⟩

/-- ATOLL_DESTROY of atoll 1. -/
def destroyAtoll : Cmd := [0x00010002, 1, 0, 0, 0, 0, 0, 0]

theorem witness_atoll_destroy : let s := commanded destroyAtoll { atolls := [(1, { live := true, clusters := 1 })] }
    commandTaken s destroyAtoll ∧ destroyAtoll.op = 0x02 ∧ s.wf = true ∧ (s.atoll (destroyAtoll.word 1).toNat).live = true
      ∧ ∀ n, ¬ ofAtoll s (destroyAtoll.word 1).toNat n :=
  ⟨taken_of (by decide +kernel), by decide +kernel, by decide +kernel, by decide +kernel, fun n h => by simp [ofAtoll, commanded, State.ctx, look] at h⟩

theorem witness_atoll_destroy_refused : commandTaken (commanded destroyAtoll {}) destroyAtoll
    ∧ ((commanded destroyAtoll {}).atoll (destroyAtoll.word 1).toNat).live = false := ⟨taken_of (by decide +kernel), by decide +kernel⟩

theorem witness_atoll_destroy_used : let s := commanded destroyAtoll { ctxs := [(0, { live := true, atoll := 1 })], atolls := [(1, { live := true })] }
    commandTaken s destroyAtoll ∧ (s.atoll (destroyAtoll.word 1).toNat).live = true ∧ ofAtoll s (destroyAtoll.word 1).toNat 0 :=
  ⟨taken_of (by decide +kernel), by decide +kernel, ⟨by decide +kernel, by decide +kernel⟩⟩

/-- CTX_CREATE for the PF on atoll 0 and cluster 2, its steward entered at 0x1000. -/
def createCtx : Cmd := [0x00020010, 0x02000000, 0x1000, 0, 0, 0, 0, 0]

/-- A package where it can be placed. -/
def hosting : State := { atolls := [(0, { live := true, clusters := 4 })], sys := { fncfg := [(0, 1)] } }

theorem no_place_fault {s : State} {c : Cmd} (hb : 48 ≤ bits c 1 29 24 ∨ (bits c 1 5 0 = 0 ∧ c.word 5 ≠ 0) → False) (ha : (s.atoll (bits c 1 18 16)).live = true)
    (hh : (s.atoll (bits c 1 18 16)).clusters.testBit (bits c 1 29 24) = true) (hf : (look 0 s.sys.fncfg (bits c 1 5 0)).getLsbD 0 = true)
    (hc : s.ctxs = []) (code : Int) : ¬ placeFault s c code := by
  rintro (⟨-, h⟩ | ⟨-, -, h⟩ | ⟨-, -, -, h⟩)
  · exact hb h
  · rw [ha, hh, hf] at h; simp at h
  · rcases h with h | ⟨m, h, -⟩ | h
    · simp [hc] at h
    · simp [State.ctx, hc, look] at h
    · simp [stewardsAt, hc, keysOf] at h

theorem witness_ctx_create : let s := commanded createCtx hosting
    commandTaken s createCtx ∧ createCtx.op = 0x10 ∧ s.wf = true ∧ (createCtx.word 2).toNat < 2 ^ 56 ∧ (∀ code, ¬ placeFault s createCtx code)
      ∧ lowestFree s 0 ∧ seat s (bits createCtx 1 29 24) 0 :=
  ⟨taken_of (by decide +kernel), by decide +kernel, by decide +kernel, by decide +kernel,
    no_place_fault (by decide +kernel) (by decide +kernel) (by decide +kernel) (by decide +kernel) rfl,
    ⟨by decide, by decide +kernel, fun m h => absurd h (by omega)⟩, ⟨by decide +kernel, by decide +kernel⟩⟩

/-- A record that waits for a handler of an SCC whose places are taken. -/
def handlerAwaited (c : Cmd) : State :=
  commanded c { hosting with
    threads := (List.range 8).map fun i => (sccKey 2 i, { stewardOf {} with level := .handler, core := 2, slot := i, ctx := 9 })
    ctxs := [(9, { live := true, trapvec := 0x1000, fn := 1 })]
    fl := { next := 2, traps := [(1, { live := true, ctx := 9, lanes := 1, cluster := 2 })] } }

theorem witness_ctx_create_waits : commandTaken (handlerAwaited createCtx) createCtx ∧ handlerWaits (handlerAwaited createCtx) (bits createCtx 1 29 24) = true :=
  ⟨taken_of (by decide +kernel), by decide +kernel⟩

theorem witness_ctx_create_entry : let c : Cmd := [0x00020010, 0x02000000, 0x100000000000000, 0, 0, 0, 0, 0]
    commandTaken (commanded c {}) c ∧ 2 ^ 56 ≤ (c.word 2).toNat := ⟨taken_of (by decide +kernel), by decide +kernel⟩

theorem witness_ctx_create_state : commandTaken (commanded createCtx {}) createCtx ∧ placeFault (commanded createCtx {}) createCtx (-5) :=
  ⟨taken_of (by decide +kernel), Or.inr (Or.inl ⟨rfl, by decide +kernel, Or.inl (by decide +kernel)⟩)⟩

/-- The state with one context, 0, and one command. -/
def withContext (c : Cmd) (x : Ctx) : State := commanded c { hosting with ctxs := [(0, { x with live := true, home := 2 })] }

theorem with_context (c : Cmd) (x : Ctx) : exists_ (withContext c x) 0 := ⟨by decide, rfl⟩

theorem without_context (c : Cmd) (n : Nat) : ¬ exists_ (commanded c {}) n := fun h => by simp [exists_, commanded, State.ctx, look] at h

/-- STEWARD_START of context 0 at 0x1000 with argument 7. -/
def startSteward : Cmd := [0x00030015, 0, 0x1000, 7, 0, 0, 0, 0]

theorem witness_steward_start : let s := withContext startSteward {}
    commandTaken s startSteward ∧ startSteward.op = 0x15 ∧ s.wf = true ∧ exists_ s 0 ∧ (s.ctx 0).steward = none ∧ ¬ stewardSaved s 0
      ∧ (startSteward.word 2).toNat < 2 ^ 56 ∧ stewardsAt s (s.ctx 0).home none < 7 ∧ seat s (s.ctx 0).home 0 :=
  ⟨taken_of (by decide +kernel), by decide +kernel, by decide +kernel, with_context _ _, by decide +kernel, fun h => absurd h.1 (by decide +kernel),
    by decide +kernel, by decide +kernel, ⟨by decide +kernel, by decide +kernel⟩⟩

theorem witness_steward_start_saved : let s := withContext startSteward { save := .saved, saveTo := 0x200000 }
    exists_ s 0 ∧ (s.ctx 0).steward = none ∧ ¬ stewardSaved s 0 ∧ (s.ctx 0).save = .saved
      ∧ stewardSaved { s with mem := [(0x2003F0, 1)] } 0 :=
  ⟨with_context _ _, by decide +kernel, by unfold stewardSaved; decide +kernel, by decide +kernel, by unfold stewardSaved; decide +kernel⟩

theorem witness_steward_start_refused : commandTaken (commanded startSteward {}) startSteward ∧ ¬ exists_ (commanded startSteward {}) 0
    ∧ ((withContext startSteward { steward := some 65552 }).ctx 0).steward ≠ none := ⟨taken_of (by decide +kernel), without_context _ _, by decide +kernel⟩

/-- Seven other contexts with a steward on the same SCC. -/
def sevenStewards : State :=
  { withContext startSteward {} with
    ctxs := (0, { live := true, home := 2 }) :: (List.range 7).map fun i => (i + 1, { live := true, home := 2, fslot := i, steward := some (sccKey 2 i) }) }

theorem witness_steward_start_full : commandTaken sevenStewards startSteward ∧ 7 ≤ stewardsAt sevenStewards (sevenStewards.ctx 0).home none :=
  ⟨taken_of (by decide +kernel), by decide +kernel⟩

/-- CTX_DESTROY, CTX_RESET, CTX_PREEMPT and CTX_IMAGE of context 0. -/
def onContext (op : W64) (a : W64) : Cmd := [0x00040000 + op, 0, a, 0, 0, 0, 0, 0]

theorem witness_ctx_destroy : let c := onContext 0x11 0
    let s := withContext c {}
    commandTaken s c ∧ c.op = 0x11 ∧ s.wf = true ∧ tidy (s.ctx 0) ∧ (s.ctx 0).steward = none ∧ ¬ stewardSaved s 0 ∧ (s.ctx 0).openLaunches = [] :=
  ⟨taken_of (by decide +kernel), by decide +kernel, by decide +kernel, by unfold tidy; decide +kernel, by decide +kernel, fun h => absurd h.1 (by decide +kernel), by decide +kernel⟩

theorem witness_ctx_destroy_refused : let c := onContext 0x11 0
    commandTaken (commanded c {}) c ∧ commandTaken (withContext c { steward := some 65552 }) c ∧ ((withContext c { steward := some 65552 }).ctx 0).steward ≠ none :=
  ⟨taken_of (by decide +kernel), taken_of (by decide +kernel), by decide +kernel⟩

theorem witness_ctx_reset : let c := onContext 0x14 0
    let s := withContext c {}
    commandTaken s c ∧ c.op = 0x14 ∧ s.wf = true ∧ tidy (s.ctx 0) ∧ (s.ctx 0).saveCmd = none :=
  ⟨taken_of (by decide +kernel), by decide +kernel, by decide +kernel, by unfold tidy; decide +kernel, by decide +kernel⟩

theorem witness_ctx_image : let c := onContext 0x16 0x200000
    commandTaken (withContext c {}) c ∧ c.op = 0x16 ∧ (c.word 2).toNat % 4096 = 0 ∧ (c.word 2).toNat < 2 ^ 52 :=
  ⟨taken_of (by decide +kernel), by decide +kernel, by decide +kernel, by decide +kernel⟩

theorem witness_ctx_image_refused : let c := onContext 0x16 0x200001
    commandTaken (withContext c {}) c ∧ (c.word 2).toNat % 4096 ≠ 0 := ⟨taken_of (by decide +kernel), by decide +kernel⟩

/-- WARP_KILL of the warp in slot 0 of a core. -/
def killWarp (core : W64) : Cmd := [0x00050017, 0, core, 0, 0, 0, 0, 0]

theorem witness_warp_kill : let s := commanded (killWarp 0) ending
    let t := s.thread (warpKey 0 0)
    commandTaken s (killWarp 0) ∧ (killWarp 0).op = 0x17 ∧ s.wf = true ∧ exists_ s 0 ∧ t.live = true ∧ t.ctx = 0 ∧ t.engine = .core ∧ t.core = 0
      ∧ t.slot = bits (killWarp 0) 2 14 10 ∧ ((s.ctx 0).launch t.launch).live = true :=
  ⟨taken_of (by decide +kernel), by decide +kernel, by decide +kernel, ⟨by decide, by decide +kernel⟩, by decide +kernel, by decide +kernel, by decide +kernel,
    by decide +kernel, by decide +kernel, by decide +kernel⟩

theorem witness_warp_kill_refused : commandTaken (withContext (killWarp 768) {}) (killWarp 768) ∧ 768 ≤ bits (killWarp 768) 2 9 0
    ∧ commandTaken (withContext (killWarp 0) {}) (killWarp 0) ∧ ((withContext (killWarp 0) {}).thread (warpKey 0 0)).live = false :=
  ⟨taken_of (by decide +kernel), by decide +kernel, taken_of (by decide +kernel), by decide +kernel⟩

theorem witness_ctx_preempt : let c := onContext 0x12 0x200000
    let s := withContext c {}
    commandTaken s c ∧ c.op = 0x12 ∧ (s.ctx 0).gone = false ∧ (s.ctx 0).save = .none ∧ (c.word 2).toNat ≠ 0 ∧ (c.word 2).toNat % 4096 = 0
      ∧ (c.word 2).toNat < 2 ^ 52 :=
  ⟨taken_of (by decide +kernel), by decide +kernel, by decide +kernel, by decide +kernel, by decide +kernel, by decide +kernel, by decide +kernel⟩

theorem witness_ctx_preempt_other : let c := onContext 0x12 0
    commandTaken (withContext c { gone := true }) c ∧ commandTaken (withContext c {}) c ∧ ((withContext c {}).ctx 0).image = 0
      ∧ hostAssisted (withContext c {}) ((withContext c {}).ctx 0).atoll 4 = false ∧ commandTaken (withContext c { save := .asked 5 }) c :=
  ⟨taken_of (by decide +kernel), taken_of (by decide +kernel), by decide +kernel, by decide +kernel, taken_of (by decide +kernel)⟩

/-- The context saved by the rotation at 2 MiB, its image sealed. -/
def savedContext (c : Cmd) : State := { withContext c { save := .saved, saveTo := 0x200000 } with mem := [(0x200010, 1)] }

theorem witness_ctx_preempt_saved : let c := onContext 0x12 0
    commandTaken (savedContext c) c ∧ isSealed (savedContext c) 0x200000 = true ∧ (c.word 2).toNat = 0
      ∧ isSealed (withContext c { save := .saved, saveTo := 0x200000 }) 0x200000 = false :=
  ⟨taken_of (by decide +kernel), by decide +kernel, by decide +kernel, by decide +kernel⟩

theorem witness_ctx_preempt_moved : let c := onContext 0x12 0x300000
    commandTaken (savedContext c) c ∧ isSealed (savedContext c) 0x200000 = true ∧ (c.word 2).toNat = 0x300000 ∧ 0x200000 + 0x9800 ≤ 0x300000 :=
  ⟨taken_of (by decide +kernel), by decide +kernel, by decide +kernel, by decide⟩

/-- CTX_RESTORE of the image at 2 MiB on atoll 0 and cluster 2. -/
def restoreCmd : Cmd := [0x00060013, 0x02000000, 0x200000, 0, 0, 0, 0, 0]

theorem witness_ctx_restore_invalid : commandTaken (commanded restoreCmd hosting) restoreCmd
    ∧ (imageWord (commanded restoreCmd hosting) (restoreCmd.word 2).toNat 16).getLsbD 0 = false := ⟨taken_of (by decide +kernel), by decide +kernel⟩

/-- The package with a valid image there: VALID, and the device's number or not. -/
def imaged : State := commanded restoreCmd { hosting with mem := [(0x200010, 1)] }

theorem imaged_byte (k : Nat) (h : 0x200010 < k) : imaged.byte k = 0 := by
  have hm : imaged.mem = [(0x200010, 1)] := rfl
  rw [State.byte, hm, look, if_neg (by omega), look]; rfl

theorem imaged_word (k : Nat) (h : 0x200010 < k) : readNat imaged k 8 = 0 := by
  have hk : ∀ n j, 0x200010 < j → readNat imaged j n = 0 := by
    intro n
    induction n with
    | zero => exact fun _ _ => rfl
    | succ n ih =>
      intro j hj
      rw [readNat, imaged_byte j hj, ih (j + 1) (by omega)]; rfl
  exact hk 8 k h

theorem imaged_no_rows : noReopening imaged 0x200000 := by
  intro h _
  have : imageWord imaged 0x200000 (0xE00 + 32 * h) = 0 := by rw [imageWord, imaged_word _ (by omega)]; rfl
  rw [this]; decide

theorem witness_ctx_restore : commandTaken imaged restoreCmd ∧ restoreCmd.op = 0x13 ∧ imaged.wf = true ∧ (imageWord imaged 0x200000 16).getLsbD 0 = true
    ∧ (atollOfImage imaged 0x200000 = none ∨ atollOfImage imaged 0x200000 = some (bits restoreCmd 1 18 16)) ∧ savedTo imaged 0x200000 = none
    ∧ (∀ code, ¬ placeFault imaged restoreCmd code) ∧ noReopening imaged 0x200000 ∧ lowestFree imaged 0
    ∧ hostAssisted imaged (bits restoreCmd 1 18 16) 5 = false ∧ (∀ m, (imaged.ctx m).save ≠ .restoring) ∧ seat imaged (bits restoreCmd 1 29 24) 0 := by
  refine ⟨taken_of (by decide +kernel), by decide +kernel, by decide +kernel, by decide +kernel, ?_, by decide +kernel,
    no_place_fault (by decide +kernel) (by decide +kernel) (by decide +kernel) (by decide +kernel) rfl, imaged_no_rows,
    ⟨by decide, by decide +kernel, fun m h => absurd h (by omega)⟩, by decide +kernel, fun m => by simp [imaged, commanded, hosting, State.ctx, look],
    ⟨by decide +kernel, by decide +kernel⟩⟩
  have h0 : field (imageWord imaged 0x200000 0) 63 56 = 0 := by decide +kernel
  have h1 : bits restoreCmd 1 18 16 = 0 := by decide +kernel
  simp only [atollOfImage, h0, h1]
  split <;> simp

theorem witness_ctx_restore_counters : let s := { imaged with sys := { imaged.sys with atollmode := [(0, 32)] } }
    commandTaken s restoreCmd ∧ hostAssisted s (bits restoreCmd 1 18 16) 5 = true ∧ s.sys.asks = [] :=
  ⟨taken_of (by decide +kernel), by decide +kernel, by decide +kernel⟩

/-- MIGRATE of the page at 0 of context 0 to a frame. -/
def migrateTo (new : W64) : Cmd := [0x00070021, 0, 0, new, 0, 0, 0, 0]

/-- The tables that map it, and migration left to the host. -/
def migrating : State := commanded (migrateTo 0x800000) { movable 1 with sys := { atollmode := [(0, 2)] } }

theorem witness_migrate : commandTaken migrating (migrateTo 0x800000) ∧ (migrateTo 0x800000).op = 0x21 ∧ exists_ migrating 0
    ∧ hostAssisted migrating (migrating.ctx 0).atoll 1 = true
    ∧ leafOf migrating 0 0 = some { old := 0x100000 * 1 + 65536 * 4, size := 65536, leafAt := 0x100000 + 65536 * 3 }
    ∧ pinned migrating (0x100000 * 1 + 65536 * 4) 65536 = false ∧ inMove migrating (0x100000 * 1 + 65536 * 4) 65536 = false
    ∧ (migrating.migration 0).live = false ∧ takesPage migrating 0 0x800000 (0x100000 * 1 + 65536 * 4) 65536 = true :=
  ⟨taken_of (by decide +kernel), by decide +kernel, ⟨by decide, by decide +kernel⟩, by decide +kernel, by decide +kernel, by decide +kernel, by decide +kernel,
    by decide +kernel, movable_takes (s := migrating) 1 0x800000 rfl rfl rfl rfl (by decide) (by decide) (by decide)⟩

theorem witness_migrate_refused : commandTaken (withContext (migrateTo 0) {}) (migrateTo 0)
    ∧ hostAssisted (withContext (migrateTo 0) {}) ((withContext (migrateTo 0) {}).ctx 0).atoll 1 = false := ⟨taken_of (by decide +kernel), by decide +kernel⟩

/-- TOKENS with a budget of 100. -/
def setTokens : Cmd := [0x00080022, 100, 0, 0, 0, 0, 0, 0]

theorem witness_tokens : let s := commanded setTokens (tokened {} { atollmode := [(0, 8)] })
    commandTaken s setTokens ∧ setTokens.op = 0x22 ∧ tokensByHost s = true ∧ commandTaken (commanded setTokens {}) setTokens
      ∧ tokensByHost (commanded setTokens {}) = false :=
  ⟨taken_of (by decide +kernel), by decide +kernel, by decide +kernel, taken_of (by decide +kernel), by decide +kernel⟩

/-- GRANTS of atoll 0 and context 0. -/
def setGrant (g : W64) : Cmd := [0x00090023, 0, g, 0, 0, 0, 0, 0]

/-- A package whose grants the host sets. -/
def granting (g : W64) : State := commanded (setGrant g) (tiding {} {} { atollmode := [(0, 4)] })

theorem witness_grants : let g : W64 := 0x08010004
    commandTaken (granting g) (setGrant g) ∧ (setGrant g).op = 0x23 ∧ ((granting g).atoll 0).live = true ∧ ofAtoll (granting g) 0 0
      ∧ hostAssisted (granting g) 0 2 = true ∧ grantOk ((granting g).ctx 0).tide.kc [bits (setGrant g) 2 5 0, bits (setGrant g) 2 11 8,
        bits (setGrant g) 2 19 16, bits (setGrant g) 2 30 24, bits (setGrant g) 2 35 32] = true :=
  ⟨taken_of (by decide +kernel), by decide +kernel, by decide +kernel, ⟨by decide +kernel, by decide +kernel⟩, by decide +kernel, by decide +kernel⟩

theorem witness_grants_refused : let g : W64 := 0
    commandTaken (granting g) (setGrant g) ∧ grantOk ((granting g).ctx 0).tide.kc [0, 0, 0, 0, 0] = false
      ∧ commandTaken (commanded (setGrant g) (tiding {} {} {})) (setGrant g) ∧ hostAssisted (commanded (setGrant g) (tiding {} {} {})) 0 2 = false
      ∧ commandTaken (commanded (setGrant g) {}) (setGrant g) ∧ ((commanded (setGrant g) {}).atoll 0).live = false :=
  ⟨taken_of (by decide +kernel), by decide +kernel, taken_of (by decide +kernel), by decide +kernel, taken_of (by decide +kernel), by decide +kernel⟩

/-- REPLY to tag 5 with a result. -/
def replyTo (v : W64) : Cmd := [0x000A0020, 5, v, 0, 0, 0, 0, 0]

theorem witness_reply_none : commandTaken (commanded (replyTo 0) {}) (replyTo 0) ∧ (replyTo 0).op = 0x20 ∧ (commanded (replyTo 0) {}).sys.asks = [] :=
  ⟨taken_of (by decide +kernel), by decide +kernel, rfl⟩

theorem witness_reply_save : let s := commanded (replyTo 0x200000) { ctxs := [(0, { live := true, save := .asked 0 })], sys := { asks := [{ tag := 5, code := 0x83 }] } }
    commandTaken s (replyTo 0x200000) ∧ s.sys.asks.find? (fun r => r.tag == 5) = some { tag := 5, code := 0x83 }
      ∧ (∀ i, 3 ≤ i → i < 8 → (replyTo 0x200000).word i = 0) ∧ (s.ctx 0).save = .asked 0 ∧ 0x200000 % 4096 = 0 :=
  ⟨taken_of (by decide +kernel), by decide +kernel, by decide +kernel, by decide +kernel, by decide⟩

theorem witness_reply_fault_waits : let s := commanded (replyTo 2) { parkedFault {} with dies := [(0, { restart := true })], sys := { asks := [{ tag := 5, code := 0x80, what := 1 }] } }
    commandTaken s (replyTo 2) ∧ (s.die (s.fault 1).die).restart = true := ⟨taken_of (by decide +kernel), by decide +kernel⟩

theorem witness_reply_counters : let s := commanded (replyTo 0x200000) { ctxs := [(0, { live := true, save := .asked 0 })], sys := { asks := [{ tag := 5, code := 0x84 }] } }
    commandTaken s (replyTo 0x200000) ∧ s.sys.asks.find? (fun r => r.tag == 5) = some { tag := 5, code := 0x84 } ∧ 0x200000 % 8 = 0
      ∧ (s.ctx 0).save ≠ .none ∧ ∀ m, (s.ctx m).save ≠ .restoring := by
  refine ⟨taken_of (by decide +kernel), by decide +kernel, by decide, by decide +kernel, fun m => ?_⟩
  by_cases h : m = 0
  · subst h; decide +kernel
  · simp [commanded, State.ctx, look, Ne.symm h]

theorem witness_reply_fault : let s := commanded (replyTo 2) { parkedFault {} with sys := { asks := [{ tag := 5, code := 0x80, what := 1 }] } }
    commandTaken s (replyTo 2) ∧ s.sys.asks.find? (fun r => r.tag == 5) = some { tag := 5, code := 0x80, what := 1 } ∧ (s.fault 1).live = true
      ∧ (s.fault 1).who = .lanes 0 1 ∧ 1 < s.fl.next :=
  ⟨taken_of (by decide +kernel), by decide +kernel, by decide +kernel, by decide +kernel, by decide +kernel⟩
/-! ### Updates and attestation -/

/-- An open session and an update in some state. -/
def updating (p : Pldm) (fw : Firmware) : State :=
  { dies := (List.range 4).map fun d => (d, { fw }), sys := { pldm := p, spdm := { version := true, caps := true, algs := true, session := 2 } } }

theorem witness_update : updateServed (updating .idle {}) ∧ updateServed (updating .verify {}) := by unfold updateServed; decide +kernel

theorem witness_image : imageGood (updating .verify { major := 1 }) { signed := true, major := 1 }
    ∧ ¬ imageGood (updating .verify { arctr := 2 }) { signed := true, svn := 1 } := by
  refine ⟨⟨rfl, by decide +kernel, by decide +kernel⟩, fun h => ?_⟩
  exact absurd (h.2.2 0 (by decide)).1 (by decide +kernel)

theorem witness_image_key : ¬ imageGood (updating .verify {}) { signed := true, key := 1 } := fun h => absurd h.2.1 (by decide +kernel)

theorem witness_activate : (updating .ready { state := 2 }).sys.pldm = .ready ∧ (∀ d, d < 4 → ((updating .ready { state := 2 }).die d).fw.state = 2)
    ∧ ¬ (∀ d, d < 4 → ((updating .ready {}).die d).fw.state = 2) := by
  refine ⟨rfl, by decide +kernel, fun h => absurd (h 0 (by decide)) (by decide +kernel)⟩

theorem witness_handover : let s := updating .activate { state := 2 }
    s.sys.pldm = .activate ∧ (s.die 0).fw.state = 2 ∧ (s.die 0).restart = false := by decide +kernel

/-- Die 0 runs the new image, the others hold it staged. -/
def firstSwitched : State :=
  { dies := [(0, { fw := { switched := true, pend := true } })] ++ [1, 2, 3].map fun d => (d, { fw := { state := 2 } }), sys := { pldm := .activate } }

theorem witness_handover_next : firstSwitched.sys.pldm = .activate ∧ (firstSwitched.die 1).fw.state = 2 ∧ (firstSwitched.die 1).restart = false
    ∧ ∀ e, e < 1 → (firstSwitched.die e).fw.state = 0 ∧ (firstSwitched.die e).fw.switched = true := by decide +kernel

theorem witness_handover_rest : let s := updating .activate { state := 3 }
    let v := updating .activate { state := 4 }
    (s.die 1).fw.state = 3 ∧ s.sys.dt ≤ (s.die 1).fw.since + 5000000 ∧ s.wf = true ∧ (v.die 1).fw.state = 4
      ∧ v.sys.dt ≤ (v.die 1).fw.since + 5000000 ∧ (s.die 1).handover = true := by decide +kernel

theorem witness_resumes : let s : State := { dies := [(1, { fw := { state := 4 }, owed := [0x161] })]
                                             ctxs := [(0, { live := true, home := 12 })]
                                             fl := { faults := [(1, { live := true, die := 1, miss := { stage2 := true } })] } }
    (s.die 1).handover = true ∧ s.wf = true ∧ dieOfCluster (s.ctx 0).home = 1 ∧ waitsFor { live := true, die := 1, miss := { stage2 := true } } 1
      ∧ 0x161 ∈ (s.die 1).owed := by unfold waitsFor; decide +kernel

theorem witness_commit : let s := { updating .idle { pend := true, switched := true } with sys := { dt := 60000000000 } }
    onNewImage s ∧ s.sys.running + 60000000000 ≤ s.sys.dt := by unfold onNewImage; decide +kernel

theorem witness_no_commit : ¬ (onNewImage {} ∧ ({} : State).sys.running + 60000000000 ≤ ({} : State).sys.dt) := fun h => absurd h.2 (by decide)

theorem witness_attest : answersFor {} 0 ∧ (({} : State).die 0).restart = false ∧ answersFor { dies := [(0, { fw := { state := 3 } })] } 1
    ∧ (({ dies := [(2, { restart := true })] } : State).die 2).restart = true ∧ ∀ e, e < 4 → (({} : State).die e).restart = false :=
  ⟨⟨by decide, by decide +kernel, fun e h => absurd h (by omega)⟩, by decide +kernel, ⟨by decide, by decide +kernel, by decide +kernel⟩, by decide, by decide +kernel⟩

/-! ### Resets -/

/-- RESET of a level for an atoll or die. -/
def resetCmd (level what : W64) : Cmd := [0x000B0018, level + 256 * what, 0, 0, 0, 0, 0, 0]

theorem witness_reset_atoll : let c := resetCmd 4 0
    let s := commanded c (tiding {} { clusters := 1 } {})
    resetTo s c 4 ∧ (s.atoll (bits c 1 10 8)).live = true ∧ ofAtoll s 0 0 ∧ (∀ p ∈ keysOf s.ca.versions, p < 2 ^ 36) :=
  ⟨⟨taken_of (by decide +kernel), by decide +kernel, by decide +kernel⟩, by decide +kernel, ⟨by decide +kernel, by decide +kernel⟩,
    fun p h => by simp [commanded, tiding, keysOf] at h⟩

theorem witness_reset_atoll_refused : let c := resetCmd 4 7
    resetTo (commanded c {}) c 4 ∧ ((commanded c {}).atoll (bits c 1 10 8)).live = false
      ∧ commandTaken (commanded (resetCmd 3 0) {}) (resetCmd 3 0) ∧ bits (resetCmd 3 0) 1 2 0 < 4 :=
  ⟨⟨taken_of (by decide +kernel), by decide +kernel, by decide +kernel⟩, by decide +kernel, taken_of (by decide +kernel), by decide +kernel⟩

theorem witness_core_reset : (ending.wg 7).live = true ∧ (ending.wg 7).core = 0 ∧ (ending.wg 7).ctx = 0 := by decide +kernel

theorem witness_cluster_reset : ((sccOf {}).thread 65536).live = true ∧ ((sccOf {}).thread 65536).engine = .scc ∧ ((sccOf {}).thread 65536).core = 0 := by
  decide +kernel

theorem witness_reset_die : let c := resetCmd 5 3
    let s := commanded c {}
    resetTo s c 5 ∧ bits c 1 10 8 < 4 ∧ resetTo (commanded (resetCmd 5 4) {}) (resetCmd 5 4) 5 ∧ 4 ≤ bits (resetCmd 5 4) 1 10 8 :=
  ⟨⟨taken_of (by decide +kernel), by decide +kernel, by decide +kernel⟩, by decide +kernel,
    ⟨taken_of (by decide +kernel), by decide +kernel, by decide +kernel⟩, by decide +kernel⟩

theorem witness_reset_package : resetTo (commanded (resetCmd 6 0) {}) (resetCmd 6 0) 6 ∧ resetTo (commanded (resetCmd 7 0) {}) (resetCmd 7 0) 7 :=
  ⟨⟨taken_of (by decide +kernel), by decide +kernel, by decide +kernel⟩, ⟨taken_of (by decide +kernel), by decide +kernel, by decide +kernel⟩⟩

theorem witness_reset_die_atolls : let s : State := { atolls := [(0, { live := true, clusters := 1 })], ctxs := [(0, { live := true })] }
    atollOn s 0 0 ∧ ofAtoll s 0 0 :=
  ⟨⟨⟨_, List.mem_singleton.mpr rfl⟩, 0, by decide, by decide +kernel, by decide +kernel⟩, ⟨by decide +kernel, by decide +kernel⟩⟩

theorem witness_reset_die_update : (updating .activate { state := 4 }).sys.pldm = .activate ∧ ((updating .activate { state := 4 }).die 0).fw.switched = false := by
  decide +kernel

theorem witness_record_update : updateServed (updating .idle {}) ∧ ({ signed := true, svn := 1 } : ConfigRecord).signed = true
    ∧ (updating .idle {}).sys.recCtr ≤ 1 ∧ ¬ (({ signed := false } : ConfigRecord).signed = true) := by unfold updateServed; decide +kernel

/-! ### Decoding and steps -/

theorem witness_decode_traps : scalars.cur = some (issueOf 2) ∧ (scalars.thread 0).episode = none ∧ plainGroup scalars (issueOf 2) ∧ (issueOf 2).lanes ≠ 0
    ∧ (scalars.thread 0).engine = .core ∧ (scalars.thread 0).level = .kernel :=
  ⟨by decide +kernel, by decide +kernel, plain_scalars, by decide, by decide +kernel, by decide +kernel⟩

theorem witness_step : let s := { fetching with fcq := [issueOf 1] }
    s.fcq = issueOf 1 :: [] ∧ stillThere s (issueOf 1) = (issueOf 1).lanes ∧ (issueOf 1).lanes ≠ 0
      ∧ fetch s (s.thread 0) 8 = .ok 0x1700A00000000000 ∧ (s.thread 0).seq = none ∧ longWord 0x1700A00000000000 = true
      ∧ hasNextWord s (issueOf 1) = true ∧ fetch s (s.thread 0) (8 + 8) = .ok 7 ∧ decode 0x1700A00000000000 7 ≠ none := by decide +kernel

theorem witness_step_last_word : let s := { fetching with fcq := [issueOf 1]
                                                          threads := [(0, { warpOf 1 {} with regs := { (warpOf 1 {}).regs with lanes := [(0, { atEight with word := 0xFC01000000000000 })] } })] }
    stillThere s (issueOf 1) = (issueOf 1).lanes ∧ fetch s (s.thread 0) 8 = .ok 0x1700A00000000000 ∧ hasNextWord s (issueOf 1) = false := by
  decide +kernel

theorem witness_step_unassigned : decode 0xFFFFFFFFFFFFFFFF 0 = none ∨ decode 0xFBC0000000000000 0 = none := by decide +kernel

theorem witness_well_formed : (Instr.sadd f345).wellFormed = true := by decide +kernel

theorem witness_canonical_form : ({ fetching with fcq := [issueOf 1] } : State).wf = true
    ∧ ∃ t, step { fetching with fcq := [issueOf 1] } = .next t := ⟨by decide +kernel, _, rfl⟩

end Sys2Proof.Tests
end

section
/-! SUPPORT. Scalar division (R106): what an instruction of group 0x1 leaves, the special cases of the four divisions,
and the statement about them. -/

namespace Sys2Proof.Machine

open Sys2Proof.Safety Sys2Proof.Claims

/-! ### What an instruction of group 0x1 leaves -/

/-- On the operands' width of R104, the result is the sign-extended one; at 64 bits that is the result itself. -/
theorem sized_eq_ofInt {w : BitVec 1} {n : Nat} (hn : n = if w = 1 then 32 else 64)
    (op : (n : Nat) → BitVec n → BitVec n → BitVec n) (x y : W64) :
    sized w op x y = BitVec.ofInt 64 (op n (x.setWidth n) (y.setWidth n)).toInt := by
  by_cases hw : w = 1
  · rw [if_pos hw] at hn
    subst hn
    rw [sized, if_pos hw, BitVec.signExtend]
  · rw [if_neg hw] at hn
    subst hn
    rw [sized, if_neg hw, BitVec.setWidth_eq, BitVec.setWidth_eq, BitVec.ofInt_toInt]

/-- A write to a scalar register leaves the lanes. -/
theorem lane_setS (t : Thread) (n : Nat) (v : W64) (ks : List Nat) (l : Nat) :
    ((t.updRegs fun r => r.setS n v).heal ks).lane l = t.lane l := by
  simp only [Thread.lane, regs_heal, regs_updRegs, Regs.setS]
  split <;> rfl

/-- An instruction of group 0x1 writes its one result into sd, moves its lanes on, and changes nothing else (R102). -/
theorem scalarOp_leaves {i : Instr} {f : FS} {op : (n : Nat) → BitVec n → BitVec n → BitVec n} {s : State} {iss : Issue}
    (hi : exec i s = scalarOp f op s) (h : runsNow (scalarShape f []) (fun _ _ => true) iss s) :
    ∃ u, leaves i s iss.thr u ∧ movedOn iss.thr iss.lanes 8 s u
      ∧ onlyRegs iss.thr s u
          ((regsOf s iss).setS f.sd.toNat (sized f.w op (scalar s iss f.sa.toNat) (secondOperand f s iss))) := by
  simp only [leaves, hi]
  exact plain_onlyRegs (g := fun t => (t.updRegs fun r => r.setS f.sd.toNat _).heal [65536 + f.sd.toNat]) h
    (fun _ _ => rfl) (.inl rfl) (fun _ => rfl) (fun _ => rfl) (fun _ => rfl) (fun t l => lane_setS t _ _ _ l) rfl

/-! ### The special cases of R106 -/

/-- What R106 says of the result `v` of dividing `x` by `y`, by the instruction. -/
def DivisionResult (i : Instr) (f : FS) {n : Nat} (x y v : BitVec n) : Prop :=
  (i = .sdiv f → (y = 0 → v = BitVec.allOnes n) ∧ (x = BitVec.intMin n → y = BitVec.allOnes n → v = x))
    ∧ (i = .sdivn f → v = if y = 0 then BitVec.allOnes n else BitVec.ofNat n (x.toNat / y.toNat))
    ∧ (i = .srem f → (y = 0 → v = x) ∧ (x = BitVec.intMin n → y = BitVec.allOnes n → v = 0))
    ∧ (i = .sremn f → v = if y = 0 then x else BitVec.ofNat n (x.toNat % y.toNat))

theorem intMin_sdiv_allOnes (n : Nat) : (BitVec.intMin n).sdiv (BitVec.allOnes n) = BitVec.intMin n := by
  rw [← BitVec.neg_one_eq_allOnes, BitVec.intMin_sdiv_neg_one]

theorem allOnes_ne_zero {n : Nat} (hn : 0 < n) : BitVec.allOnes n ≠ 0 := by
  simpa using Nat.ne_of_gt hn

theorem srem_allOnes {n : Nat} (hn : 0 < n) (x : BitVec n) : x.srem (BitVec.allOnes n) = 0 := by
  refine BitVec.eq_of_toInt_eq ?_
  rw [BitVec.toInt_srem, BitVec.toInt_allOnes, if_pos hn]
  simp

theorem divSigned_zero (n : Nat) (x : BitVec n) : divSigned n x 0 = BitVec.allOnes n := if_pos rfl

theorem divSigned_intMin_allOnes {n : Nat} (hn : 0 < n) :
    divSigned n (BitVec.intMin n) (BitVec.allOnes n) = BitVec.intMin n := by
  rw [divSigned, if_neg (allOnes_ne_zero hn), intMin_sdiv_allOnes]

theorem divisionResult_sdiv (f : FS) {n : Nat} (hn : 0 < n) (x y : BitVec n) :
    DivisionResult (.sdiv f) f x y (divSigned n x y) := by
  refine ⟨fun _ => ⟨?_, ?_⟩, nofun, nofun, nofun⟩
  · rintro rfl
    exact divSigned_zero n x
  · rintro rfl rfl
    exact divSigned_intMin_allOnes hn

theorem divisionResult_sdivn (f : FS) {n : Nat} (x y : BitVec n) : DivisionResult (.sdivn f) f x y (divUnsigned n x y) := by
  refine ⟨nofun, fun _ => ?_, nofun, nofun⟩
  rw [divUnsigned, BitVec.udiv_def]

theorem divisionResult_srem (f : FS) {n : Nat} (hn : 0 < n) (x y : BitVec n) :
    DivisionResult (.srem f) f x y (if y = 0 then x else x.srem y) := by
  refine ⟨nofun, nofun, fun _ => ⟨fun hy => if_pos hy, ?_⟩, nofun⟩
  rintro - rfl
  rw [if_neg (allOnes_ne_zero hn), srem_allOnes hn]

theorem divisionResult_sremn (f : FS) {n : Nat} (x y : BitVec n) :
    DivisionResult (.sremn f) f x y (if y = 0 then x else x % y) := by
  refine ⟨nofun, nofun, nofun, fun _ => ?_⟩
  rw [BitVec.umod_def]

/-- The instructions of R105 run as `scalarOp` of one operation, and where it divides its results are those of R106. -/
theorem exec_of_scalarTable {i : Instr} {f : FS} {op : (n : Nat) → BitVec n → BitVec n → BitVec n}
    (h : scalarTable i = some (f, op)) :
    ∃ m, (∀ s, exec i s = scalarOp f m s) ∧ ∀ n, 0 < n → ∀ x y, DivisionResult i f x y (m n x y) := by
  cases i <;> cases h
  case sdiv => exact ⟨divSigned, fun _ => rfl, fun _ hn => divisionResult_sdiv f hn⟩
  case sdivn => exact ⟨divUnsigned, fun _ => rfl, fun _ _ => divisionResult_sdivn f⟩
  case srem => exact ⟨_, fun _ => rfl, fun _ hn => divisionResult_srem f hn⟩
  case sremn => exact ⟨_, fun _ => rfl, fun _ _ => divisionResult_sremn f⟩
  all_goals exact ⟨_, fun _ => rfl, fun _ _ _ _ => ⟨nofun, nofun, nofun, nofun⟩⟩

end Sys2Proof.Machine
end

section
open Sys2Proof Sys2Proof.Machine Sys2Proof.Safety Sys2Proof.Claims

/-- Settles O2: v is what the operation of the instruction's `scalarOp` makes of the operands at their width. -/
theorem divisionNeverTraps : Obligations.DivisionNeverTraps := by
  unfold Obligations.DivisionNeverTraps
  intro i f op s iss n x y hi hn hx hy hrun
  obtain ⟨m, hexec, hdiv⟩ := exec_of_scalarTable hi
  obtain ⟨u, hleaves, -, hregs⟩ := scalarOp_leaves (hexec s) hrun
  rw [sized_eq_ofInt hn, ← hx, ← hy] at hregs
  have hpos : 0 < n := by split at hn <;> omega
  exact ⟨u, m n x y, hleaves, hregs, hdiv n hpos x y⟩

end

section
/-! SUPPORT. `VSHL` (R120): the model's source modifiers, types and clamps as the statements have them, what a clamped
result is, and the statement about shifts to the left. -/

namespace Sys2Proof.Machine

open Sys2Proof.Safety Sys2Proof.Claims

/-! ### Modifiers, types and clamps (R40 to R42) -/

/-- Absolute value and negation, taken on the pattern, are those of the integer modulo 2^32. -/
theorem modInt_eq_modified (n x : BitVec 1) (v : W32) : modInt n x v = modified n x v := by
  have habs : (if x = 1 && v.msb then -v else v) = BitVec.ofInt 32 (if x = 1 then (v.toInt.natAbs : Int) else v.toInt) := by
    by_cases hx : x = 1
    · cases hv : v.msb
      · rw [if_neg (by simp), if_pos hx, Int.natAbs_of_nonneg (BitVec.toInt_nonneg_of_msb_false hv), BitVec.ofInt_toInt]
      · rw [if_pos (by simp [hx]), if_pos hx, Int.ofNat_natAbs_of_nonpos (Int.le_of_lt (BitVec.toInt_neg_of_msb_true hv)),
          BitVec.ofInt_neg, BitVec.ofInt_toInt]
    · rw [if_neg (by simpa using fun h => absurd h hx), if_neg hx, BitVec.ofInt_toInt]
  simp only [modInt, modified, habs]
  split
  · rw [BitVec.ofInt_neg]
  · rfl

theorem readAs_eq_typed (t : BitVec 4) (v : W32) : readAs t.toNat v = typed t v :=
  if_congr (BitVec.toNat_eq (x := t) (y := 0)).symm rfl rfl

theorem sat_eq_max_min {lo hi : Int} (h : lo ≤ hi) (x : Int) : sat x lo hi = max lo (min x hi) := by
  unfold sat
  split
  · omega
  · split <;> omega

theorem clampInt_zero (e : Int) : clampInt 0 e = BitVec.ofInt 32 e := rfl

/-- What satsym writes reads, as signed, as the exact integer clamped to the signed range. -/
theorem toInt_clampInt_two (e : Int) : (clampInt 2 e).toInt = max (-2 ^ 31) (min e (2 ^ 31 - 1)) := by
  have h : clampInt 2 e = BitVec.ofInt 32 (sat e (-2 ^ 31) (2 ^ 31 - 1)) := rfl
  rw [h, sat_eq_max_min (by decide), BitVec.toInt_ofInt_eq_self (by decide) (by omega) (by omega)]

/-! ### Shifts by 32 places or more (R120) -/

theorem le_shift_of_pos {x : Int} {n : Nat} (hx : 0 < x) (hn : 32 ≤ n) : 2 ^ 32 ≤ x * 2 ^ n :=
  (pow_le_pow_right₀ (by decide) hn).trans (le_mul_of_one_le_left (by positivity) hx)

theorem shift_le_of_neg {x : Int} {n : Nat} (hx : x < 0) (hn : 32 ≤ n) : x * 2 ^ n ≤ -2 ^ 32 := by
  have h := le_shift_of_pos (neg_pos.mpr hx) hn
  rw [neg_mul] at h
  exact Int.le_neg_of_le_neg h

/-- A negative number saturates to the least signed one. -/
theorem clampInt_shift_of_neg {x : Int} {n : Nat} (hx : x < 0) (hn : 32 ≤ n) : clampInt 2 (x * 2 ^ n) = 0x80000000 := by
  have h := shift_le_of_neg hx hn
  refine BitVec.eq_of_toInt_eq ((toInt_clampInt_two _).trans ?_)
  rw [show (0x80000000 : W32).toInt = -2 ^ 31 by decide]
  omega

/-- A positive number saturates to the greatest signed one. -/
theorem clampInt_shift_of_pos {x : Int} {n : Nat} (hx : 0 < x) (hn : 32 ≤ n) : clampInt 2 (x * 2 ^ n) = 0x7FFFFFFF := by
  have h := le_shift_of_pos hx hn
  refine BitVec.eq_of_toInt_eq ((toInt_clampInt_two _).trans ?_)
  rw [show (0x7FFFFFFF : W32).toInt = 2 ^ 31 - 1 by decide]
  omega

/-- Without a clamp every bit of the number has left the word. -/
theorem clampInt_shift_wraps (x : Int) {n : Nat} (hn : 32 ≤ n) : clampInt 0 (x * 2 ^ n) = 0 := by
  have hdvd : (2 : Int) ^ 32 ∣ x * 2 ^ n := (pow_dvd_pow 2 hn).mul_left x
  refine BitVec.eq_of_toInt_eq ?_
  rw [clampInt_zero, BitVec.toInt_ofInt, Int.bmod_eq_zero_of_dvd (by exact_mod_cast hdvd)]
  rfl

/-- What `VSHL` gives a lane: the modified source times 2^s under the type, clamped (R119). -/
theorem vshl_leaves {f : FV2} {F : LaneForm} {s : State} {iss : Issue} (hF : laneTable (.vshl f) = some F)
    (hrun : runsNow F.shape (fun _ _ => true) iss s) (hcalm : calm s iss F.shape) :
    ∃ u, leaves (.vshl f) s iss.thr u
      ∧ onlyRegs iss.thr s u ((regsOf s iss).setLanes f.d.toNat ((activeLanes s iss F.shape).map fun l =>
          (l, clampInt f.cl (typed f.t (modified f.na f.xa (operand s iss F.shape 0 l))
            * 2 ^ ((operand s iss F.shape 1 l).toNat % 256))))) := by
  cases hF
  obtain ⟨hreef, hpoison, -, -⟩ := hcalm
  obtain ⟨u, hleaves, -, hregs⟩ := vectorOp_leaves
    (op := fun v => clampInt f.cl (readAs f.t.toNat (modInt f.na f.xa (v.getD 0 0)) * 2 ^ shiftOf (v.getD 1 0)))
    hrun hreef hpoison
  simp only [modInt_eq_modified, readAs_eq_typed] at hregs
  exact ⟨u, hleaves, hregs⟩

end Sys2Proof.Machine
end

section
open Sys2Proof Sys2Proof.Machine Sys2Proof.Safety Sys2Proof.Claims

/-- Settles O5: the lanes take the clamped x × 2^s of `vshl_leaves`, and from s = 32 on that lies outside the signed range
or is a multiple of 2^32. -/
theorem shiftLeftSaturates : Obligations.ShiftLeftSaturates := by
  unfold Obligations.ShiftLeftSaturates
  intro f F s iss hF hrun hcalm
  obtain ⟨u, hleaves, hregs⟩ := vshl_leaves hF hrun hcalm
  refine ⟨u, _, hleaves, hregs, fun l _ => ⟨fun _ hcl => ?_, fun _ hcl hn => ⟨fun hx => ?_, fun hx => ?_⟩, fun hcl hn => ?_⟩⟩
  · simp only [hcl]
    exact toInt_clampInt_two _
  · simp only [hcl]
    exact clampInt_shift_of_neg hx hn
  · simp only [hcl]
    exact clampInt_shift_of_pos hx hn
  · simp only [hcl]
    exact clampInt_shift_wraps _ hn

end
